-- ==== Sys2Proof/Word.lean ====
section
/-! DEFINITION. The words, codes and operand records of the Yunamond Y8: what an instruction word or a step of the
device names. Nothing here computes; field extraction stands in Decode.lean and arithmetic under Machine/. -/

namespace Sys2Proof

/-- A 64-bit word: an instruction word (R53), a payload (R64), a register. -/
abbrev Word := BitVec 64
/-- One byte of memory. -/
abbrev Byte := BitVec 8
/-- A sparse table: rising keys, one value each. -/
abbrev Tab (α : Type) := List (Nat × α)

/-- The type codes of R23, in code order. -/
inductive Ty where
  | i8 | i16 | i32 | i64 | n8 | n16 | n32 | n64
  | f16 | bf16 | f32 | e4m3 | e5m2 | q4n | mx | none
  deriving DecidableEq, Repr, Inhabited

/-- The guard field G (R53, R56). -/
inductive Guard where
  | always | ifTrue | ifFalse | order
  deriving DecidableEq, Repr, Inhabited

/-- The operand positions of a target (R54). -/
inductive Pos where
  | l | r | x | g
  deriving DecidableEq, Repr, Inhabited

/-- One target field in use (R54): the consumer's slot and position. -/
structure Target where
  pos  : Pos
  slot : BitVec 7
  deriving DecidableEq, Repr, Inhabited

/-- Bits [55:28] of an instruction word (R53): everything but the opcode and the family form. A target field
with V = 0 is all zero (R54) and is `none` here. -/
structure Hdr where
  ty : Ty := .none
  g  : Guard := .always
  ar : BitVec 2 := 0
  t0 : Option Target := none
  t1 : Option Target := none
  deriving DecidableEq, Repr, Inhabited

/-- Form A (R58): I, COND or MODE, and the signed immediate. -/
structure FormA where
  i    : Bool := false
  mode : BitVec 4 := 0
  imm  : BitVec 23 := 0
  deriving DecidableEq, Repr, Inhabited

/-- Form M (R58): address space, scope, sub-operation, signed byte offset. -/
structure FormM where
  as    : BitVec 3 := 0
  scope : BitVec 3 := 0
  sub   : BitVec 4 := 0
  off   : BitVec 18 := 0
  deriving DecidableEq, Repr, Inhabited

/-- Form C (R58): channel, TAGOP, IMM20. -/
structure FormC where
  ch    : BitVec 4 := 0
  tagop : BitVec 4 := 0
  imm   : BitVec 20 := 0
  deriving DecidableEq, Repr, Inhabited

/-- Form T (R58): tile registers A and B, accumulator, ZA, ASC, SP and the per-op bits. -/
structure FormT where
  a   : BitVec 4 := 0
  b   : BitVec 4 := 0
  acc : BitVec 3 := 0
  za  : Bool := false
  asc : Bool := false
  sp  : Bool := false
  per : BitVec 14 := 0
  deriving DecidableEq, Repr, Inhabited

/-- Form S (R58): the resource and the 16-bit immediate. -/
structure FormS where
  id  : BitVec 12 := 0
  imm : BitVec 16 := 0
  deriving DecidableEq, Repr, Inhabited

/-- Who performs a register write (R283, R293, R401, R403): a unit by swr, a host function through its context
window or its device window, or firmware on a system core acting for itself. -/
inductive Writer where
  | unit (u : Nat)
  | ctxWindow (fn : Nat)
  | devWindow (fn : Nat)
  deriving DecidableEq, Repr, Inhabited

/-- One write of a system register: the writer, the register number of R283, the context or die whose register it
is, and the 64 bits written. -/
structure RegWrite where
  by_  : Writer := .devWindow 0
  num  : Nat := 0
  ctx  : Nat := 0
  die  : Nat := 0
  val  : Word := 0
  deriving DecidableEq, Repr, Inhabited

/-- One write into a queue's register block through a function (R298, R299). -/
structure QueueWrite where
  fn  : Nat := 0
  q   : Nat := 0
  off : Nat := 0
  val : Word := 0
  deriving DecidableEq, Repr, Inhabited

/-- A firing of an operator: the unit, the operator slot, and the firing's identity in that slot. -/
structure FireRef where
  u  : Nat := 0
  op : Nat := 0
  fr : Nat := 0
  deriving DecidableEq, Repr, Inhabited

/-- A packet of a Dyvis link (R378), its header fields read out and its body and data flits as bytes. -/
structure Packet where
  typ   : BitVec 8 := 0
  src   : Nat := 0
  dst   : Nat := 0
  mc    : Bool := false
  ctx   : Nat := 0
  p     : Bool := false
  x     : Bool := false
  iv    : Nat := 0
  flow  : Nat := 0
  unit  : Nat := 0
  body  : List Byte := []
  data  : List Byte := []
  deps  : List Nat := []
  deriving DecidableEq, Repr, Inhabited

/-- Where a bit error shows (R100): a one-bit error that scrubbing corrects; a one-bit error on an operand read of an
issuing instruction; a two-bit error in a scratch word, or in the L1 copy of a word of memory; an uncorrectable error in a state register, the configuration or
freeze store; a parity error in a token buffer. -/
inductive ErrSite where
  | oneBit
  | operand (f : FireRef) (slot : Nat)
  | scratch (addr : Nat)
  | l1 (addr : Nat)
  | sregs
  | config
  | freezeStore
  | tokens
  deriving DecidableEq, Repr, Inhabited

end Sys2Proof
end

