-- ==== Sys2Proof/Syntax.lean ====
section
/-! DEFINITION. The instruction words and the device steps of the opcode table: one constructor for each row.
The 131 words come first, in the order of the opcode map (R65), each with its header and its family form (R58);
the 121 steps of the device follow, each naming the object it happens to. -/

namespace Sys2Proof

/-- One row of the opcode table: an instruction word (R53, R65) or a step of the device (95_what_each_step_holds).
A step names its objects by number: units, dies, clusters, ports, contexts, regions, queues, links, or the identity
the state gives a pending object. -/
inductive Instr where
  /-- MOV, OP 0x01 (R111). -/
  | mov (h : Hdr) (f : FormA)
  /-- MOVI, OP 0x02 (R111). -/
  | movi (h : Hdr) (f : FormA)
  /-- MOVK, OP 0x03 (R111). -/
  | movk (h : Hdr) (f : FormA)
  /-- IN, OP 0x04 (R112). -/
  | inTok (h : Hdr) (f : FormC)
  /-- OUT, OP 0x05 (R112). -/
  | outTok (h : Hdr) (f : FormC)
  /-- RD, OP 0x06 (R113). -/
  | rd (h : Hdr) (f : FormS)
  /-- WR, OP 0x07 (R113). -/
  | wr (h : Hdr) (f : FormS)
  /-- SEL, OP 0x08 (R115). -/
  | sel (h : Hdr) (f : FormA)
  /-- BR, OP 0x09 (R116). -/
  | br (h : Hdr) (f : FormA)
  /-- BRC, OP 0x0A (R116). -/
  | brc (h : Hdr) (f : FormA)
  /-- NULL, OP 0x0B (R115). -/
  | null (h : Hdr) (f : FormA)
  /-- TAGNEW, OP 0x0C (R118). -/
  | tagnew (h : Hdr) (f : FormC)
  /-- TAGFREE, OP 0x0D (R118). -/
  | tagfree (h : Hdr) (f : FormC)
  /-- TAGSET, OP 0x0E (R118). -/
  | tagset (h : Hdr) (f : FormC)
  /-- GETTAG, OP 0x0F (R118). -/
  | gettag (h : Hdr) (f : FormC)
  /-- COUNT, OP 0x10 (R119). -/
  | count (h : Hdr) (f : FormA)
  /-- RIX, OP 0x11 (R119). -/
  | rix (h : Hdr) (f : FormA)
  /-- ADD, OP 0x20 (R121). -/
  | add (h : Hdr) (f : FormA)
  /-- SUB, OP 0x21 (R121). -/
  | sub (h : Hdr) (f : FormA)
  /-- MUL, OP 0x22 (R121). -/
  | mul (h : Hdr) (f : FormA)
  /-- MULH, OP 0x23 (R121). -/
  | mulh (h : Hdr) (f : FormA)
  /-- DIV, OP 0x24 (R121). -/
  | div (h : Hdr) (f : FormA)
  /-- REM, OP 0x25 (R121). -/
  | rem (h : Hdr) (f : FormA)
  /-- MIN, OP 0x26 (R121). -/
  | min (h : Hdr) (f : FormA)
  /-- MAX, OP 0x27 (R121). -/
  | max (h : Hdr) (f : FormA)
  /-- ABS, OP 0x28 (R121). -/
  | abs (h : Hdr) (f : FormA)
  /-- NEG, OP 0x29 (R121). -/
  | neg (h : Hdr) (f : FormA)
  /-- ADDS, OP 0x2A (R121). -/
  | adds (h : Hdr) (f : FormA)
  /-- SUBS, OP 0x2B (R121). -/
  | subs (h : Hdr) (f : FormA)
  /-- AND, OP 0x2C (R121). -/
  | and (h : Hdr) (f : FormA)
  /-- OR, OP 0x2D (R121). -/
  | or (h : Hdr) (f : FormA)
  /-- XOR, OP 0x2E (R121). -/
  | xor (h : Hdr) (f : FormA)
  /-- ANDN, OP 0x2F (R121). -/
  | andn (h : Hdr) (f : FormA)
  /-- SHL, OP 0x30 (R122). -/
  | shl (h : Hdr) (f : FormA)
  /-- SHR, OP 0x31 (R122). -/
  | shr (h : Hdr) (f : FormA)
  /-- ROT, OP 0x32 (R122). -/
  | rot (h : Hdr) (f : FormA)
  /-- CLZ, OP 0x33 (R121). -/
  | clz (h : Hdr) (f : FormA)
  /-- POPC, OP 0x34 (R121). -/
  | popc (h : Hdr) (f : FormA)
  /-- BFX, OP 0x35 (R123). -/
  | bfx (h : Hdr) (f : FormA)
  /-- BFI, OP 0x36 (R123). -/
  | bfi (h : Hdr) (f : FormA)
  /-- CMP, OP 0x37 (R124). -/
  | cmp (h : Hdr) (f : FormA)
  /-- CVTI, OP 0x38 (R125). -/
  | cvti (h : Hdr) (f : FormA)
  /-- MAD, OP 0x39 (R121). -/
  | mad (h : Hdr) (f : FormA)
  /-- FADD, OP 0x40 (R128). -/
  | fadd (h : Hdr) (f : FormA)
  /-- FSUB, OP 0x41 (R128). -/
  | fsub (h : Hdr) (f : FormA)
  /-- FMUL, OP 0x42 (R128). -/
  | fmul (h : Hdr) (f : FormA)
  /-- FMA, OP 0x43 (R128). -/
  | fma (h : Hdr) (f : FormA)
  /-- FMIN, OP 0x44 (R131). -/
  | fmin (h : Hdr) (f : FormA)
  /-- FMAX, OP 0x45 (R131). -/
  | fmax (h : Hdr) (f : FormA)
  /-- FABS, OP 0x46 (R131). -/
  | fabs (h : Hdr) (f : FormA)
  /-- FNEG, OP 0x47 (R131). -/
  | fneg (h : Hdr) (f : FormA)
  /-- FCMP, OP 0x48 (R132). -/
  | fcmp (h : Hdr) (f : FormA)
  /-- FCLASS, OP 0x49 (R133). -/
  | fclass (h : Hdr) (f : FormA)
  /-- FDIV, OP 0x4A (R128). -/
  | fdiv (h : Hdr) (f : FormA)
  /-- SQRT, OP 0x4B (R134). -/
  | sqrt (h : Hdr) (f : FormA)
  /-- RCP, OP 0x4C (R134). -/
  | rcp (h : Hdr) (f : FormA)
  /-- RSQ, OP 0x4D (R134). -/
  | rsq (h : Hdr) (f : FormA)
  /-- EX2, OP 0x4E (R134). -/
  | ex2 (h : Hdr) (f : FormA)
  /-- LG2, OP 0x4F (R134). -/
  | lg2 (h : Hdr) (f : FormA)
  /-- CVTF, OP 0x50 (R135). -/
  | cvtf (h : Hdr) (f : FormA)
  /-- CVTFI, OP 0x51 (R136). -/
  | cvtfi (h : Hdr) (f : FormA)
  /-- CVTIF, OP 0x52 (R137). -/
  | cvtif (h : Hdr) (f : FormA)
  /-- FSCALE, OP 0x53 (R130). -/
  | fscale (h : Hdr) (f : FormA)
  /-- LD, OP 0x60 (R156). -/
  | ld (h : Hdr) (f : FormM)
  /-- ST, OP 0x61 (R156). -/
  | st (h : Hdr) (f : FormM)
  /-- LDL, OP 0x62 (R160). -/
  | ldl (h : Hdr) (f : FormM)
  /-- AMO, OP 0x63 (R161). -/
  | amo (h : Hdr) (f : FormM)
  /-- CAS, OP 0x64 (R161). -/
  | cas (h : Hdr) (f : FormM)
  /-- OAMO, OP 0x65 (R163). -/
  | oamo (h : Hdr) (f : FormM)
  /-- PREF, OP 0x66 (R164). -/
  | pref (h : Hdr) (f : FormM)
  /-- CWB, OP 0x67 (R164). -/
  | cwb (h : Hdr) (f : FormM)
  /-- CINV, OP 0x68 (R164). -/
  | cinv (h : Hdr) (f : FormM)
  /-- OJOIN, OP 0x69 (R165). -/
  | ojoin (h : Hdr) (f : FormM)
  /-- FALLOC, OP 0x6A (R166). -/
  | falloc (h : Hdr) (f : FormM)
  /-- FFREE, OP 0x6B (R166). -/
  | ffree (h : Hdr) (f : FormM)
  /-- TCFG, OP 0x80 (R211). -/
  | tcfg (h : Hdr) (f : FormT)
  /-- TLD, OP 0x81 (R212). -/
  | tld (h : Hdr) (f : FormT)
  /-- TST, OP 0x82 (R212). -/
  | tst (h : Hdr) (f : FormT)
  /-- TZERO, OP 0x83 (R213). -/
  | tzero (h : Hdr) (f : FormT)
  /-- MMA, OP 0x84 (R214). -/
  | mma (h : Hdr) (f : FormT)
  /-- MMASP, OP 0x85 (R206). -/
  | mmasp (h : Hdr) (f : FormT)
  /-- TBIND, OP 0x86 (R215). -/
  | tbind (h : Hdr) (f : FormT)
  /-- TFREE, OP 0x87 (R215). -/
  | tfree (h : Hdr) (f : FormT)
  /-- TREAD, OP 0x88 (R216). -/
  | tread (h : Hdr) (f : FormT)
  /-- TWRITE, OP 0x89 (R216). -/
  | twrite (h : Hdr) (f : FormT)
  /-- TSCAL, OP 0x8A (R217). -/
  | tscal (h : Hdr) (f : FormT)
  /-- TCVT, OP 0x8B (R217). -/
  | tcvt (h : Hdr) (f : FormT)
  /-- TAMAX, OP 0x8C (R218). -/
  | tamax (h : Hdr) (f : FormT)
  /-- TTRANS, OP 0x8D (R218). -/
  | ttrans (h : Hdr) (f : FormT)
  /-- ACON, OP 0x8E (R219). -/
  | acon (h : Hdr) (f : FormT)
  /-- PDECL, OP 0x90 (R189). -/
  | pdecl (h : Hdr) (f : FormS)
  /-- PCON, OP 0x91 (R190). -/
  | pcon (h : Hdr) (f : FormS)
  /-- PRD, OP 0x92 (R191). -/
  | prd (h : Hdr) (f : FormS)
  /-- PSET, OP 0x93 (R192). -/
  | pset (h : Hdr) (f : FormS)
  /-- PSWAP, OP 0x94 (R191). -/
  | pswap (h : Hdr) (f : FormS)
  /-- PEXP, OP 0x95 (R191). -/
  | pexp (h : Hdr) (f : FormS)
  /-- PSTAT, OP 0x96 (R192). -/
  | pstat (h : Hdr) (f : FormS)
  /-- PDROP, OP 0x97 (R192). -/
  | pdrop (h : Hdr) (f : FormS)
  /-- STRM, OP 0xA0 (R243). -/
  | strm (h : Hdr) (f : FormS)
  /-- STRMI, OP 0xA1 (R243). -/
  | strmi (h : Hdr) (f : FormS)
  /-- SSTOP, OP 0xA2 (R244). -/
  | sstop (h : Hdr) (f : FormS)
  /-- CPY, OP 0xA3 (R245). -/
  | cpy (h : Hdr) (f : FormS)
  /-- TLW, OP 0xA4 (R246). -/
  | tlw (h : Hdr) (f : FormS)
  /-- TLRD, OP 0xA5 (R246). -/
  | tlrd (h : Hdr) (f : FormS)
  /-- RINGAW, OP 0xA6 (R247). -/
  | ringaw (h : Hdr) (f : FormS)
  /-- RINGREL, OP 0xA7 (R247). -/
  | ringrel (h : Hdr) (f : FormS)
  /-- PBINV, OP 0xA8 (R248). -/
  | pbinv (h : Hdr) (f : FormS)
  /-- SBAR, OP 0xA9 (R248). -/
  | sbar (h : Hdr) (f : FormS)
  /-- CALL, OP 0xB0 (R276). -/
  | call (h : Hdr) (f : FormS)
  /-- RET, OP 0xB1 (R277). -/
  | ret (h : Hdr) (f : FormS)
  /-- TCALL, OP 0xB2 (R276). -/
  | tcall (h : Hdr) (f : FormS)
  /-- KLOAD, OP 0xB3 (R278). -/
  | kload (h : Hdr) (f : FormS)
  /-- KDROP, OP 0xB4 (R278). -/
  | kdrop (h : Hdr) (f : FormS)
  /-- LAUNCH, OP 0xB5 (R323). -/
  | launch (h : Hdr) (f : FormS)
  /-- GPATCH, OP 0xB6 (R324). -/
  | gpatch (h : Hdr) (f : FormS)
  /-- DONE, OP 0xB7 (R325). -/
  | doneI (h : Hdr) (f : FormS)
  /-- BAR, OP 0xB8 (R336). -/
  | bar (h : Hdr) (f : FormS)
  /-- BARW, OP 0xB9 (R337). -/
  | barw (h : Hdr) (f : FormS)
  /-- SEAL, OP 0xBA (R358). -/
  | sealI (h : Hdr) (f : FormS)
  /-- SEALW, OP 0xBB (R359). -/
  | sealw (h : Hdr) (f : FormS)
  /-- IRREV, OP 0xBC (R360). -/
  | irrev (h : Hdr) (f : FormS)
  /-- IVRD, OP 0xBD (R361). -/
  | ivrd (h : Hdr) (f : FormS)
  /-- SRD, OP 0xC0 (R293). -/
  | srd (h : Hdr) (f : FormS)
  /-- SWR, OP 0xC1 (R293). -/
  | swr (h : Hdr) (f : FormS)
  /-- TRAP, OP 0xC2 (R294). -/
  | trap (h : Hdr) (f : FormS)
  /-- LEAVE, OP 0xC3 (R326). -/
  | leave (h : Hdr) (f : FormS)
  /-- YIELD, OP 0xC4 (R295). -/
  | yield (h : Hdr) (f : FormS)
  /-- HALT, OP 0xC5 (R295). -/
  | halt (h : Hdr) (f : FormS)
  /-- CRYPT, OP 0xC6 (R411). -/
  | crypt (h : Hdr) (f : FormS)
  /-- MEAS, OP 0xC7 (R411). -/
  | meas (h : Hdr) (f : FormS)
  /-- WDOG, OP 0xC8 (R411). -/
  | wdog (h : Hdr) (f : FormS)
  /-- TOKEN_ARRIVAL (R90). A token reaches an operator channel and is matched, held or refused. -/
  | tokenArrival (k : Nat)
  /-- FIRING_SELECTION (R102). The tarn switches to and starts the issue of the operator with the lowest slot-to-share ratio. -/
  | firingSelection (u : Nat) (stalled : Bool)
  /-- GATHER_HOLD_EXPIRY (R105). A ready firing's HOLD wait for company expires and it issues. -/
  | gatherHoldExpiry (u op : Nat)
  /-- BLOCK_COMMIT (R97). A block or repetition with all outputs produced and side effects admitted commits and releases its staged effects. -/
  | blockCommit (f : FireRef)
  /-- CAUSE_CLEARS (R99). An aborted block's cause clears and its firing becomes ready to re-fire. -/
  | causeClears (f : FireRef)
  /-- BACKGROUND_SCRUB (R100). Background scrubbing corrects a one-bit ECC error in place. -/
  | backgroundScrub (u : Nat) (site : ErrSite)
  /-- SHARE_REWEIGHT (R103). Every 1,024 cycles the share arbiter reweights the operators of a tarn. -/
  | shareReweight (u : Nat)
  /-- TARN_WIDTH_CLEAR (R106). Writing CLEAR of tarn.width zeroes its gathering counters. -/
  | tarnWidthClear (w : RegWrite)
  /-- TAG_GRANT (R117). The call arbiter grants a waiting iteration request from a loop region's free list. -/
  | tagGrant (ctx reg lreg : Nat)
  /-- XSTAT_OVF_CLEAR (R142). Clearing OVF of ctx.xstat also zeroes LOST. -/
  | xstatOvfClear (w : RegWrite)
  /-- FW_WINDOW_ENABLE (R151). Writing EN = 1 of die.fwctlN checks the window and turns its decoded view on. -/
  | fwWindowEnable (w : RegWrite)
  /-- FW_WINDOW_DISABLE (R151). Writing EN = 0 of die.fwctlN drops the view's decoded lines. -/
  | fwWindowDisable (w : RegWrite)
  /-- MEMORY_OP_PERFORM (R157). A memory operation performs at its scope and meets its completion obligation. -/
  | memoryOpPerform (k : Nat)
  /-- MSC_EVICT (R144). An MSC bank evicts a dirty line to DRAM or LPDDR. -/
  | mscEvict (line : Nat)
  /-- ATOMIC_HOLD_REVOKE (R162). An atomic hold reaching 4,096 cycles is revoked and its block aborts. -/
  | atomicHoldRevoke (k : Nat)
  /-- OAMO_RETRY (R163). A tarn retries an ordered atomic that the place refused. -/
  | oamoRetry (f : FireRef) (slot : Nat)
  /-- POOL_CONTRIB_REGISTER (R173). A contribution reaches a pool home and is registered, held, dropped as late or refused. -/
  | poolContribRegister (k : Nat)
  /-- POOL_DEADLINE_EXPIRY (R177). A pool read or settle reaches its deadline D and its set is fixed. -/
  | poolDeadlineExpiry (ctx pool wait : Nat)
  /-- TILE_SPRING_CLAIM (R198). A tile spring claims a free spring register when the reservation permits. -/
  | tileSpringClaim (die cl port : Nat)
  /-- TILE_SPRING_DELIVER (R197). A tile fill completes and the spring sends the tile handle. -/
  | tileSpringDeliver (die cl port : Nat)
  /-- TILE_OUTLET_STORE (R197). The tile outlet stores the register named by a handle and frees it. -/
  | tileOutletStore (die cl : Nat)
  /-- KSTEP_END (R204). A K-step ends and writes its accumulator. -/
  | kstepEnd (die cl : Nat)
  /-- GOVERNOR_PERIOD (R404). Every 1,024 cycles a governor reads the die budget. -/
  | governorPeriod (die cl : Nat)
  /-- LEAVE_GRANT (R404). A governor grants the oldest waiting leave request. -/
  | leaveGrant (die : Nat)
  /-- LEAVE_CLEAR (R326). Writing CLEAR of die.leave zeroes GRANTS and DELAY. -/
  | leaveClear (w : RegWrite)
  /-- STREAM_CMD_ACCEPT (R222). The stream dispatcher accepts a released command when its queue has room, checking its pattern. -/
  | streamCmdAccept (k : Nat)
  /-- STREAM_START (R232). A queued stream command starts once its start conditions hold. -/
  | streamStart (die cl k : Nat)
  /-- SPRING_ELEMENT (R227). A spring element's read completes and its token enters the destination buffer. -/
  | springElement (die cl port : Nat)
  /-- OUTLET_STORE (R228). An outlet takes a token and stores it as the next element. -/
  | outletStore (die cl port : Nat)
  /-- COPY_JOB_ACCEPT (R237). A copy engine accepts and checks a job. -/
  | copyJobAccept (k : Nat)
  /-- COPY_ELEMENT (R237). A copy engine moves one source element to its destination. -/
  | copyElement (die eng : Nat)
  /-- RING_CONFIG_WRITE (R239). A write of ctx.rbaseN or ctx.rcfgN takes effect and zeroes FILL and REL. -/
  | ringConfigWrite (w : RegWrite)
  /-- HOST_MEMORY_ACCESS (R259). A host read or write through PCIe performs at the home bank. -/
  | hostMemoryAccess (fn addr len : Nat) (write : Bool) (bytes : List Byte)
  /-- IMAGE_STAGE (R263). A kernel image is read, structure-checked and verified into the configuration cache. -/
  | imageStage (k : Nat)
  /-- CALL_TAKE (R266). The arbiter drains the plane, takes the next pending call and checks it. -/
  | callTake (ctx reg : Nat)
  /-- PLANE_FREEZE_COPY (R267). Once every unit is drained, each copies its active plane into a shadow plane and the callee loads. -/
  | planeFreezeCopy (ctx reg : Nat)
  /-- ACTIVATION_TEARDOWN (R268). A released ret or tcall tears down the active activation. -/
  | activationTeardown (ctx reg : Nat)
  /-- CTX_PREEMPT (R285). Writing PREEMPT of ctx.ctl starts a checkpoint of the context. -/
  | ctxPreempt (w : RegWrite)
  /-- CHECKPOINT_COMPLETE (R285). Every unit drains, the save area is written and the regions are released. -/
  | checkpointComplete (ctx : Nat)
  /-- CTX_RESUME (R288). Writing RESUME of ctx.ctl requests resume of a saved context. -/
  | ctxResume (w : RegWrite)
  /-- RESUME_RESTORE (R288). With regions free, resume places the saved regions and restores the context. -/
  | resumeRestore (ctx : Nat)
  /-- FQST_OVF_CLEAR (R284). Clearing OVF of ctx.fqst also zeroes LOST. -/
  | fqstOvfClear (w : RegWrite)
  /-- QUEUE_ENABLE (R307). q.ctl CMD 1 enables a disabled queue with a valid configuration. -/
  | queueEnable (w : QueueWrite)
  /-- QUEUE_QUIESCE (R307). q.ctl CMD 2 stops packet starts and drains the queue. -/
  | queueQuiesce (w : QueueWrite)
  /-- QUEUE_RESUME (R307). q.ctl CMD 3 resumes a quiesced queue. -/
  | queueResume (w : QueueWrite)
  /-- QUEUE_DISABLE (R307). q.ctl CMD 4 disables an idle, quiesced or error queue. -/
  | queueDisable (w : QueueWrite)
  /-- QUEUE_CLEAR (R307). q.ctl CMD 5 leaves the error state for quiesced. -/
  | queueClear (w : QueueWrite)
  /-- QUEUE_DOORBELL (R300). A write of q.tail rings the doorbell. -/
  | queueDoorbell (w : QueueWrite)
  /-- LAUNCH_GROUP (R301). A LAUNCH_GROUP packet starts and launches a group. -/
  | launchGroup (q : Nat)
  /-- REPLAY (R301). A REPLAY packet re-runs a staged group. -/
  | replayPkt (q : Nat)
  /-- PATCH (R301). A PATCH packet patches a node's parameter address. -/
  | patchPkt (q : Nat)
  /-- SIGNAL (R303). A SIGNAL packet writes or adds to a word after earlier packets complete. -/
  | signalPkt (q : Nat)
  /-- WAIT (R303). A WAIT packet waits for a word to meet a condition. -/
  | waitPkt (q : Nat)
  /-- SEAL_REQ (R303). A SEAL_REQ packet requests a seal and completes when it is reached. -/
  | sealReqPkt (q : Nat)
  /-- NOP (R303). A NOP packet completes at start. -/
  | nopPkt (q : Nat)
  /-- PACKET_COMPLETE (R304). A packet completes: CVAL written, vector signalled, DONE advanced in order. -/
  | packetComplete (q : Nat)
  /-- WATCH_REREAD (R415). A WAIT packet or H node re-reads its watched word at its interval. -/
  | watchReread (isQueue : Bool) (k : Nat)
  /-- NODE_DISPATCH (R315). The group engine dispatches a ready node to a free unit of its kind. -/
  | nodeDispatch (die kind : Nat)
  /-- NODE_AGING (R314). A node waiting 1 ms moves to the next priority. -/
  | nodeAging (die k : Nat)
  /-- TASK_COMPLETE (R317). A task completes and its successors' counts fall. -/
  | taskComplete (k : Nat)
  /-- STUCK_TIMEOUT (R317). A region not quiet with no progress for 2^24 cycles raises BLK_STUCK and stops. -/
  | stuckTimeout (ctx reg : Nat)
  /-- PATCH_APPLY (R318). A waiting patch applies once a parameter table is unpinned. -/
  | patchApply (k : Nat)
  /-- BARRIER_MARKER_SEND (R331). A spring's marker command starts and sends a BARRIER marker. -/
  | barrierMarkerSend (die cl k : Nat)
  /-- BARRIER_FORWARD (R329). An operator cut by a barrier forwards its marker on every route out. -/
  | barrierForward (u op : Nat)
  /-- SEALCTL_CLOSE (R346). Writing CLOSE of dev.sealctl requests a close of the open interval. -/
  | sealctlClose (w : RegWrite)
  /-- SEAL_REQUEST (R346). A REQ seal message reaches the leader. -/
  | sealRequest (p : Packet)
  /-- SEAL_CLOSE (R346). A CLOSE message arrives and the device opens the next interval. -/
  | sealClose (p : Packet)
  /-- SEAL_CONDITION_MET (R347). A device's tasks of a closed interval meet the seal conditions and it sends DONE. -/
  | sealConditionMet (iv : Nat)
  /-- SEAL_DONE (R347). A DONE message reaches a device or the leader. -/
  | sealDone (p : Packet)
  /-- SEAL_SEALED (R347). A SEALED message sets dev.sealed, frees undo and journal entries and releases held writes. -/
  | sealSealed (p : Packet)
  /-- SEAL_TIMEOUT (R348). The oldest closed interval waiting past TIMEOUT writes SEAL_TIMEOUT notices. -/
  | sealTimeout
  /-- SEAL_ROLLBACK (R350). A ROLLBACK message rolls the device back to the last seal. -/
  | sealRollback (p : Packet)
  /-- RBCTL_ROLLBACK (R351). dev.rbctl CMD 1 starts a host-coordinated rollback. -/
  | rbctlRollback (w : RegWrite)
  /-- RBCTL_RETIRE (R351). dev.rbctl CMD 2 asks firmware to retire a cluster. -/
  | rbctlRetire (w : RegWrite)
  /-- TQST_OVF_CLEAR (R351). Clearing OVF of dev.tqst also zeroes LOST. -/
  | tqstOvfClear (w : RegWrite)
  /-- REGION_REPLAY (R354). A tier-2 fault restarts the active plane from its replay point. -/
  | regionReplay (ctx reg code : Nat)
  /-- CLUSTER_RETIREMENT (R356). Firmware swaps a faulty cluster for a spare or takes it out of service. -/
  | clusterRetirement (die cl : Nat)
  /-- EINJ_WRITE (R362). A write of dev.einj arms a soft-error injection. -/
  | einjWrite (w : RegWrite)
  /-- TABLE_WALK_DONE (R367). A page-table walk completes, installing a leaf or raising a fault. -/
  | tableWalkDone (k : Nat)
  /-- TLBI_ALL (R374). ctx.tlbi ALL drops every translation of the context. -/
  | tlbiAll (w : RegWrite)
  /-- TLBI_VA (R374). ctx.tlbi with a VA drops the entries mapping that page. -/
  | tlbiVa (w : RegWrite)
  /-- TLBI_RETRY (R376). ctx.tlbi RETRY starts a new walk for covered pending fault entries. -/
  | tlbiRetry (w : RegWrite)
  /-- TLBI_COMPLETE (R374). Accesses through dropped entries have performed and the invalidation completes. -/
  | tlbiComplete (k : Nat)
  /-- LINK_ENABLE (R381). dev.lctlN CMD 1 starts training a link. -/
  | linkEnable (w : RegWrite)
  /-- LINK_DISABLE (R381). dev.lctlN CMD 2 turns a link off. -/
  | linkDisable (w : RegWrite)
  /-- LINK_RELEASE (R381). dev.lctlN CMD 3 retrains a quarantined link. -/
  | linkRelease (w : RegWrite)
  /-- LINK_RETRAIN (R381). dev.lctlN CMD 4 retrains a usable link. -/
  | linkRetrain (w : RegWrite)
  /-- LINK_TRAINED (R381). Training ends with the link UP, DEGRADED or DOWN. -/
  | linkTrained (n lanes peer peerLink rtt : Nat)
  /-- LANE_LOST (R381). A link loses a lane and retrains or goes DOWN. -/
  | laneLost (n lanes : Nat)
  /-- LINK_QUARANTINE (R381). Retransmissions reach QERR and the link goes QUIET. -/
  | linkQuarantine (n : Nat)
  /-- PEER_SILENT_TIMEOUT (R381). A silent peer for 2^20 cycles takes the link DOWN. -/
  | peerSilentTimeout (n : Nat)
  /-- FLIT_RETRANSMIT (R379). A flit failing CRC is retransmitted from the replay buffer. -/
  | flitRetransmit (n : Nat)
  /-- LINK_FLOW_TIMEOUT (R393). A flow without a usable link for 2^20 cycles writes LINK_DOWN records. -/
  | linkFlowTimeout (k : Nat)
  /-- MCOPY_WRITE_SEND (R390). A link engine running an MCOPY job reads the next part of SRC and sends it as a WRITE packet to DEV or the group. -/
  | mcopyWriteSend (n : Nat)
  /-- TOKEN (R383). A TOKEN packet is received and delivered, held or refused. -/
  | tokenPkt (n : Nat) (p : Packet)
  /-- WRITE (R390). A WRITE packet is received, translated and performed. -/
  | writePkt (n : Nat) (p : Packet)
  /-- PART (R386). A PART packet delivers global-pool leaves or a node value. -/
  | partPkt (n : Nat) (p : Packet)
  /-- POOLOP (R387). A POOLOP packet brings a remote pool read or settle to the root. -/
  | poolopPkt (n : Nat) (p : Packet)
  /-- ACK (R383). An ACK packet acknowledges a flow packet with a status. -/
  | ackPkt (n : Nat) (p : Packet)
  /-- VALUE (R387). A VALUE packet returns a pool operation's result. -/
  | valuePkt (n : Nat) (p : Packet)
  /-- CTL (R379). A CTL packet turns a token flow off or on. -/
  | ctlPkt (n : Nat) (p : Packet)
  /-- PCTL_ACTIVATE (R398). dev.pctl CMD 1 activates a partition entry. -/
  | pctlActivate (w : RegWrite)
  /-- PCTL_RESIZE (R400). dev.pctl CMD 2 resizes a partition without reset. -/
  | pctlResize (w : RegWrite)
  /-- PCTL_RELEASE (R398). dev.pctl CMD 3 releases a partition. -/
  | pctlRelease (w : RegWrite)
  /-- FN_REQ_CREATE (R402). fn.req CMD 1 asks firmware to create a context from a region list. -/
  | fnReqCreate (fn : Nat) (val : Word)
  /-- FN_REQ_DESTROY (R402). fn.req CMD 2 asks firmware to destroy a context. -/
  | fnReqDestroy (fn : Nat) (val : Word)
  /-- DRAM_OVERTEMP (R405). A DRAM layer crossing 85 or 82 degrees changes its refresh rate. -/
  | dramOvertemp (die layer temp : Nat)
  /-- FW_SWITCH (R408). Writing SWITCH of dev.fwst starts a live update to the other slot. -/
  | fwSwitch (w : RegWrite)
  /-- WATCHDOG_EXPIRY (R409). The watchdog expires and firmware is restarted. -/
  | watchdogExpiry
  /-- DEVICE_RESET (R406). Reset sets registers and loads and verifies the boot slot. -/
  | deviceReset
  /-- DUTY_WRITE (R18). A write of dev.duty records pending mode changes. -/
  | dutyWrite (w : RegWrite)
  /-- DUTY_SWITCH_POINT (R18). A function reaches its switch point and its new mode applies. -/
  | dutySwitchPoint (fn : Nat)
  /-- GET_VERSION (R407). SPDM GET_VERSION request. -/
  | getVersion (pf : Nat)
  /-- GET_CAPABILITIES (R407). SPDM GET_CAPABILITIES request. -/
  | getCapabilities (pf : Nat)
  /-- NEGOTIATE_ALGORITHMS (R407). SPDM NEGOTIATE_ALGORITHMS request. -/
  | negotiateAlgorithms (pf hashAlgs signAlgs : Nat)
  /-- GET_DIGESTS (R407). SPDM GET_DIGESTS request. -/
  | getDigests (pf : Nat)
  /-- GET_CERTIFICATE (R407). SPDM GET_CERTIFICATE request. -/
  | getCertificate (pf slot offset len : Nat)
  /-- CHALLENGE (R407). SPDM CHALLENGE request. -/
  | challenge (pf slot : Nat) (nonce : List Byte)
  /-- GET_MEASUREMENTS (R407). SPDM GET_MEASUREMENTS request reporting the measurement registers. -/
  | getMeasurements (pf op : Nat)
  /-- SYSREG_WRITE (R8). A write to a register without a row of its own, under the field access rules. -/
  | sysregWrite (w : RegWrite)
  /-- OTHER_TYPE_PACKET (R378). A link packet whose TYPE value names no kind is dropped at the receiver and counted in RETRIES. -/
  | otherTypePacket (n : Nat) (p : Packet)
  deriving DecidableEq, Repr

end Sys2Proof
end

