-- ==== Sys2Proof/Machine/WordCheck.lean ====
section
/-! DEFINITION. What one instruction word must satisfy by itself before the verifier passes it: the fields step and the
type step of R67 (R53-R63, R110, R120, R127, R154, R188, R209, R241, R275, R292, R322, R335, R357, R410). The
conditions that need the block, the operator or the region stand in Machine/Verify.lean. -/

namespace Sys2Proof

/-- The code of a type (R23). -/
def Ty.code : Ty → Nat
  | .i8 => 0 | .i16 => 1 | .i32 => 2 | .i64 => 3 | .n8 => 4 | .n16 => 5 | .n32 => 6 | .n64 => 7
  | .f16 => 8 | .bf16 => 9 | .f32 => 10 | .e4m3 => 11 | .e5m2 => 12 | .q4n => 13 | .mx => 14 | .none => 15

/-- The type of a code (R23); a code past 15 is none of them and reads as none. -/
def Ty.ofCode : Nat → Ty
  | 0 => .i8 | 1 => .i16 | 2 => .i32 | 3 => .i64 | 4 => .n8 | 5 => .n16 | 6 => .n32 | 7 => .n64
  | 8 => .f16 | 9 => .bf16 | 10 => .f32 | 11 => .e4m3 | 12 => .e5m2 | 13 => .q4n | 14 => .mx | _ => .none

/-- The width w of a type in bits (R23, R108): 64 for none. A scalar never carries q4n or mx; their width is that of
the element, 4 and 8. -/
def Ty.width : Ty → Nat
  | .i8 | .n8 | .e4m3 | .e5m2 => 8
  | .i16 | .n16 | .f16 | .bf16 => 16
  | .i32 | .n32 | .f32 => 32
  | .i64 | .n64 | .none => 64
  | .q4n => 4
  | .mx => 8

/-- Signed integer types (R23). -/
def Ty.signed : Ty → Bool
  | .i8 | .i16 | .i32 | .i64 => true
  | _ => false

end Sys2Proof

namespace Sys2Proof.Machine

/-- TY 0x0-0x7. -/
def tyInt (t : Ty) : Bool := t.code < 8
/-- TY 0x8-0xC. -/
def tyFloat (t : Ty) : Bool := 8 ≤ t.code && t.code ≤ 12
/-- TY 0x8-0xA. -/
def tyFloat3 (t : Ty) : Bool := 8 ≤ t.code && t.code ≤ 10
/-- TY 0x0-0xC. -/
def tyScalar (t : Ty) : Bool := t.code ≤ 12
/-- TY 0x0-0xC, 0xF. -/
def tyScalarOrNone (t : Ty) : Bool := t.code ≤ 12 || t == .none
/-- TY 0x0-0x7, 0xF. -/
def tyIntOrNone (t : Ty) : Bool := t.code < 8 || t == .none
/-- TY 0x2, 0x3, 0x6, 0x7. -/
def tyWord (t : Ty) : Bool := t == .i32 || t == .i64 || t == .n32 || t == .n64
/-- The types of amo and oamo (R66, R161): the words of 4 and 8 bytes, and f32 but for the logic operations. -/
def tyAmo (t : Ty) (sub : BitVec 4) : Bool := tyWord t || (t == .f32 && !(3 ≤ sub.toNat && sub.toNat ≤ 5))

/-- The code of the first failed step: CFG_FIELD (2) before CFG_TYPE (5) (R67). -/
def verdict (fields types : Bool) : Option Nat :=
  if !fields then some 2 else if !types then some 5 else none

/-- G ≠ 00 only on a guard-capable opcode (R56). -/
def guardOk (h : Hdr) (capable : Bool) : Bool := capable || h.g == .always

/-- T1 is in use only when T0 is (R54). -/
def targetsOk (h : Hdr) : Bool := h.t0.isSome || h.t1.isNone

/-- AR and I have the given values, and IMM23 is 0 when I = 0 is left to the caller (R57). -/
def arI (h : Hdr) (f : FormA) (ar : Nat) (i : Bool) : Bool := h.ar.toNat == ar && f.i == i

/-- AR + I equals the operand count, and an unused IMM23 is 0 (R55, R57, R120). -/
def operands (h : Hdr) (f : FormA) (n : Nat) : Bool :=
  h.ar.toNat + (if f.i then 1 else 0) == n && (f.i || f.imm == 0)

/-- Form A with every field 0. -/
def plainA (f : FormA) : Bool := !f.i && f.mode == 0 && f.imm == 0

/-- Form C with every field 0. -/
def zeroC (f : FormC) : Bool := f.ch == 0 && f.tagop == 0 && f.imm == 0

/-- mov: one token, or the immediate (R110). -/
def movForm (h : Hdr) (f : FormA) : Bool := operands h f 1 && f.mode == 0

/-- The powers of two that divide n, taken out, at most `fuel` of them. -/
def oddPart : Nat → Nat → Nat
  | 0, n => n
  | k + 1, n => if n % 2 == 0 && n ≠ 0 then oddPart k (n / 2) else n

/-- An integer immediate is exact in a floating type (R111, R126): its odd part fits the significand, and its
magnitude the largest finite value (R25). -/
def exactIn (t : Ty) (v : Int) : Bool :=
  let m := v.natAbs
  match t with
  | .f32 => oddPart 24 m < 2 ^ 24
  | .bf16 => oddPart 24 m < 2 ^ 8
  | .f16 => oddPart 24 m < 2 ^ 11 && m ≤ 65504
  | .e4m3 => oddPart 24 m < 2 ^ 4 && m ≤ 448
  | .e5m2 => oddPart 24 m < 2 ^ 3 && m ≤ 57344
  | _ => true

/-- An immediate under a floating type is exact in it (R111, R126). -/
def immExact (h : Hdr) (f : FormA) : Bool := !f.i || exactIn h.ty f.imm.toInt

/-- TAGOP and its IMM20 (R61). -/
def tagOpOk (op : BitVec 4) (imm : BitVec 20) : Bool :=
  match op.toNat with
  | 2 => imm.toNat < 4096
  | 3 => imm.toNat < 256
  | 0 | 1 | 4 | 5 => imm == 0
  | _ => false

/-- AS at most the given code, SCOPE 0-5, and SCOPE 0 under AS 1 and 2 (R60). -/
def asScope (f : FormM) (maxAs : Nat) : Bool :=
  f.as.toNat ≤ maxAs && f.scope.toNat < 6 && ((f.as ≠ 1 && f.as ≠ 2) || f.scope == 0)

/-- The bytes of an element (R155): w / 8, 8 for none. -/
def tySize (t : Ty) : Nat := t.width / 8

/-- ldl's element offset (R154): at least 8, inside the node, a multiple of the size. -/
def ldlOff (h : Hdr) (f : FormM) : Bool :=
  8 ≤ f.off.toNat && f.off.toNat + tySize h.ty ≤ 64 && f.off.toNat % tySize h.ty == 0

/-- A tcfg value is legal (R193): bits [19:16] FMT, [15:12] reserved, [11:10] MXK, [9:5] ROWS_M1, [4:0] COLS_M1. -/
def tcfgOk (v : Nat) : Bool :=
  let fmt := v / 65536 % 16
  let mxk := v / 1024 % 4
  let cols := 4 * (v % 32 + 1)
  (fmt == 0 || fmt == 2 || (8 ≤ fmt && fmt ≤ 14)) &&
  (if fmt == 14 then mxk < 3 else mxk == 0) && v / 4096 % 16 == 0 &&
  (if fmt == 13 || (fmt == 14 && mxk < 2) then cols % 32 == 0
   else if fmt == 14 then cols % 16 == 0 else true)

/-- tread and twrite (R209): SRC = 1 takes the accumulator and leaves A 0, SRC = 0 the tile; SIDE needs SRC = 0. -/
def elemForm (f : FormT) : Bool :=
  f.b == 0 && !f.za && !f.asc && !f.sp &&
  (if f.per.getLsbD 13 then f.a == 0 && !f.per.getLsbD 12 else f.acc == 0)

/-- A stream instruction's ID12 (R241): bit 11 zero, a cluster, a port below the bound. -/
def portId (id : BitVec 12) (ports : Nat) : Bool := id.toNat < 2048 && id.toNat % 32 < ports

/-- The ID12 of pbinv and sbar (R241): a cluster only. -/
def clId (id : BitVec 12) : Bool := id.toNat < 2048 && id.toNat % 32 == 0

/-- The inline pattern of strmi (R241). -/
def strmiOk (imm : BitVec 16) : Bool :=
  let v := imm.toNat
  let it := v / 16 % 4
  let sq := v / 4 % 4
  let d2 := v / 2 % 2
  v / 4096 ≤ 12 && it < 3 && sq < 3 && (it < 2 || d2 == 1) && (sq < 2 || d2 == 1) && v % 2 == 0

/-- The ID12 of call (R275): NC alone, or a continuation slot and channel. -/
def callId (id : BitVec 12) : Bool := id == 0x800 || (id.toNat < 256 && id.toNat / 16 % 2 == 0)

/-- A register number some chapter assigns (R283). -/
def assignedReg (n : Nat) : Bool :=
  n ≤ 9 || n == 0xB || (0x10 ≤ n && n ≤ 0x1B) || (0x20 ≤ n && n ≤ 0x24) || (0x40 ≤ n && n ≤ 0x6F) || n == 0xFF ||
  (0x100 ≤ n && n ≤ 0x102) ||
  (0x200 ≤ n && n ≤ 0x27F && n % 8 < 5) || (0x280 ≤ n && n ≤ 0x284) || (0x288 ≤ n && n ≤ 0x28A) ||
  (0x300 ≤ n && n ≤ 0x30E) || (0x310 ≤ n && n ≤ 0x312) || (0x320 ≤ n && n ≤ 0x331) ||
  (0x340 ≤ n && n ≤ 0x351) || (0x380 ≤ n && n ≤ 0x3FF)

/-- The first violation of the fields step and the type step of R67 that one word shows by itself: CFG_FIELD (2) or
CFG_TYPE (5). A step of the device is no word and has none. -/
def Instr.check (i : Instr) : Option Nat :=
  match i with
  | .mov h f => verdict (guardOk h false && targetsOk h && movForm h f && immExact h f) (tyScalarOrNone h.ty)
  | .movi h f => verdict (guardOk h false && targetsOk h && arI h f 0 true && f.mode == 0) (tyIntOrNone h.ty)
  | .movk h f => verdict (guardOk h false && targetsOk h && arI h f 1 true && f.mode.toNat < 4 && f.imm.toNat < 65536 && 16 * f.mode.toNat < h.ty.width) (tyIntOrNone h.ty)
  | .inTok h f => verdict (guardOk h false && targetsOk h && h.ar == 0 && tagOpOk f.tagop f.imm) (tyScalarOrNone h.ty)
  | .outTok h f => verdict (guardOk h true && targetsOk h && h.ar == 1 && tagOpOk f.tagop f.imm) (tyScalarOrNone h.ty)
  | .rd h f => verdict (guardOk h false && targetsOk h && h.ar == 0 && f.id.toNat < 32 && f.imm == 0) (tyScalarOrNone h.ty)
  | .wr h f => verdict (guardOk h true && targetsOk h && h.ar == 1 && f.id.toNat < 32 && f.imm == 0) (tyScalarOrNone h.ty)
  | .sel h f => verdict (guardOk h false && targetsOk h && operands h f 3 && h.ar.toNat ≥ 2 && f.mode == 0 && immExact h f) (tyScalarOrNone h.ty)
  | .br h f => verdict (guardOk h false && targetsOk h && arI h f 0 true && f.mode == 0 && f.imm.toNat < 64) (h.ty == .none)
  | .brc h f => verdict (guardOk h false && targetsOk h && arI h f 1 true && f.mode == 0 && f.imm.toNat < 4096) (h.ty == .none)
  | .null h f => verdict (guardOk h false && targetsOk h && h.ar.toNat ≤ 1 && plainA f) (tyScalarOrNone h.ty)
  | .tagnew h f => verdict (guardOk h false && targetsOk h && h.ar == 0 && f.ch == 0 && f.tagop == 0 && f.imm.toNat < 16) (tyScalarOrNone h.ty)
  | .tagfree h f => verdict (guardOk h false && targetsOk h && h.ar == 1 && zeroC f) (tyScalarOrNone h.ty)
  | .tagset h f => verdict (guardOk h false && targetsOk h && f.ch == 0 && ((h.ar == 1 && tagOpOk f.tagop f.imm) || (h.ar == 2 && f.tagop == 0 && f.imm == 0))) (tyScalarOrNone h.ty)
  | .gettag h f => verdict (guardOk h false && targetsOk h && h.ar == 1 && zeroC f) (tyScalarOrNone h.ty)
  | .count h f => verdict (guardOk h false && targetsOk h && h.ar == 0 && f.mode == 0 && (if f.i then 1 ≤ f.imm.toNat && f.imm.toNat < 4194304 else f.imm == 0)) (h.ty == .none)
  | .rix h f => verdict (guardOk h false && targetsOk h && h.ar == 0 && plainA f) (h.ty == .none)
  | .add h f => verdict (guardOk h false && targetsOk h && operands h f 2 && f.mode == 0) (tyInt h.ty)
  | .sub h f => verdict (guardOk h false && targetsOk h && operands h f 2 && f.mode == 0) (tyInt h.ty)
  | .mul h f => verdict (guardOk h false && targetsOk h && operands h f 2 && f.mode == 0) (tyInt h.ty)
  | .mulh h f => verdict (guardOk h false && targetsOk h && operands h f 2 && f.mode == 0) (tyInt h.ty)
  | .div h f => verdict (guardOk h false && targetsOk h && operands h f 2 && f.mode == 0) (tyInt h.ty)
  | .rem h f => verdict (guardOk h false && targetsOk h && operands h f 2 && f.mode == 0) (tyInt h.ty)
  | .min h f => verdict (guardOk h false && targetsOk h && operands h f 2 && f.mode == 0) (tyInt h.ty)
  | .max h f => verdict (guardOk h false && targetsOk h && operands h f 2 && f.mode == 0) (tyInt h.ty)
  | .abs h f => verdict (guardOk h false && targetsOk h && operands h f 1 && f.mode == 0) (tyInt h.ty)
  | .neg h f => verdict (guardOk h false && targetsOk h && operands h f 1 && f.mode == 0) (tyInt h.ty)
  | .adds h f => verdict (guardOk h false && targetsOk h && operands h f 2 && f.mode == 0) (tyInt h.ty)
  | .subs h f => verdict (guardOk h false && targetsOk h && operands h f 2 && f.mode == 0) (tyInt h.ty)
  | .and h f => verdict (guardOk h false && targetsOk h && operands h f 2 && f.mode == 0) (tyInt h.ty)
  | .or h f => verdict (guardOk h false && targetsOk h && operands h f 2 && f.mode == 0) (tyInt h.ty)
  | .xor h f => verdict (guardOk h false && targetsOk h && operands h f 2 && f.mode == 0) (tyInt h.ty)
  | .andn h f => verdict (guardOk h false && targetsOk h && operands h f 2 && f.mode == 0) (tyInt h.ty)
  | .shl h f => verdict (guardOk h false && targetsOk h && operands h f 2 && f.mode == 0) (tyInt h.ty)
  | .shr h f => verdict (guardOk h false && targetsOk h && operands h f 2 && f.mode == 0) (tyInt h.ty)
  | .rot h f => verdict (guardOk h false && targetsOk h && operands h f 2 && f.mode == 0) (tyInt h.ty)
  | .clz h f => verdict (guardOk h false && targetsOk h && operands h f 1 && f.mode == 0) (tyInt h.ty)
  | .popc h f => verdict (guardOk h false && targetsOk h && operands h f 1 && f.mode == 0) (tyInt h.ty)
  | .bfx h f => verdict (guardOk h false && targetsOk h && operands h f 2 && f.mode == 0) (tyInt h.ty)
  | .bfi h f => verdict (guardOk h false && targetsOk h && operands h f 3 && f.mode == 0) (tyInt h.ty)
  | .cmp h f => verdict (guardOk h false && targetsOk h && operands h f 2 && f.mode.toNat < 6) (tyInt h.ty)
  | .cvti h f => verdict (guardOk h false && targetsOk h && arI h f 1 false && f.imm == 0) (tyInt h.ty)
  | .mad h f => verdict (guardOk h false && targetsOk h && operands h f 3 && f.mode == 0) (tyInt h.ty)
  | .fadd h f => verdict (guardOk h false && targetsOk h && operands h f 2 && immExact h f && f.mode.toNat < 5) (tyFloat3 h.ty)
  | .fsub h f => verdict (guardOk h false && targetsOk h && operands h f 2 && immExact h f && f.mode.toNat < 5) (tyFloat3 h.ty)
  | .fmul h f => verdict (guardOk h false && targetsOk h && operands h f 2 && immExact h f && f.mode.toNat < 5) (tyFloat3 h.ty)
  | .fma h f => verdict (guardOk h false && targetsOk h && operands h f 3 && immExact h f && f.mode.toNat < 5) (tyFloat3 h.ty)
  | .fmin h f => verdict (guardOk h false && targetsOk h && operands h f 2 && immExact h f && (f.mode == 0 || f.mode == 8)) (tyFloat h.ty)
  | .fmax h f => verdict (guardOk h false && targetsOk h && operands h f 2 && immExact h f && (f.mode == 0 || f.mode == 8)) (tyFloat h.ty)
  | .fabs h f => verdict (guardOk h false && targetsOk h && h.ar == 1 && plainA f) (tyFloat h.ty)
  | .fneg h f => verdict (guardOk h false && targetsOk h && h.ar == 1 && plainA f) (tyFloat h.ty)
  | .fcmp h f => verdict (guardOk h false && targetsOk h && operands h f 2 && immExact h f && f.mode.toNat < 8) (tyFloat h.ty)
  | .fclass h f => verdict (guardOk h false && targetsOk h && h.ar == 1 && plainA f) (tyFloat h.ty)
  | .fdiv h f => verdict (guardOk h false && targetsOk h && operands h f 2 && immExact h f && f.mode.toNat < 5) (h.ty == .f32)
  | .sqrt h f => verdict (guardOk h false && targetsOk h && arI h f 1 false && f.imm == 0 && f.mode.toNat < 5) (h.ty == .f32)
  | .rcp h f => verdict (guardOk h false && targetsOk h && arI h f 1 false && f.imm == 0 && f.mode.toNat < 5) (h.ty == .f32)
  | .rsq h f => verdict (guardOk h false && targetsOk h && arI h f 1 false && f.imm == 0 && f.mode.toNat < 5) (h.ty == .f32)
  | .ex2 h f => verdict (guardOk h false && targetsOk h && arI h f 1 false && f.imm == 0 && f.mode.toNat < 5) (h.ty == .f32)
  | .lg2 h f => verdict (guardOk h false && targetsOk h && arI h f 1 false && f.imm == 0 && f.mode.toNat < 5) (h.ty == .f32)
  | .cvtf h f => verdict (guardOk h false && targetsOk h && arI h f 1 false && f.mode.toNat % 8 < 5 && 8 ≤ f.imm.toNat && f.imm.toNat ≤ 12) (tyFloat h.ty)
  | .cvtfi h f => verdict (guardOk h false && targetsOk h && arI h f 1 false && f.mode.toNat % 8 < 5 && 8 ≤ f.imm.toNat && f.imm.toNat ≤ 12) (tyInt h.ty)
  | .cvtif h f => verdict (guardOk h false && targetsOk h && arI h f 1 false && f.mode.toNat % 8 < 5 && f.imm.toNat < 8) (tyFloat h.ty)
  | .fscale h f => verdict (guardOk h false && targetsOk h && arI h f 2 false && f.imm == 0 && f.mode.toNat < 5) (tyFloat3 h.ty)
  | .ld h f => verdict (guardOk h true && targetsOk h && asScope f 3 && f.sub.toNat < 2 && (if f.sub == 1 then h.ar == 2 else h.ar == 1 || (h.ar == 0 && (f.as == 1 || f.as == 2)))) (tyScalarOrNone h.ty)
  | .st h f => verdict (guardOk h true && targetsOk h && asScope f 3 && f.sub.toNat < 2 && (if f.sub == 1 then h.ar == 3 else h.ar == 2 || (h.ar == 1 && (f.as == 1 || f.as == 2)))) (tyScalarOrNone h.ty)
  | .ldl h f => verdict (guardOk h true && targetsOk h && asScope f 3 && (f.as == 0 || f.as == 3) && (h.ar == 1 || h.ar == 2) && ldlOff h f) (tyScalarOrNone h.ty)
  | .amo h f => verdict (guardOk h true && targetsOk h && asScope f 2 && h.ar == 2 && f.sub.toNat < 7) (tyAmo h.ty f.sub)
  | .cas h f => verdict (guardOk h true && targetsOk h && asScope f 2 && h.ar == 3 && f.sub == 0) ((tyWord h.ty || h.ty == .none))
  | .oamo h f => verdict (guardOk h true && targetsOk h && asScope f 0 && h.ar == 3 && f.sub.toNat < 7) (tyAmo h.ty f.sub)
  | .pref h f => verdict (guardOk h true && targetsOk h && asScope f 3 && (f.as == 0 || f.as == 3) && h.ar == 1) (h.ty == .none)
  | .cwb h f => verdict (guardOk h true && targetsOk h && asScope f 3 && (f.as == 0 || f.as == 3) && h.ar == 1) (h.ty == .none)
  | .cinv h f => verdict (guardOk h true && targetsOk h && asScope f 3 && (f.as == 0 || f.as == 3) && h.ar == 1) (h.ty == .none)
  | .ojoin h f => verdict (guardOk h true && targetsOk h && asScope f 0 && f.sub == 0 && f.off == 0 && h.ar ≠ 0) (h.ty == .none)
  | .falloc h f => verdict (guardOk h true && targetsOk h && f.as == 2 && f.scope == 0 && f.sub == 0 && (if h.ar == 0 then 1 ≤ f.off.toNat && f.off.toNat < 131072 else h.ar == 1 && f.off == 0)) (h.ty == .none)
  | .ffree h f => verdict (guardOk h true && targetsOk h && f.as == 2 && f.scope == 0 && f.sub == 0 && f.off == 0 && h.ar == 1) (h.ty == .none)
  | .tcfg h f => verdict (guardOk h false && targetsOk h && f.acc == 0 && !f.za && !f.asc && !f.sp && (if h.ar == 0 then tcfgOk (f.b.toNat * 65536 + f.per.toNat) && f.per.toNat < 4096 else h.ar == 1 && f.b == 0 && f.per == 0)) (h.ty == .none)
  | .tld h f => verdict (guardOk h true && targetsOk h && h.ar ≠ 0 && f.b == 0 && f.acc == 0 && !f.za && !f.asc && !f.sp && f.per.toNat < 6) (h.ty == .none)
  | .tst h f => verdict (guardOk h true && targetsOk h && h.ar ≠ 0 && f.b == 0 && f.acc == 0 && !f.za && !f.asc && !f.sp && f.per.toNat < 6) (h.ty == .none)
  | .tzero h f => verdict (guardOk h false && targetsOk h && h.ar == 0 && f.b == 0 && !f.za && !f.asc && !f.sp && (f.per == 1 && f.acc == 0 || (f.per == 0 || f.per == 2) && f.a == 0)) (h.ty == .none)
  | .mma h f => verdict (guardOk h false && targetsOk h && !(f.za && f.asc) && f.asc == h.ar.getLsbD 0 && !f.sp && f.per.toNat < 4) (h.ty == .none)
  | .mmasp h f => verdict (guardOk h false && targetsOk h && !(f.za && f.asc) && f.asc == h.ar.getLsbD 0 && f.sp && !f.b.getLsbD 0 && f.per.toNat % 1024 < 2) (h.ty == .none)
  | .tbind h f => verdict (guardOk h false && targetsOk h && h.ar.toNat ≤ 1 && f.a == 0 && f.b == 0 && !f.za && !f.asc && !f.sp && f.per.toNat < 256) (h.ty == .none)
  | .tfree h f => verdict (guardOk h false && targetsOk h && h.ar.toNat ≤ 1 && f.b == 0 && !f.za && !f.asc && !f.sp && (f.per == 0 && f.acc == 0 || f.per == 1 && f.a == 0)) (h.ty == .none)
  | .tread h f => verdict (guardOk h false && targetsOk h && h.ar.toNat ≤ 1 && elemForm f && (h.ar == 0 || f.per.toNat % 4096 == 0)) (tyScalar h.ty)
  | .twrite h f => verdict (guardOk h false && targetsOk h && (h.ar == 1 || h.ar == 2) && elemForm f && (h.ar == 1 || f.per.toNat % 4096 == 0)) (tyScalar h.ty)
  | .tscal h f => verdict (guardOk h false && targetsOk h && h.ar == 1 && f.a == 0 && f.b == 0 && !f.za && !f.asc && !f.sp && f.per.toNat < 5) (h.ty == .f32)
  | .tcvt h f => verdict (guardOk h false && targetsOk h && h.ar == 0 && f.b == 0 && !f.za && !f.asc && !f.sp && (if h.ty == .mx then f.per.toNat % 16 == 0 && f.per.toNat < 48 else f.per.toNat < 16 && f.per.toNat % 8 < 5)) ((tyFloat h.ty || h.ty == .mx))
  | .tamax h f => verdict (guardOk h false && targetsOk h && h.ar == 0 && f.b == 0 && !f.za && !f.asc && !f.sp && (f.per == 0 && f.acc == 0 || f.per == 1 && f.a == 0)) (h.ty == .none)
  | .ttrans h f => verdict (guardOk h false && targetsOk h && h.ar == 0 && f.acc == 0 && !f.za && !f.asc && !f.sp && f.per == 0) (h.ty == .none)
  | .acon h f => verdict (guardOk h true && targetsOk h && !f.za && !f.asc && !f.sp && (h.ar == 0 || h.ar == 1 && f.a == 0 && f.b == 0 && f.per == 0)) (h.ty == .none)
  | .pdecl h f => verdict (guardOk h true && targetsOk h && f.id.toNat < 512 && h.ar == 1 && f.imm == 0) ((h.ty == .i32 || h.ty == .i64 || h.ty == .f32))
  | .pcon h f => verdict (guardOk h true && targetsOk h && f.id.toNat < 512 && (if f.imm.getLsbD 15 then h.ar == 2 && f.imm.toNat % 16384 == 0 else h.ar == 1)) ((h.ty == .i32 || h.ty == .i64 || h.ty == .f32))
  | .prd h f => verdict (guardOk h true && targetsOk h && f.id.toNat < 512 && (h.ar == 0 || h.ar == 1 && f.imm.toNat < 16)) ((h.ty == .i32 || h.ty == .i64 || h.ty == .f32))
  | .pset h f => verdict (guardOk h true && targetsOk h && f.id.toNat < 512 && h.ar == 0 && f.imm.toNat < 16) (h.ty == .none)
  | .pswap h f => verdict (guardOk h true && targetsOk h && f.id.toNat < 512 && (h.ar == 0 || h.ar == 1 && f.imm.toNat < 16)) ((h.ty == .i32 || h.ty == .i64 || h.ty == .f32))
  | .pexp h f => verdict (guardOk h true && targetsOk h && f.id.toNat < 512 && h.ar == 1 && f.imm.toNat < 16) (h.ty == .none)
  | .pstat h f => verdict (guardOk h true && targetsOk h && f.id.toNat < 512 && h.ar == 0 && f.imm == 0) (h.ty == .none)
  | .pdrop h f => verdict (guardOk h true && targetsOk h && f.id.toNat < 512 && h.ar == 0 && f.imm == 0) (h.ty == .none)
  | .strm h f => verdict (guardOk h true && targetsOk h && h.ar == 1 && portId f.id 19 && f.imm == 0) (h.ty == .none)
  | .strmi h f => verdict (guardOk h true && targetsOk h && h.ar == 3 && portId f.id 16 && strmiOk f.imm) (h.ty == .none)
  | .sstop h f => verdict (guardOk h true && targetsOk h && h.ar == 0 && portId f.id 19 && f.imm.toNat < 2) (h.ty == .none)
  | .cpy h f => verdict (guardOk h true && targetsOk h && h.ar == 1 && f.id.toNat < 16 && f.imm == 0) (h.ty == .none)
  | .tlw h f => verdict (guardOk h true && targetsOk h && h.ar.toNat ≤ 1 && f.id.toNat < 64) (h.ty == .none)
  | .tlrd h f => verdict (guardOk h true && targetsOk h && h.ar == 0 && f.id.toNat < 64 && f.imm == 0) (h.ty == .none)
  | .ringaw h f => verdict (guardOk h true && targetsOk h && h.ar.toNat ≤ 1 && f.id.toNat < 16) (h.ty == .none)
  | .ringrel h f => verdict (guardOk h true && targetsOk h && h.ar.toNat ≤ 1 && f.id.toNat < 16) (h.ty == .none)
  | .pbinv h f => verdict (guardOk h true && targetsOk h && h.ar.toNat ≤ 1 && clId f.id && f.imm == 0) (h.ty == .none)
  | .sbar h f => verdict (guardOk h true && targetsOk h && h.ar == 0 && clId f.id && f.imm == 0) (h.ty == .none)
  | .call h f => verdict (guardOk h true && targetsOk h && h.ar.toNat == (if f.imm == 0 then 1 else 2) && f.imm.toNat ≤ 8 && callId f.id) (h.ty == .none)
  | .ret h f => verdict (guardOk h true && targetsOk h && h.ar.toNat == (if f.imm == 0 then 0 else 1) && f.imm.toNat ≤ 8 && f.id == 0) (h.ty == .none)
  | .tcall h f => verdict (guardOk h true && targetsOk h && h.ar.toNat == (if f.imm == 0 then 1 else 2) && f.imm.toNat ≤ 8 && f.id == 0) (h.ty == .none)
  | .kload h f => verdict (guardOk h true && targetsOk h && h.ar == 1 && f.id == 0 && f.imm.toNat < 2) (h.ty == .none)
  | .kdrop h f => verdict (guardOk h true && targetsOk h && h.ar == 1 && f.id == 0 && f.imm == 0) (h.ty == .none)
  | .launch h f => verdict (guardOk h true && targetsOk h && h.ar == 1 && f.id == 0 && f.imm.toNat < 2) (h.ty == .none)
  | .gpatch h f => verdict (guardOk h true && targetsOk h && h.ar == 3 && f.id == 0 && f.imm == 0) (h.ty == .none)
  | .doneI h f => verdict (guardOk h true && targetsOk h && h.ar == 0 && f.id == 0 && f.imm == 0) (h.ty == .none)
  | .bar h f => verdict (guardOk h true && targetsOk h && h.ar.toNat ≤ 1 && f.id.toNat < 16 && f.imm.toNat < 1024) (h.ty == .none)
  | .barw h f => verdict (guardOk h true && targetsOk h && h.ar.toNat ≤ 1 && f.id.toNat < 16 && f.imm == 0) (h.ty == .none)
  | .sealI h f => verdict (guardOk h true && targetsOk h && h.ar.toNat ≤ 1 && f.id == 0 && f.imm == 0) (h.ty == .none)
  | .sealw h f => verdict (guardOk h true && targetsOk h && h.ar.toNat ≤ 1 && f.id == 0 && f.imm == 0) (h.ty == .none)
  | .irrev h f => verdict (guardOk h true && targetsOk h && h.ar == 2 && f.id == 0 && f.imm.toNat < 2) (h.ty == .none)
  | .ivrd h f => verdict (guardOk h true && targetsOk h && h.ar == 0 && f.id == 0 && f.imm.toNat < 3) (h.ty == .none)
  | .srd h f => verdict (guardOk h true && targetsOk h && h.ar == 0 && assignedReg f.id.toNat && f.imm == 0) (h.ty == .none)
  | .swr h f => verdict (guardOk h true && targetsOk h && h.ar == 1 && assignedReg f.id.toNat && f.imm == 0) (h.ty == .none)
  | .trap h f => verdict (guardOk h true && targetsOk h && h.ar.toNat ≤ 1 && f.id == 0) (h.ty == .none)
  | .leave h f => verdict (guardOk h true && targetsOk h && h.ar == 0 && f.id == 0 && f.imm ≠ 0) (h.ty == .none)
  | .yield h f => verdict (guardOk h true && targetsOk h && h.ar == 0 && f.id == 0 && f.imm == 0) (h.ty == .none)
  | .halt h f => verdict (guardOk h true && targetsOk h && h.ar == 0 && f.id == 0 && f.imm == 0) (h.ty == .none)
  | .crypt h f => verdict (guardOk h true && targetsOk h && h.ar == 3 && f.id.toNat < 2 && f.imm == 0) (h.ty == .none)
  | .meas h f => verdict (guardOk h true && targetsOk h && h.ar == 1 && f.id.toNat < 16 && f.imm == 0) (h.ty == .none)
  | .wdog h f => verdict (guardOk h true && targetsOk h && h.ar == 0 && f.id == 0) (h.ty == .none)
  | .tokenArrival _ => none
  | .firingSelection _ _ => none
  | .gatherHoldExpiry _ _ => none
  | .blockCommit _ => none
  | .causeClears _ => none
  | .backgroundScrub _ _ => none
  | .shareReweight _ => none
  | .tarnWidthClear _ => none
  | .tagGrant _ _ _ => none
  | .xstatOvfClear _ => none
  | .fwWindowEnable _ => none
  | .fwWindowDisable _ => none
  | .memoryOpPerform _ => none
  | .mscEvict _ => none
  | .atomicHoldRevoke _ => none
  | .oamoRetry _ _ => none
  | .poolContribRegister _ => none
  | .poolDeadlineExpiry _ _ _ => none
  | .tileSpringClaim _ _ _ => none
  | .tileSpringDeliver _ _ _ => none
  | .tileOutletStore _ _ => none
  | .kstepEnd _ _ => none
  | .governorPeriod _ _ => none
  | .leaveGrant _ => none
  | .leaveClear _ => none
  | .streamCmdAccept _ => none
  | .streamStart _ _ _ => none
  | .springElement _ _ _ => none
  | .outletStore _ _ _ => none
  | .copyJobAccept _ => none
  | .copyElement _ _ => none
  | .ringConfigWrite _ => none
  | .hostMemoryAccess _ _ _ _ _ => none
  | .imageStage _ => none
  | .callTake _ _ => none
  | .planeFreezeCopy _ _ => none
  | .activationTeardown _ _ => none
  | .ctxPreempt _ => none
  | .checkpointComplete _ => none
  | .ctxResume _ => none
  | .resumeRestore _ => none
  | .fqstOvfClear _ => none
  | .queueEnable _ => none
  | .queueQuiesce _ => none
  | .queueResume _ => none
  | .queueDisable _ => none
  | .queueClear _ => none
  | .queueDoorbell _ => none
  | .launchGroup _ => none
  | .replayPkt _ => none
  | .patchPkt _ => none
  | .signalPkt _ => none
  | .waitPkt _ => none
  | .sealReqPkt _ => none
  | .nopPkt _ => none
  | .packetComplete _ => none
  | .watchReread _ _ => none
  | .nodeDispatch _ _ => none
  | .nodeAging _ _ => none
  | .taskComplete _ => none
  | .stuckTimeout _ _ => none
  | .patchApply _ => none
  | .barrierMarkerSend _ _ _ => none
  | .barrierForward _ _ => none
  | .sealctlClose _ => none
  | .sealRequest _ => none
  | .sealClose _ => none
  | .sealConditionMet _ => none
  | .sealDone _ => none
  | .sealSealed _ => none
  | .sealTimeout => none
  | .sealRollback _ => none
  | .rbctlRollback _ => none
  | .rbctlRetire _ => none
  | .tqstOvfClear _ => none
  | .regionReplay _ _ _ => none
  | .clusterRetirement _ _ => none
  | .einjWrite _ => none
  | .tableWalkDone _ => none
  | .tlbiAll _ => none
  | .tlbiVa _ => none
  | .tlbiRetry _ => none
  | .tlbiComplete _ => none
  | .linkEnable _ => none
  | .linkDisable _ => none
  | .linkRelease _ => none
  | .linkRetrain _ => none
  | .linkTrained _ _ _ _ _ => none
  | .laneLost _ _ => none
  | .linkQuarantine _ => none
  | .peerSilentTimeout _ => none
  | .flitRetransmit _ => none
  | .linkFlowTimeout _ => none
  | .tokenPkt _ _ => none
  | .writePkt _ _ => none
  | .partPkt _ _ => none
  | .poolopPkt _ _ => none
  | .ackPkt _ _ => none
  | .valuePkt _ _ => none
  | .ctlPkt _ _ => none
  | .pctlActivate _ => none
  | .pctlResize _ => none
  | .pctlRelease _ => none
  | .fnReqCreate _ _ => none
  | .fnReqDestroy _ _ => none
  | .dramOvertemp _ _ _ => none
  | .fwSwitch _ => none
  | .watchdogExpiry => none
  | .deviceReset => none
  | .dutyWrite _ => none
  | .dutySwitchPoint _ => none
  | .getVersion _ => none
  | .getCapabilities _ => none
  | .negotiateAlgorithms _ _ _ => none
  | .getDigests _ => none
  | .getCertificate _ _ _ _ => none
  | .challenge _ _ _ => none
  | .getMeasurements _ _ => none
  | .sysregWrite _ => none
  | .otherTypePacket _ _ => none
  | .mcopyWriteSend _ => none

end Sys2Proof.Machine
end

