-- ==== Sys2Proof/Machine/Numbers.lean ====
section
/-! DEFINITION. Exact arithmetic and rounding (02): the floating formats, one rounding routine for every format and
mode, the block formats, the generator of stochastic rounding, and the combining tree. Every result is formed exactly
and rounded once (R36). -/

namespace Sys2Proof.Machine

/-- The floating element formats of R25. -/
inductive Fmt where
  | f32 | bf16 | f16 | e4m3 | e5m2 | e2m1
  deriving DecidableEq, Repr, Inhabited

/-- Exponent bits (R25). -/
def Fmt.ebits : Fmt → Nat
  | .f32 | .bf16 => 8
  | .f16 | .e5m2 => 5
  | .e4m3 => 4
  | .e2m1 => 2

/-- Fraction bits (R25). -/
def Fmt.fbits : Fmt → Nat
  | .f32 => 23
  | .bf16 => 7
  | .f16 => 10
  | .e4m3 => 3
  | .e5m2 => 2
  | .e2m1 => 1

/-- Bias (R25). -/
def Fmt.bias : Fmt → Nat
  | .f32 | .bf16 => 127
  | .f16 | .e5m2 => 15
  | .e4m3 => 7
  | .e2m1 => 1

/-- Width in bits. -/
def Fmt.width (f : Fmt) : Nat := 1 + f.ebits + f.fbits

/-- The code of the sign bit alone. -/
def Fmt.signBit (f : Fmt) : Nat := 2 ^ (f.ebits + f.fbits)

/-- The largest finite magnitude's code (R25). -/
def Fmt.maxCode : Fmt → Nat
  | .f32 => 0x7F7FFFFF
  | .bf16 => 0x7F7F
  | .f16 => 0x7BFF
  | .e4m3 => 0x7E
  | .e5m2 => 0x7B
  | .e2m1 => 0x7

/-- The canonical NaN (R25, R27); E2M1 has none and +0 stands for it (R37). -/
def Fmt.nan : Fmt → Nat
  | .f32 => 0x7FC00000
  | .bf16 => 0x7FC0
  | .f16 => 0x7E00
  | .e4m3 => 0x7F
  | .e5m2 => 0x7E
  | .e2m1 => 0

/-- The code of +∞, for the formats that have one (R25). -/
def Fmt.inf? : Fmt → Option Nat
  | .f32 => some 0x7F800000
  | .bf16 => some 0x7F80
  | .f16 => some 0x7C00
  | .e5m2 => some 0x7C
  | .e4m3 | .e2m1 => none

/-- The floating format of a type code (R23). -/
def fmtOf : Ty → Option Fmt
  | .f16 => some .f16
  | .bf16 => some .bf16
  | .f32 => some .f32
  | .e4m3 => some .e4m3
  | .e5m2 => some .e5m2
  | _ => none

/-- A value: NaN, a signed infinity, a signed zero, or ± m × 2^e with m > 0. -/
inductive Num where
  | nan
  | inf (neg : Bool)
  | zero (neg : Bool)
  | fin (neg : Bool) (m : Nat) (e : Int)
  deriving DecidableEq, Repr, Inhabited

/-- The sign of a value. -/
def Num.neg : Num → Bool
  | .nan => false
  | .inf s | .zero s | .fin s _ _ => s

/-- Decode a code of a format (R25, R26). -/
def Fmt.decode (f : Fmt) (bits : Nat) : Num :=
  let b := bits % 2 ^ f.width
  let neg := b / f.signBit == 1
  let mag := b % f.signBit
  let ex := mag / 2 ^ f.fbits
  let fr := mag % 2 ^ f.fbits
  if f.inf?.isSome && ex == 2 ^ f.ebits - 1 then (if fr == 0 then .inf neg else .nan)
  else if f == .e4m3 && mag == 0x7F then .nan
  else if mag == 0 then .zero neg
  else if ex == 0 then .fin neg fr (1 - (f.bias : Int) - f.fbits)
  else .fin neg (2 ^ f.fbits + fr) ((ex : Int) - f.bias - f.fbits)

/-- Rounding modes (R34). -/
inductive RMode where
  | rne | rz | ru | rd | sr
  deriving DecidableEq, Repr, Inhabited

/-- The mode of a RND code (R34). -/
def rmodeOf : Nat → RMode
  | 0 => .rne
  | 1 => .rz
  | 2 => .ru
  | 3 => .rd
  | _ => .sr

/-- The number of bits of n: the least k with n < 2^k. -/
def bitLen (n : Nat) : Nat := if n == 0 then 0 else Nat.log2 n + 1

/-- Whether the magnitude n + rem/2^shift (plus a further part below it when `sticky`) rounds up to n + 1
(R34, R39). `draw` is bits [63:32] of the generator. -/
def roundsUp (mode : RMode) (neg : Bool) (n rem shift : Nat) (sticky : Bool) (draw : Nat) : Bool :=
  let some_ := rem != 0 || sticky
  match mode with
  | .rz => false
  | .ru => some_ && !neg
  | .rd => some_ && neg
  | .rne =>
    if 2 * rem > 2 ^ shift then true
    else if 2 * rem == 2 ^ shift && shift != 0 then sticky || n % 2 == 1
    else false
  | .sr => some_ && draw < 2 ^ 32 * rem / 2 ^ shift

/-- The magnitude m × 2^e cut at 2^q: quotient, remainder, shift and whether anything lies below the remainder. A
magnitude far below the cut keeps only that it is not 0. -/
def cutAt (m : Nat) (e q : Int) (sticky : Bool) : Nat × Nat × Nat × Bool :=
  if q ≤ e then (m * 2 ^ (e - q).toNat, 0, 0, sticky)
  else
    let sh := (q - e).toNat
    if sh > bitLen m + 64 then (0, 1, 100, true)
    else (m / 2 ^ sh, m % 2 ^ sh, sh, sticky)

/-- An overflowing result (R37). -/
def overflowCode (f : Fmt) (mode : RMode) (sat neg : Bool) : Nat :=
  let s := if neg then f.signBit else 0
  let toward := match mode with
    | .rz => true
    | .ru => neg
    | .rd => !neg
    | .rne | .sr => false
  match f.inf? with
  | some i => if sat || toward then s + f.maxCode else s + i
  | none =>
    if f == .e2m1 then s + f.maxCode
    else if sat || toward then s + f.maxCode
    else f.nan

/-- The code of the magnitude n × 2^q, n below 2^(fbits+1) or equal to it, and whether it exceeds the largest
finite value. -/
def packMag (f : Fmt) (n : Nat) (q : Int) : Nat × Bool :=
  let (n, q) := if n == 2 ^ (f.fbits + 1) then (2 ^ f.fbits, q + 1) else (n, q)
  if n < 2 ^ f.fbits then (n, false)
  else
    let ex := (q + f.fbits + f.bias).toNat
    let code := ex * 2 ^ f.fbits + (n - 2 ^ f.fbits)
    (code, code > f.maxCode)

/-- Round the exact nonzero magnitude m × 2^e (and a further part below its last bit when `sticky`) once to a format
(R34-R37, R39). The answer is the code and whether the result overflowed. -/
def roundTo (f : Fmt) (mode : RMode) (sat : Bool) (draw : Nat) (neg : Bool) (m : Nat) (e : Int) (sticky : Bool) :
    Nat × Bool :=
  let q := max ((bitLen m : Int) - 1 + e - f.fbits) (1 - (f.bias : Int) - f.fbits)
  let (n, rem, sh, st) := cutAt m e q sticky
  let n := if roundsUp mode neg n rem sh st draw then n + 1 else n
  let (code, past) := packMag f n q
  if past then (overflowCode f mode sat neg, true)
  else ((if neg then f.signBit else 0) + code, false)

/-- Encode a value in a format with one rounding (R37, R135): the code and the X bit of R40. -/
def encodeNum (f : Fmt) (mode : RMode) (sat : Bool) (draw : Nat) : Num → Nat × Bool
  | .nan => (f.nan, false)
  | .zero neg => (if neg then f.signBit else 0, false)
  | .inf neg =>
    let s := if neg then f.signBit else 0
    match f.inf? with
    | some i => if sat then (s + f.maxCode, true) else (s + i, false)
    | none => if sat || f == .e2m1 then (s + f.maxCode, true) else (f.nan, true)
  | .fin neg m e => roundTo f mode sat draw neg m e false

/-- The zero that an exact sum of 0 from unlike operands gives (R36). -/
def zeroOf (mode : RMode) : Num := .zero (mode == .rd)

/-- m1 × 2^e1 + m2 × 2^e2 with signs, exactly; 0 takes the sign of R36. -/
def addFin (mode : RMode) (n1 : Bool) (m1 : Nat) (e1 : Int) (n2 : Bool) (m2 : Nat) (e2 : Int) : Num :=
  let e := min e1 e2
  let a : Int := (m1 * 2 ^ (e1 - e).toNat : Nat)
  let b : Int := (m2 * 2 ^ (e2 - e).toNat : Nat)
  let s := (if n1 then -a else a) + (if n2 then -b else b)
  if s == 0 then zeroOf mode else .fin (s < 0) s.natAbs e

/-- The exact sum of two values, and whether it is invalid (R36, R129). -/
def addNum (mode : RMode) (a b : Num) : Num × Bool :=
  match a, b with
  | .nan, _ | _, .nan => (.nan, false)
  | .inf s, .inf t => if s == t then (.inf s, false) else (.nan, true)
  | .inf s, _ => (.inf s, false)
  | _, .inf t => (.inf t, false)
  | .zero s, .zero t => if s == t then (.zero s, false) else (zeroOf mode, false)
  | .zero _, v => (v, false)
  | v, .zero _ => (v, false)
  | .fin n1 m1 e1, .fin n2 m2 e2 => (addFin mode n1 m1 e1 n2 m2 e2, false)

/-- The negated value. -/
def negNum : Num → Num
  | .nan => .nan
  | .inf s => .inf !s
  | .zero s => .zero !s
  | .fin s m e => .fin (!s) m e

/-- The exact product, and whether it is invalid (R129). -/
def mulNum (a b : Num) : Num × Bool :=
  match a, b with
  | .nan, _ | _, .nan => (.nan, false)
  | .inf _, .zero _ | .zero _, .inf _ => (.nan, true)
  | .inf s, v => (.inf (s != v.neg), false)
  | v, .inf s => (.inf (s != v.neg), false)
  | .zero s, v => (.zero (s != v.neg), false)
  | v, .zero s => (.zero (s != v.neg), false)
  | .fin n1 m1 e1, .fin n2 m2 e2 => (.fin (n1 != n2) (m1 * m2) (e1 + e2), false)

/-- Round a value of an operation that may be invalid: the code and X (R40). -/
def finish (f : Fmt) (mode : RMode) (draw : Nat) (r : Num × Bool) : Nat × Bool :=
  let (c, x) := encodeNum f mode false draw r.1
  (c, x || r.2)

/-- fadd (R128, R129). -/
def fpAdd (f : Fmt) (mode : RMode) (draw a b : Nat) : Nat × Bool :=
  finish f mode draw (addNum mode (f.decode a) (f.decode b))

/-- fsub: a + (-b) (R128). -/
def fpSub (f : Fmt) (mode : RMode) (draw a b : Nat) : Nat × Bool :=
  finish f mode draw (addNum mode (f.decode a) (negNum (f.decode b)))

/-- fmul (R128). -/
def fpMul (f : Fmt) (mode : RMode) (draw a b : Nat) : Nat × Bool :=
  finish f mode draw (mulNum (f.decode a) (f.decode b))

/-- a × b + c with one rounding (R128, R129). -/
def fmaNum (mode : RMode) (a b c : Num) : Num × Bool :=
  match a, b, c with
  | .nan, _, _ | _, .nan, _ | _, _, .nan => (.nan, false)
  | _, _, _ =>
    let (p, inv) := mulNum a b
    if inv then (.nan, true) else addNum mode p c

/-- fma (R128). -/
def fpFma (f : Fmt) (mode : RMode) (draw a b c : Nat) : Nat × Bool :=
  finish f mode draw (fmaNum mode (f.decode a) (f.decode b) (f.decode c))

/-- fdiv (R128, R129, R41). -/
def fpDiv (f : Fmt) (mode : RMode) (draw a b : Nat) : Nat × Bool :=
  match f.decode a, f.decode b with
  | .nan, _ | _, .nan => (f.nan, false)
  | .zero _, .zero _ | .inf _, .inf _ => (f.nan, true)
  | .inf s, v => encodeNum f mode false draw (.inf (s != v.neg))
  | v, .inf s => encodeNum f mode false draw (.zero (s != v.neg))
  | .zero s, v => encodeNum f mode false draw (.zero (s != v.neg))
  | .fin s _ _, .zero t => ((encodeNum f mode false draw (.inf (s != t))).1, true)
  | .fin n1 m1 e1, .fin n2 m2 e2 =>
    let k := 96 + bitLen m2
    let q := m1 * 2 ^ k / m2
    roundTo f mode false draw (n1 != n2) q (e1 - e2 - k) (m1 * 2 ^ k % m2 != 0)

/-- The integer square root by `fuel` bits, from bit `fuel - 1` down. -/
def isqrtLoop : Nat → Nat → Nat → Nat
  | 0, _, r => r
  | k + 1, n, r =>
    let t := r + 2 ^ k
    isqrtLoop k n (if t * t ≤ n then t else r)

/-- The integer square root: the largest r with r × r ≤ n. -/
def isqrt (n : Nat) : Nat := isqrtLoop (bitLen n / 2 + 1) n 0

/-- sqrt in FP32 (R41, R134). -/
def fpSqrt (mode : RMode) (draw a : Nat) : Nat × Bool :=
  match Fmt.f32.decode a with
  | .nan => (Fmt.f32.nan, false)
  | .zero s => encodeNum .f32 mode false draw (.zero s)
  | .inf false => encodeNum .f32 mode false draw (.inf false)
  | .inf true => (Fmt.f32.nan, true)
  | .fin true _ _ => (Fmt.f32.nan, true)
  | .fin false m e =>
    let (m, e) := if e % 2 == 0 then (m, e) else (2 * m, e - 1)
    let n := m * 2 ^ 160
    let r := isqrt n
    roundTo .f32 mode false draw false r (e / 2 - 80) (r * r != n)

/-- rcp in FP32 (R41, R134). -/
def fpRcp (mode : RMode) (draw a : Nat) : Nat × Bool :=
  match Fmt.f32.decode a with
  | .nan => (Fmt.f32.nan, false)
  | .zero s => ((encodeNum .f32 mode false draw (.inf s)).1, true)
  | .inf s => encodeNum .f32 mode false draw (.zero s)
  | .fin s m e =>
    let k := 120 + bitLen m
    roundTo .f32 mode false draw s (2 ^ k / m) (-e - k) (2 ^ k % m != 0)

/-- rsq in FP32 (R41, R134). -/
def fpRsq (mode : RMode) (draw a : Nat) : Nat × Bool :=
  match Fmt.f32.decode a with
  | .nan => (Fmt.f32.nan, false)
  | .zero s => ((encodeNum .f32 mode false draw (.inf s)).1, true)
  | .inf false => encodeNum .f32 mode false draw (.zero false)
  | .inf true => (Fmt.f32.nan, true)
  | .fin true _ _ => (Fmt.f32.nan, true)
  | .fin false m e =>
    let (m, e) := if e % 2 == 0 then (m, e) else (2 * m, e - 1)
    let q := 2 ^ 240 / m
    let r := isqrt q
    roundTo .f32 mode false draw false r (-(e / 2) - 120) (2 ^ 240 % m != 0 || r * r != q)

/-- ⌊ln 2 × 2^320⌋. -/
def ln2Fix : Nat := 0xb17217f7d1cf79abc9e3b39803f2f6af40f343267298b62d8a0d175b8baafa2be7b876206debac98

/-- The terms of e^y from term k on, y and the running term in units of 2^-320, `fuel` of them. -/
def expTerms : Nat → Nat → Nat → Nat → Nat → Nat
  | 0, _, _, _, acc => acc
  | fuel + 1, k, y, t, acc =>
    let t := t * y / 2 ^ 320 / k
    expTerms fuel (k + 1) y t (acc + t)

/-- ⌊2^g × 2^320⌋ to within its last digits, for g in units of 2^-320 below 1. -/
def exp2Fix (g : Nat) : Nat :=
  let y := g * ln2Fix / 2 ^ 320
  expTerms 90 1 y (2 ^ 320) (2 ^ 320)

/-- ex2 in FP32 (R41, R134). A non-integer operand gives an irrational result, so something always lies below the
320 computed bits. -/
def fpEx2 (mode : RMode) (draw a : Nat) : Nat × Bool :=
  match Fmt.f32.decode a with
  | .nan => (Fmt.f32.nan, false)
  | .zero _ => (0x3F800000, false)
  | .inf true => (0, false)
  | .inf false => (0x7F800000, false)
  | .fin s m e =>
    if e ≥ 0 then
      let n : Int := (m * 2 ^ e.toNat : Nat)
      roundTo .f32 mode false draw false 1 (if s then -n else n) false
    else
      let sh := (-e).toNat
      let v : Int := if s then -(m : Int) else m
      let n := v / (2 ^ sh : Nat)
      let fr := (v % (2 ^ sh : Nat)).toNat
      if fr == 0 then roundTo .f32 mode false draw false 1 n false
      else
        let g := fr * 2 ^ 320 / 2 ^ sh
        roundTo .f32 mode false draw false (exp2Fix g) (n - 320) true

/-- The binary digits of log2 of y in [1, 2), y in units of 2^-400, `fuel` digits, most significant first. -/
def log2Digits : Nat → Nat → Nat → Nat
  | 0, _, acc => acc
  | k + 1, y, acc =>
    let y := y * y / 2 ^ 400
    if y ≥ 2 ^ 401 then log2Digits k (y / 2) (2 * acc + 1) else log2Digits k y (2 * acc)

/-- lg2 in FP32 (R41, R134). An operand that is no power of two gives an irrational result. -/
def fpLg2 (mode : RMode) (draw a : Nat) : Nat × Bool :=
  match Fmt.f32.decode a with
  | .nan => (Fmt.f32.nan, false)
  | .zero _ => (0xFF800000, true)
  | .inf false => (0x7F800000, false)
  | .inf true => (Fmt.f32.nan, true)
  | .fin true _ _ => (Fmt.f32.nan, true)
  | .fin false m e =>
    let top := bitLen m - 1
    let ex : Int := e + top
    if m == 2 ^ top then
      if ex == 0 then (0, false)
      else roundTo .f32 mode false draw (ex < 0) ex.natAbs 0 false
    else
      let d := log2Digits 200 (m * 2 ^ 400 / 2 ^ top) 0
      let v : Int := ex * (2 ^ 200 : Nat) + d
      -- below 0 the computed digits are a floor of a negative value: the magnitude lies just below -v
      if v < 0 then roundTo .f32 mode false draw true (v.natAbs - 1) (-200) true
      else roundTo .f32 mode false draw false v.natAbs (-200) true

/-- The order key of a code that is no NaN (R28): -0 below +0. -/
def Fmt.key (f : Fmt) (bits : Nat) : Int :=
  let b := bits % 2 ^ f.width
  if b / f.signBit == 1 then -((b % f.signBit : Nat) : Int) - 1 else ((b % f.signBit : Nat) : Int)

/-- Whether a code is a NaN (R26). -/
def Fmt.isNaN (f : Fmt) (bits : Nat) : Bool := f.decode bits == .nan

/-- fmin and fmax (R42): `mx` takes the greater, `prefer` is the number-preferring mode. -/
def fpMinMax (f : Fmt) (mx prefer : Bool) (a b : Nat) : Nat :=
  let a := a % 2 ^ f.width
  let b := b % 2 ^ f.width
  match f.isNaN a, f.isNaN b with
  | true, true => f.nan
  | true, false => if prefer then b else f.nan
  | false, true => if prefer then a else f.nan
  | false, false =>
    if mx then (if f.key a ≥ f.key b then a else b) else (if f.key a ≤ f.key b then a else b)

/-- fabs and fneg (R131). -/
def fpAbs (f : Fmt) (a : Nat) : Nat := if f.isNaN a then f.nan else a % f.signBit
def fpNeg (f : Fmt) (a : Nat) : Nat :=
  if f.isNaN a then f.nan
  else
    let a := a % 2 ^ f.width
    if a / f.signBit == 1 then a % f.signBit else a + f.signBit

/-- fcmp (R132). -/
def fpCmp (f : Fmt) (cond a b : Nat) : Bool :=
  let un := f.isNaN a || f.isNaN b
  let x := f.key a
  let y := f.key b
  match cond with
  | 0 => !un && x == y
  | 1 => un || x != y
  | 2 => !un && x < y
  | 3 => !un && x ≤ y
  | 4 => !un && x > y
  | 5 => !un && x ≥ y
  | 6 => un
  | _ => !un

/-- fclass (R133). -/
def fpClass (f : Fmt) (a : Nat) : Nat :=
  let sub := a % 2 ^ f.width % f.signBit < 2 ^ f.fbits
  match f.decode a with
  | .nan => 0x100
  | .inf s => if s then 1 else 0x80
  | .zero s => if s then 8 else 0x10
  | .fin s _ _ => if sub then (if s then 4 else 0x20) else (if s then 2 else 0x40)

/-- fscale (R130): n signed. -/
def fpScale (f : Fmt) (mode : RMode) (draw a : Nat) (n : Int) : Nat × Bool :=
  match f.decode a with
  | .fin s m e => roundTo f mode false draw s m (e + n) false
  | v => encodeNum f mode false draw v

/-- cvtf (R135). -/
def fpCvt (src dst : Fmt) (mode : RMode) (sat : Bool) (draw a : Nat) : Nat × Bool :=
  encodeNum dst mode sat draw (src.decode a)

/-- A value rounded to an integer (R136). -/
def roundInt (mode : RMode) (draw : Nat) : Num → Int
  | .fin neg m e =>
    let (n, rem, sh, st) := cutAt m e 0 false
    let n := if roundsUp mode neg n rem sh st draw then n + 1 else n
    if neg then -(n : Int) else n
  | _ => 0

/-- The least and greatest values of an integer type (R23). -/
def tyMin (t : Ty) : Int := if t.signed then -(2 ^ (t.width - 1) : Nat) else 0
def tyMax (t : Ty) : Int := if t.signed then (2 ^ (t.width - 1) : Nat) - 1 else (2 ^ t.width : Nat) - 1

/-- v held inside [lo, hi]. -/
def clampInt (v lo hi : Int) : Int := if v < lo then lo else if v > hi then hi else v

/-- cvtfi (R136): the integer before result(v), and X. -/
def fpToInt (src : Fmt) (dst : Ty) (mode : RMode) (sat : Bool) (draw a : Nat) : Int × Bool :=
  match src.decode a with
  | .nan => (0, false)
  | .inf neg => (if sat then (if neg then tyMin dst else tyMax dst) else 0, true)
  | v =>
    let n := roundInt mode draw v
    if tyMin dst ≤ n && n ≤ tyMax dst then (n, false)
    else (if sat then clampInt n (tyMin dst) (tyMax dst) else n, true)

/-- An integer as a value. -/
def numOfInt (v : Int) : Num := if v == 0 then .zero false else .fin (v < 0) v.natAbs 0

/-- cvtif (R137). -/
def fpOfInt (dst : Fmt) (mode : RMode) (sat : Bool) (draw : Nat) (v : Int) : Nat × Bool :=
  encodeNum dst mode sat draw (numOfInt v)

/-- The generator G(S, i) (R38). -/
def genG (s i : Word) : Word :=
  let x0 := s ^^^ (i * 0x5D1C7A93E2B46F0B)
  let x1 := (x0 ^^^ (x0 >>> 29)) * 0xC3A59E1748D2B06D
  x1 ^^^ (x1 >>> 32)

/-- The index of an SR rounding (R39). -/
def srIndex (tag : Nat) (slot rix elem : Nat) : Word :=
  BitVec.ofNat 64 (tag % 65536 * 2 ^ 48 + slot % 128 * 2 ^ 41 + rix % 4096 * 2 ^ 29 + elem % 65536)

/-- Bits [63:32] of the generator for an SR rounding (R39). -/
def srDraw (seed : Word) (opnum tag slot rix elem : Nat) : Nat :=
  (genG (seed ^^^ BitVec.ofNat 64 opnum) (srIndex tag slot rix elem)).toNat / 2 ^ 32

/-- The combining tree of R44 over 2^depth leaves: an absent child passes the other through unchanged. -/
def treeOf {α : Type} (comb : α → α → α) : Nat → List (Option α) → Option α
  | 0, ls => ls.headD none
  | d + 1, ls =>
    match treeOf comb d (ls.take (2 ^ d)), treeOf comb d (ls.drop (2 ^ d)) with
    | none, h => h
    | l, none => l
    | some l, some h => some (comb l h)

/-- The depth of the tree over w leaves: the leaves padded to a power of two (R44). -/
def treeDepth (w : Nat) : Nat := if w ≤ 1 then 0 else Nat.log2 (w - 1) + 1

/-- The reduction over a list of leaves (R44). -/
def reduce {α : Type} (comb : α → α → α) (ls : List (Option α)) : Option α := treeOf comb (treeDepth ls.length) ls

/-- A value times 2^k, exactly. -/
def scaleNum (k : Int) : Num → Num
  | .fin s m e => .fin s m (e + k)
  | v => v

/-- The value of an MX element under its scale byte (R29). -/
def mxNum (f : Fmt) (scale code : Nat) : Num :=
  if scale % 256 == 0xFF then .nan else scaleNum ((scale % 256 : Nat) - 127) (f.decode code)

/-- The Q4N codebook as a numerator over 1024 (R32). -/
def q4nLevel : Nat → Int
  | 0 => -1024 | 1 => -725 | 2 => -555 | 3 => -427 | 4 => -318 | 5 => -221 | 6 => -130 | 7 => -43
  | 8 => 43 | 9 => 130 | 10 => 221 | 11 => 318 | 12 => 427 | 13 => 555 | 14 => 725 | _ => 1024

/-- The FP32 code of a Q4N element (R33). -/
def q4nBits (sigma scale code : Nat) : Nat :=
  let sc : Num := .fin false (scale % 256 + 1) (-8)
  let sb := (finish .f32 .rne 0 (mulNum (Fmt.f32.decode sigma) sc)).1
  let lv := q4nLevel (code % 16)
  (finish .f32 .rne 0 (mulNum (.fin (lv < 0) lv.natAbs (-10)) (Fmt.f32.decode sb))).1

/-- The scale byte R43 chooses for the magnitudes of a block. -/
def mxScale (f : Fmt) (vs : List Num) : Nat :=
  let emax : Int := match f with
    | .e4m3 => 8
    | .e5m2 => 15
    | _ => 2
  let bad := vs.any fun v => match v with
    | .nan | .inf _ => true
    | _ => false
  let tops := vs.filterMap fun v => match v with
    | .fin _ m e => some ((bitLen m : Int) - 1 + e)
    | _ => none
  if bad then 0xFF
  else match tops with
    | [] => 0
    | t :: ts => (clampInt (ts.foldl max t - emax + 127) 0 0xFE).toNat

/-- The elements of an MX block and whether each saturated (R43). -/
def mxEncode (f : Fmt) (vs : List Num) : Nat × List (Nat × Bool) :=
  let e := mxScale f vs
  (e, vs.map fun v => encodeNum f .rne true 0 (if e == 0xFF then v else scaleNum (127 - (e : Int)) v))

end Sys2Proof.Machine
end

