-- ==== Sys2Proof/Config.lean ====
section
/-! DEFINITION. The values the spec leaves open. Each is a constant without a body: no proof can see what it is. A fresh
one is taken by applying it to the counter `fresh` of the state, which then rises (log 2). -/

namespace Sys2Proof.Config

/-- Which of the steps that may happen next happens, when no input says so (R91, R252, R415; log 1). -/
opaque pick : Nat → Nat

/-- A byte whose value no rule states: the padding of a view line past the last element (R152), and the contents of
SPDM messages that the registers do not fix (R407). -/
opaque freeByte : Nat → Byte

/-- The number of content bytes of an SPDM message that the registers do not fix (R407). -/
opaque freeLength : Nat → Nat

/-- The power a die is projected to draw with one more grant, in watts (R404). -/
opaque projectedPower : Nat → Nat

/-- Where the pattern blocks that an image's port records number lie, by the image's address (R84; log 26). -/
opaque patternBase : Nat → Nat

/-- The L2 slice of a die that caches a line, and the home bank of a die that serves it, by line number (R145, R163;
log 96). -/
opaque sliceOf : Nat → Nat
opaque bankOf : Nat → Nat

/-- What flash holds of a firmware slot (R87, R406; log 32): the MEASURE section of its image, and the SHA-512 of the image's
other sections as R87 lists them; false is slot A. -/
opaque slotMeasure : Bool → BitVec 1088
opaque slotSum : Bool → BitVec 512

/-- The Voxone key that a KEYID names (R406). -/
opaque voxoneKey : BitVec 32 → BitVec 256

/-- A word whose value no rule states, such as the payload of an interrupt's data that names no source. -/
opaque freeWord : Nat → Word

end Sys2Proof.Config
end

