-- ==== Sys2Proof/Machine/Types.lean ====
section
/-! DEFINITION. The objects a state of the Y8 is made of, in the spec's own division: tokens and firings (05), memory
(08, 20, 22), pools (09), the matrix node (10), streams (11), kernels and planes (13), contexts (15), queues and
groups (17, 18), barriers (19), links (23), power and firmware (25). Plain data throughout. -/

namespace Sys2Proof.Machine

/-- A byte memory: rising addresses, no entry equal to what an unlisted address reads as (0, log 6). -/
abbrev Mem := List Host.Cell

/-! ### Tokens (R64, R251, R327) -/

/-- A token: payload, tag, SEQ, flags, and the memory operations it still depends on. -/
structure Token where
  pay  : Word := 0
  lreg : BitVec 4 := 0
  iter : BitVec 12 := 0
  sq   : BitVec 8 := 0
  x    : Bool := false
  p    : Bool := false
  n    : Bool := false
  deps : List Nat := []
  deriving DecidableEq, Repr, Inhabited

/-- Marker kinds (R64, R327). -/
inductive MarkKind where
  | barrier | checkpoint | freeze | seal
  deriving DecidableEq, Repr, Inhabited

/-- What a channel or port receives: a data token or a marker (R327). -/
inductive Item where
  | tok (t : Token)
  | mark (k : MarkKind) (b : Nat)
  deriving DecidableEq, Repr, Inhabited

/-- Who sends a token or performs an operation (R91, R172, R250). -/
inductive Agent where
  | oper (u op : Nat)
  | port (die cl p : Nat)
  | engine (die e : Nat)
  | shore (dev unit : Nat)
  | arbiter (ctx reg : Nat)
  | link (n : Nat)
  | host (fn : Nat)
  | none
  deriving DecidableEq, Repr, Inhabited

/-- A token or marker with the route it came by (R91, R328), its place in the order of arrivals (R94), for a token of
another device the interval it carries (R383), and whether its segment has been left behind: its operator has forwarded
the marker that ended it (R328). -/
structure Held where
  src  : Agent := .none
  item : Item := .tok {}
  at_  : Nat := 0
  iv   : Nat := 0
  past : Bool := false
  deriving DecidableEq, Repr, Inhabited

/-- Where an on-die token goes (R64), in logical numbers: a channel of an operator, or a port. -/
inductive Dest where
  | chan (u op ch : Nat)
  | port (die cl p : Nat)
  deriving DecidableEq, Repr, Inhabited

/-- A token on its way (R64, R91): identity, context it belongs to, sender, destination. -/
structure Flight where
  id   : Nat := 0
  ctx  : Nat := 0
  src  : Agent := .none
  dst  : Dest := .chan 0 0 0
  item : Item := .tok {}
  iv   : Nat := 0
  deriving DecidableEq, Repr, Inhabited

/-! ### Kernel images as records (R83, R84) -/

/-- A channel record (R84). `dest` is the 32-bit DEST as stored. -/
structure ChanRec where
  ch   : Nat := 0
  out  : Bool := false
  rate : Nat := 1
  kind : Nat := 0
  dest : Nat := 0
  deriving DecidableEq, Repr, Inhabited

/-- An operator as an image holds it (R84): its place, channels, and blocks as stored bytes (R49). `num` is its
number in the image (R39). -/
structure OpRec where
  num    : Nat := 0
  cl     : Nat := 0
  tarn   : Nat := 0
  slot   : Nat := 0
  chans  : List ChanRec := []
  blocks : List (List Byte) := []
  off    : Nat := 0
  deriving DecidableEq, Repr, Inhabited

/-- A port record (R84): `pat` is none for 0xFFFF_FFFF. -/
structure PortRec where
  cl   : Nat := 0
  port : Nat := 0
  pat  : Option Nat := none
  dest : Nat := 0
  off  : Nat := 0
  deriving DecidableEq, Repr, Inhabited

/-- A pool record or the parameters of a declaration (R84, R167). -/
structure PoolRec where
  id       : Nat := 0
  op       : Nat := 0
  ty       : Nat := 0
  len      : Nat := 0
  width    : Nat := 0
  expect   : Nat := 0
  chk      : Nat := 0
  deadline : Nat := 0
  init     : Word := 0
  deriving DecidableEq, Repr, Inhabited

/-- A staged kernel image (R83, R263, R265): the records read out of it, and its state in the configuration cache
with respect to the regions: `resident` lists the region keys it is resident on, `drop` that a kdrop is pending. -/
structure Image where
  ctx      : Nat := 0
  addr     : Nat := 0
  width    : Nat := 1
  height   : Nat := 1
  entryOp  : Option Nat := none
  entryCh  : Nat := 0
  frame    : Nat := 0
  opers    : List OpRec := []
  ports    : List PortRec := []
  pools    : List PoolRec := []
  resident : List Nat := []
  drop     : Bool := false
  size     : Nat := 0
  used     : Nat := 0
  deriving DecidableEq, Repr, Inhabited

/-- One configuration in a unit's 24 KiB configuration store (R263): the operators of one image on that unit, and
the bytes it takes. -/
structure StoreEntry where
  ctx   : Nat := 0
  image : Nat := 0
  size  : Nat := 0
  used  : Nat := 0
  opers : List OpRec := []
  deriving DecidableEq, Repr, Inhabited

/-! ### Faults against a context (R291) -/

/-- The content of one fault record (R291). -/
structure FaultRec where
  code    : Nat := 0
  outcome : Nat := 0
  die     : Nat := 0
  cl      : Nat := 0
  tarn    : Nat := 0
  oper    : Nat := 0
  block   : Nat := 0
  slot    : Nat := 0
  tag     : Nat := 0
  sq      : Nat := 0
  attempt : Nat := 0
  chan    : Nat := 0
  depth   : Nat := 0
  addr    : Word := 0
  iv      : Nat := 0
  source  : List Byte := []
  time    : Nat := 0
  detail  : Word := 0
  deriving DecidableEq, Repr, Inhabited

/-! ### Firings, blocks and operators (05, 06) -/

/-- A state register with its flags and dependency set (R113, R251). -/
structure SReg where
  val  : Word := 0
  x    : Bool := false
  p    : Bool := false
  deps : List Nat := []
  deriving DecidableEq, Repr, Inhabited

/-- Where bytes lie: physical device memory, host memory, or the scratch of a unit (R144, R148). -/
inductive Loc where
  | mem (pa : Nat)
  | host (fn addr : Nat)
  | scratch (u addr : Nat)
  deriving DecidableEq, Repr, Inhabited

/-- A pattern block read out (R223). -/
structure Pattern where
  base   : Nat := 0
  ty     : Nat := 0
  ndim   : Nat := 1
  tl     : Nat := 0
  scope  : Nat := 3
  itsel  : Nat := 0
  sqsel  : Nat := 0
  itbase : Nat := 0
  lreg   : Nat := 0
  sqbase : Nat := 0
  host   : Bool := false
  pool   : Bool := false
  ring   : Bool := false
  mxk    : Nat := 0
  ringId : Nat := 0
  counts : List Nat := []
  strides : List Int := []
  side   : Nat := 0
  deriving DecidableEq, Repr, Inhabited

/-- A contributor record (R172). -/
structure Contrib where
  dev     : Nat := 0
  kind    : Nat := 0
  die     : Nat := 0
  oper    : Nat := 0
  unit    : Nat := 0
  tag     : Nat := 0
  attempt : Nat := 0
  x       : Bool := false
  p       : Bool := false
  gen     : Nat := 0
  csum    : Nat := 0
  deriving DecidableEq, Repr, Inhabited

/-- A partial of a pool (R170, R172, R174): its index, generation, type, data, flags, record, checksum, the task (launch and
node) and interval it belongs to, what it depends on, the operation whose obligation its registration meets while it is
held for a later generation (R173, R183), whether it lies in its backing slot, and its bytes in an MX format (R388). -/
structure Partial where
  idx    : Nat := 0
  gen    : Nat := 0
  ty     : Nat := 0
  data   : List Word := []
  x      : Bool := false
  p      : Bool := false
  failed : Bool := false
  who    : Contrib := {}
  csum   : Nat := 0
  task   : Nat := 0
  iv     : Nat := 0
  deps   : List Nat := []
  op     : Option Nat := none
  inSlot : Bool := false
  enc    : List Byte := []
  deriving DecidableEq, Repr, Inhabited

/-- The side effects a block stages (R97), each with what it needs to perform after release. -/
inductive Eff where
  | store (loc : Loc) (bytes : List Byte) (scope cls : Nat)
  | hold (k : Nat)
  | send (ch : Nat) (t : Token) (emits : Bool)
  | rsend (route dev ctx links : Nat) (mc : Bool) (t : Token)
  | cwb (lines : List Nat) (scope : Nat)
  | cinv (lines : List Nat) (scope : Nat)
  | ffree (off : Nat)
  | pdecl (pool : Nat) (r : PoolRec)
  | contrib (pool : Nat) (q : Partial)
  | pset (pool gen : Nat) (tol cur : Bool)
  | pexp (pool gen : Nat) (tol cur : Bool) (addr : Nat) (segs : List (Loc × Nat × Nat))
  | pdrop (pool : Nat)
  | strm (cl port addr : Nat)
  | strmi (cl port : Nat) (pat : Pattern)
  | sstop (cl port : Nat) (dropq : Bool)
  | pbinv (cl : Nat) (addr : Option Nat)
  | sbar (cl : Nat)
  | cpy (eng addr : Nat)
  | ringrel (ring slot : Nat)
  | call (image : Nat) (args : List Word) (x : Bool) (deps : List Nat) (cont : Option (Nat × Nat × Nat)) (tag : Nat)
  | ret (vals : List Word) (x : Bool) (deps : List Nat)
  | tcall (image : Nat) (args : List Word) (x : Bool) (deps : List Nat) (tag : Nat)
  | kload (image : Nat) (res : Bool)
  | kdrop (image : Nat)
  | launch (desc : List Byte) (replay : Bool)
  | gpatch (group node : Nat) (param : Word)
  | done
  | bar (b : Nat) (clusters : List Nat) (springs : Nat)
  | marker (cl port b : Nat)
  | seal (n : Nat)
  | irrev (pa : Nat) (bytes : List Byte)
  | swr (num : Nat) (val : Word)
  | trap (code : Nat) (stop : Bool) (detail : Word)
  | yield
  | halt
  | digest (src len dst : Nat)
  | meas (reg src : Nat)
  | verify (dig sig key : Nat)
  | wdog (ms : Nat)
  | tld (t : Nat) (base : Nat) (stride : Int) (side : Option Nat) (scope : Nat)
  | tst (t : Nat) (base : Nat) (stride : Int) (side : Option Nat) (scope : Nat)
  deriving DecidableEq, Repr, Inhabited

/-- A staged side effect of a running block (R97): its identity, whether it has been admitted, its slot, dependency set and
tag. -/
structure Staged where
  id   : Nat := 0
  ok   : Bool := false
  slot : Nat := 0
  deps : List Nat := []
  tag  : Nat := 0
  sq   : Nat := 0
  eff  : Eff := .done
  deriving DecidableEq, Repr, Inhabited

/-- Whose work an operation is: context, region, task, activation (R354), interval (R338), replay attempt (R172). -/
structure Owner where
  ctx     : Nat := 0
  reg     : Nat := 0
  task    : Nat := 0
  act     : Nat := 0
  iv      : Nat := 0
  attempt : Nat := 0
  deriving DecidableEq, Repr, Inhabited

/-- A released side effect on its way to the place where it performs (R97, R157, R250); `fr` is the firing it is of. -/
structure Pend where
  id      : Nat := 0
  who     : Agent := .none
  fr      : Nat := 0
  own     : Owner := {}
  deps    : List Nat := []
  tag     : Nat := 0
  sq      : Nat := 0
  block   : Nat := 0
  slot    : Nat := 0
  step    : Nat := 0
  eff     : Eff := .done
  deriving DecidableEq, Repr, Inhabited

/-- States of a firing (R101); a match that is not complete has no firing yet, its tokens wait in the channels. -/
inductive FiringSt where
  | ready | running | held
  deriving DecidableEq, Repr, Inhabited

/-- Why a held firing waits (R99). -/
inductive Cause where
  | walk (ctx va : Nat)
  | writeBack
  | rollback
  | clear
  deriving DecidableEq, Repr, Inhabited

/-- A firing and its running block (R50–R55, R97–R101). `arrived` numbers the arrival of its earliest token (R94),
`slot0` counts its unit's firing slots when it became ready (R107), `toks` are the matched tokens by channel, `insBase` counts
the `in` of each channel in committed blocks, `pos` holds the tokens at slot × 4 + position, `fired` the slots that
have performed. -/
structure Firing where
  id      : Nat := 0
  num     : Option Nat := none
  lreg    : BitVec 4 := 0
  iter    : BitVec 12 := 0
  st      : FiringSt := .ready
  refire  : Bool := false
  since   : Nat := 0
  arrived : Nat := 0
  slot0   : Nat := 0
  eaten   : Bool := false
  issue   : Nat := 0
  alone   : Bool := false
  cause   : Cause := .clear
  toks    : Tab (List Token) := []
  insBase : Tab Nat := []
  block   : Nat := 0
  rep     : Nat := 0
  nrep    : Nat := 0
  started : Bool := false
  pos     : Tab Token := []
  fired   : List Nat := []
  staged  : List Staged := []
  wrs     : Tab SReg := []
  branch  : Option Nat := none
  grants  : List (Nat × Nat) := []
  frees   : List (Nat × Nat) := []
  tagfrees : List (Nat × Nat) := []
  nonIdem : Bool := false
  deriving DecidableEq, Repr, Inhabited

/-- An input channel's dynamic state (R93–R96, R328). -/
structure Chan where
  held : List Held := []
  off  : Bool := false
  deriving DecidableEq, Repr, Inhabited

/-- An operator slot of a plane (R88, R103, R113, R119). -/
structure OpState where
  num     : Nat := 0
  sregs   : Tab SReg := []
  count   : Nat := 0
  share   : Nat := 0
  slots   : Nat := 0
  occ     : Nat := 0
  chans   : Tab Chan := []
  firings : List Firing := []
  deriving DecidableEq, Repr, Inhabited

/-- A matching-store entry (R94). -/
structure MatchEntry where
  op       : Nat := 0
  lreg     : BitVec 4 := 0
  iter     : BitVec 12 := 0
  reserved : Bool := false
  deriving DecidableEq, Repr, Inhabited

/-! ### Streams and ports (11) -/

/-- Stream states of R232 from `running` on. -/
inductive StreamSt where
  | running | paused | frozen
  deriving DecidableEq, Repr, Inhabited

/-- The stream bound to a port (R227, R228, R232): its command's identity, pattern, next element (next tile at a tile
port), the most elements counted in any attempt (R236), the ring slot being filled (R240), the tile register being
filled (R197), its place among the streams of the port since the replay point, the cells of the present tile that have
performed (R229), later elements that have performed already (R256), and the place of M and the cycle that its reads come
after (R252, R256). -/
structure Stream where
  cmd     : Nat := 0
  pat     : Pattern := {}
  pos     : Nat := 0
  counted : Nat := 0
  st      : StreamSt := .running
  fill    : Nat := 0
  own     : Owner := {}
  filling : Option Nat := none
  nth     : Nat := 0
  part    : Nat := 0
  ahead   : List Nat := []
  floor   : Nat := 0
  since   : Nat := 0
  deriving DecidableEq, Repr, Inhabited

/-- A port of a cluster (R220, R221): whether a record binds it, the record's destination, the stream on it, tokens
held, the spring's stream buffer (the bytes of each element delivered since the replay point, poisoned or not) with how
much of it a replay has delivered again (R227, R354), the mirror's tokens at a comparator (R355), and for each stream
since the replay point the elements it has counted (R236), with how many have started in this attempt. -/
structure Port where
  bound   : Bool := false
  dest    : Nat := 0
  stream  : Option Stream := none
  held    : List Held := []
  off     : Bool := false
  buffer  : List (List Byte × Bool) := []
  bufFull : Bool := false
  bufPos  : Nat := 0
  cmpr    : List Token := []
  counts  : List Nat := []
  nth     : Nat := 0
  deriving DecidableEq, Repr, Inhabited

/-- What a dispatcher's command does (R222, R331). -/
inductive CmdKind where
  | strm (pat : Pattern)
  | sbar
  | marker (b : Nat)
  deriving DecidableEq, Repr, Inhabited

/-- An accepted stream command (R222): identity, port, kind, its provenance, whether its stream has started, and the place of
M that its elements come after (R256). -/
structure Cmd where
  id    : Nat := 0
  port  : Nat := 0
  kind  : CmdKind := .sbar
  own   : Owner := {}
  running : Bool := false
  floor : Nat := 0
  deriving DecidableEq, Repr, Inhabited

/-- A cluster's stream dispatcher and governor (R222, R226, R404). -/
structure Cluster where
  queue   : List Cmd := []
  pcache  : Tab (List Byte) := []
  period  : Nat := 0
  budget  : Nat := 290
  deriving DecidableEq, Repr, Inhabited

/-- A copy job of an engine (R237): identity, owner and tag, cluster, the two patterns, next element, whether the engine
has started it, the ring slot being filled, the partial gathered for POOL = 1 (R238), whether it is a copy node's, later
elements that have performed already, and the place of M and the cycle that its reads come after (R256). -/
structure Job where
  id      : Nat := 0
  own     : Owner := {}
  cl      : Nat := 0
  tag     : Nat := 0
  src     : Pattern := {}
  dst     : Pattern := {}
  pos     : Nat := 0
  started : Bool := false
  fill    : Nat := 0
  gather  : List Word := []
  poison  : Bool := false
  node    : Bool := false
  ahead   : List Nat := []
  floor   : Nat := 0
  since   : Nat := 0
  deriving DecidableEq, Repr, Inhabited

/-! ### The matrix node (10) -/

/-- Use of a tile register (R198, R201). -/
inductive TileSt where
  | free | filling | held
  deriving DecidableEq, Repr, Inhabited

/-- A tile register with its tcfg, side storage and P bit (R193, R194). `bytes` is row × 128 + byte, `side` is
row × 8 + byte. -/
structure Tile where
  fmt    : Nat := 0xB
  mxk    : Nat := 0
  rowsM1 : Nat := 31
  colsM1 : Nat := 31
  bytes  : Mem := []
  side   : Mem := []
  p      : Bool := false
  st     : TileSt := .free
  busy   : Bool := false
  deriving DecidableEq, Repr, Inhabited

/-- An accumulator (R195, R200): element row × 32 + column, X bits by element, its binding (tag, due SEQ, age). -/
structure Acc where
  isInt : Bool := false
  els   : Tab (BitVec 32) := []
  xs    : List Nat := []
  p     : Bool := false
  bind  : Option (Nat × Nat × Nat) := none
  leave : Bool := false
  deriving DecidableEq, Repr, Inhabited

/-- A K-step in progress (R201, R204): the accumulator's next content, the cycle it may end at, and the instruction
that completes with it; `live` is false once that instruction's block has aborted. -/
structure KStep where
  acc   : Nat := 0
  next  : Acc := {}
  ends  : Nat := 0
  f     : FireRef := {}
  slot  : Nat := 0
  live  : Bool := true
  deriving DecidableEq, Repr, Inhabited

/-- The tile state of a node's plane (R208). `statics` are the static registers of R196, `age` numbers bindings. -/
structure Tiles where
  tiles   : Tab Tile := []
  accs    : Tab Acc := []
  kstep   : Option KStep := none
  statics : List Nat := []
  age     : Nat := 0
  deriving DecidableEq, Repr, Inhabited

/-! ### Planes and units (13) -/

/-- The kernel reference of a plane (R262, R266, R276). `cont` is the caller's unit, slot and channel. -/
structure KRef where
  image : Nat := 0
  depth : Nat := 0
  cont  : Option (Nat × Nat × Nat) := none
  tag   : Nat := 0
  width : Nat := 1
  height : Nat := 1
  args   : List Token := []
  act    : Nat := 0
  entry : Option (Nat × Nat × Nat) := none
  deriving DecidableEq, Repr, Inhabited

/-- The plane of one tarn, node or core (R262). -/
structure Plane where
  image   : Nat := 0
  ops     : Tab OpState := []
  arrival : List Flight := []
  ovf     : List Flight := []
  entries : List MatchEntry := []
  base    : Nat := 0
  top     : Nat := 0
  limit   : Nat := 0
  frame   : Nat := 0
  ports   : Tab Port := []
  node    : Tiles := {}
  deriving DecidableEq, Repr, Inhabited

/-- A unit: tarn, matrix node or system core (R12, R88, R412). `secure` is its world (R20, R21), `owner` is the key of the region whose task has it,
`bad` are the poisoned words of its scratch, `l1bad` those of its L1 with the cycle of the error (R100), `cur` the operator
that has the unit and `consec` its consecutive firing slots (R102). -/
structure UnitS where
  store   : List StoreEntry := []
  plane   : Plane := {}
  scratch : Mem := []
  bad     : List Nat := []
  l1bad   : List (Nat × Nat) := []
  owner   : Option Nat := none
  cur     : Option Nat := none
  consec  : Nat := 0
  period  : Nat := 0
  issues  : Nat := 0
  split   : Word := 0x1A04021002
  width   : Word := 0x0800000000000000
  secure  : Bool := false
  halted  : Bool := false
  deriving DecidableEq, Repr, Inhabited

/-- A frozen level (R270-R273): its kernel, the planes of the region's units by unit index, the sizes of its tarns' records
by unit index and of its nodes' by cluster, whether it is spilled, and what a replay of it may do (R354). -/
structure Level where
  kref    : KRef := {}
  planes  : Tab Plane := []
  sizes   : Tab Nat := []
  nodes   : Tab Nat := []
  spilled : Bool := false
  thawed  : Bool := false
  nonIdem : Bool := false
  replays : Nat := 0
  deriving DecidableEq, Repr, Inhabited

/-- A call waiting at the arbiter (R266, R269). -/
structure Call where
  id     : Nat := 0
  tail   : Bool := false
  image  : Nat := 0
  args   : List Word := []
  x      : Bool := false
  deps   : List Nat := []
  cont   : Option (Nat × Nat × Nat) := none
  tag    : Nat := 0
  unitIx : Nat := 0
  op     : Nat := 0
  act    : Nat := 0
  deriving DecidableEq, Repr, Inhabited

/-- A free list of a loop region (R117). `since` are the iterations granted since the replay point, `cur0` the
cursor there (R354). -/
structure FreeList where
  cursor : Nat := 0
  live   : List Nat := []
  since  : List Nat := []
  cur0   : Nat := 0
  deriving DecidableEq, Repr, Inhabited

/-- A request for an iteration that waits, or its grant that the block has yet to take (R117). -/
structure TagReq where
  f     : FireRef := {}
  slot  : Nat := 0
  lreg  : Nat := 0
  grant : Option Nat := none
  deriving DecidableEq, Repr, Inhabited

/-- Barrier states (R334). -/
inductive BarSt where
  | idle | armed | propagating | complete | failed
  deriving DecidableEq, Repr, Inhabited

/-- A barw that waits at a barrier, and what it yields once the barrier has completed (with a dependency set) or
failed (R334, R337). -/
structure BarWait where
  f    : FireRef := {}
  slot : Nat := 0
  res  : Option (Bool × List Nat) := none
  deriving DecidableEq, Repr, Inhabited

/-- A barrier of a region (R333): its state, the depth of the arming plane, the marker commands not yet started, the
set of R257, the bar whose token its markers meet, and the barws that wait. -/
structure Bar where
  st      : BarSt := .idle
  depth   : Nat := 0
  cmds    : List Nat := []
  deps    : List Nat := []
  opId    : Option Nat := none
  waits   : List BarWait := []
  deriving DecidableEq, Repr, Inhabited

/-- What a region's arbiter is doing (R266–R268, R285). -/
inductive Phase where
  | run
  | drainCall
  | taken (c : Call)
  | drainCkpt
  | tearing (vals : List Word) (x : Bool) (deps : List Nat) (next : Option Call)
  deriving DecidableEq, Repr, Inhabited

/-- A region of a context (R22, R261): its place, the task's planes, its call arbiter, and the place of M at which its task
was dispatched (R252, R319). -/
structure Region where
  ctx     : Nat := 0
  idx     : Nat := 0
  die     : Nat := 0
  origin  : Nat := 0
  width   : Nat := 0
  height  : Nat := 0
  kref    : Option KRef := none
  levels  : List Level := []
  calls   : List Call := []
  phase   : Phase := .run
  lists   : Tab FreeList := []
  tagReqs : List TagReq := []
  bars    : Tab Bar := []
  stopped : Bool := false
  replays : Nat := 0
  thawed  : Bool := false
  nonIdem : Bool := false
  mirror  : Option Nat := none
  isMirror : Bool := false
  activity : Nat := 0
  outOfService : Bool := false
  floor   : Nat := 0
  deriving DecidableEq, Repr, Inhabited

/-! ### Contexts and tasks (15, 18) -/

/-- Context states with their codes in ctx.ctl (R284, R290). -/
inductive CtxSt where
  | free | idle | running | checkpointing | saved | resuming | stopped
  deriving DecidableEq, Repr, Inhabited

/-- A task (R315, R338): launch (by identity), node, kind, priority, interval, IDEM, placement mode, the regions it runs
on, its engine for a copy or collective, its parameter address, whether a done has ended it, and when an H node last read
its word. -/
structure Task where
  id      : Nat := 0
  ctx     : Nat := 0
  launch  : Nat := 0
  node    : Nat := 0
  kind    : Nat := 0
  prio    : Nat := 0
  iv      : Nat := 0
  idem    : Bool := false
  det     : Bool := false
  regs    : List Nat := []
  engine  : Nat := 0
  param   : Word := 0
  ended   : Bool := false
  since   : Nat := 0
  deriving DecidableEq, Repr, Inhabited

/-- A pending fault entry of R376. -/
structure PendFault where
  va       : Nat := 0
  retrying : Bool := false
  site     : FaultRec := {}
  deriving DecidableEq, Repr, Inhabited

/-- What a save keeps of one region beyond the fields the save area's layout fixes (R286, R287). -/
structure SavedRegion where
  region : Region := {}
  units  : Tab UnitS := []
  disp   : Tab Cluster := []
  deriving DecidableEq, Repr, Inhabited

/-- A saved context (R286): its regions, its queued copy jobs with 16 × the region whose section holds them + engine, and
when it was saved. -/
structure Saved where
  regions : List SavedRegion := []
  jobs    : List (Nat × Job) := []
  at_     : Nat := 0
  deriving DecidableEq, Repr, Inhabited

/-- A context (R282, R284). `regs` holds the writable and stored registers of 0x000–0x0FF by number, `rel` the
marked slots of each ring (R247), `tl` the timeline counters; `rolls` says that a fault of the rollback tier has been
taken, so that nothing of it runs on before the rollback (R350, log 37). -/
structure Ctx where
  st      : CtxSt := .free
  part    : Nat := 0
  secure  : Bool := false
  regs    : Tab Word := []
  nreg    : Nat := 0
  tl      : Tab Nat := []
  rel     : Tab (List Nat) := []
  task    : Option Task := none
  saved   : Option Saved := none
  pends   : List PendFault := []
  faults  : Nat := 0
  launchNo : Nat := 0
  preempt : Bool := false
  resume  : Bool := false
  rolls   : Bool := false
  deriving DecidableEq, Repr, Inhabited

/-! ### Pools (09) -/

/-- What waits at a pool home (R177, R181, R191, R192). -/
inductive WaitKind where
  | prd | pswap | pexp | pset | pstat
  deriving DecidableEq, Repr, Inhabited

/-- Who asked: a firing's slot, a released effect, a remote device (R387), or nobody any more: the block of a pswap has
aborted (R191). -/
inductive Asker where
  | gone
  | fire (f : FireRef) (slot : Nat)
  | pend (k : Nat)
  | remote (dev unit flow ctx : Nat)
  deriving DecidableEq, Repr, Inhabited

/-- The outcome of a wait: the value with its X bit and dependency set, or a fault code with its index (R179). -/
inductive WaitRes where
  | value (v : List Word) (x : Bool) (deps : List Nat)
  | fault (code idx : Nat) (src : Contrib)
  deriving DecidableEq, Repr, Inhabited

/-- A read, settle or status request at a pool home (R177, R181, R187): `since` is when it reached the home, `start` when its
wait began. -/
structure Wait where
  id      : Nat := 0
  since   : Nat := 0
  kind    : WaitKind := .prd
  gen     : Nat := 0
  tol     : Bool := false
  cur     : Bool := false
  aside   : Bool := false
  start   : Option Nat := none
  asker   : Asker := .pend 0
  remote  : Bool := false
  flow    : Nat := 0
  res     : Option WaitRes := none
  deriving DecidableEq, Repr, Inhabited

/-- A node value received from another device (R386): first leaf, count, presence mask, value and flags, its bytes in the
pool's format (R388), and the interval and dependency set it came with. -/
structure RemoteNode where
  iv     : Nat := 0
  deps   : List Nat := []
  enc    : List Byte := []
  lo     : Nat := 0
  cnt    : Nat := 0
  gen    : Nat := 0
  mask   : List Bool := []
  value  : List Word := []
  x      : Bool := false
  bad    : List Nat := []
  recs   : List Contrib := []
  deriving DecidableEq, Repr, Inhabited

/-- A pool of a context (R167–R187): `off` is where its reservation begins in the backing area, in 64-byte units (R171),
`opened` the cycle at which its generation opened (R177). `map` is the rank map when the pool is global (R385). -/
structure Pool where
  decl    : PoolRec := {}
  off     : Nat := 0
  opened  : Nat := 0
  home    : Nat := 0
  byRec   : Bool := false
  task    : Nat := 0
  base    : List Word := []
  baseX   : Bool := false
  deps    : List Nat := []
  gen     : Nat := 0
  late    : Nat := 0
  parts   : List Partial := []
  waits   : List Wait := []
  resv    : Nat := 0
  glob    : Bool := false
  fmt     : Nat := 0
  gctx    : Nat := 0
  map     : List Nat := []
  remotes : List RemoteNode := []
  sent    : List RemoteNode := []
  deriving DecidableEq, Repr, Inhabited

/-! ### Queues and groups (17, 18) -/

/-- Queue states with their codes (R299, R307). -/
inductive QueueSt where
  | disabled | idle | active | draining | quiesced | error
  deriving DecidableEq, Repr, Inhabited

/-- A packet in flight (R302–R304): its index, its 64 bytes, whether its condition has been met, and whether its launch
waits for a page of its group (R309). -/
structure Pkt where
  waits  : Bool := false
  idx    : Nat := 0
  bytes  : List Byte := []
  met    : Bool := false
  launch : Option Nat := none
  target : Nat := 0
  dead   : Bool := false
  lastRead : Nat := 0
  deriving DecidableEq, Repr, Inhabited

/-- A queue's registers and its packets in flight (R299). -/
structure Queue where
  base   : Word := 0
  prio   : Nat := 0
  vec    : Nat := 0
  ctx    : Nat := 0
  st     : QueueSt := .disabled
  ecode  : Nat := 0
  head   : Nat := 0
  tail   : Nat := 0
  done   : Nat := 0
  pkts   : List Pkt := []
  deriving DecidableEq, Repr, Inhabited

/-- A function's registers (R402). -/
structure FnS where
  ctx  : Nat := 0
  list : Word := 0
  busy : Bool := false
  err  : Bool := false
  code : Nat := 0
  made : Nat := 0
  deriving DecidableEq, Repr, Inhabited

/-- A node record of a group (R309). -/
structure NodeRec where
  kind   : Nat := 0
  prio   : Nat := 0
  idem   : Bool := false
  pred   : Nat := 0
  kernel : Nat := 0
  params : Word := 0
  succ   : List Nat := []
  tiles  : List Word := []
  deriving DecidableEq, Repr, Inhabited

/-- A staged group with its two parameter tables (R312, R318); `born` is the interval of the task that staged it, 0 for a
packet. -/
structure Group where
  ctx    : Nat := 0
  born   : Nat := 0
  addr   : Nat := 0
  nnode  : Nat := 0
  tab0   : Tab Word := []
  tab1   : Tab Word := []
  newest : Nat := 0
  deriving DecidableEq, Repr, Inhabited

/-- A patch that waits for a table (R318). -/
structure Patch where
  id    : Nat := 0
  ctx   : Nat := 0
  group : Nat := 0
  node  : Nat := 0
  param : Word := 0
  queue : Option (Nat × Nat) := none
  opId  : Option Nat := none
  deriving DecidableEq, Repr, Inhabited

/-- Node states (R321). -/
inductive NodeSt where
  | waiting | ready | running | saved | complete
  deriving DecidableEq, Repr, Inhabited

/-- One node of a launch (R313, R321). -/
structure LNode where
  nrec  : NodeRec := {}
  left  : Nat := 0
  st    : NodeSt := .waiting
  noPlace : Bool := false
  deriving DecidableEq, Repr, Inhabited

/-- What a context's state was before any work of an interval changed it (R143, R187, R236, R311): its registers,
timeline counters, released ring slots, pools, groups and next launch number; `ran` says that an F task of the interval has
been dispatched. -/
structure Snap where
  iv    : Nat := 0
  ctx   : Nat := 0
  regs  : Tab Word := []
  tl    : Tab Nat := []
  rel   : Tab (List Nat) := []
  pools : Tab Pool := []
  groups : List Group := []
  launchNo : Nat := 0
  ran   : Bool := false
  deriving DecidableEq, Repr, Inhabited

/-- A launch (R312, R313, R318, R323); `born` is the interval of the task that launched it, 0 for a packet. -/
structure Launch where
  id     : Nat := 0
  num    : Nat := 0
  ctx    : Nat := 0
  group  : Nat := 0
  seed   : Word := 0
  split  : Word := 0
  det    : Bool := false
  queue  : Option Nat := none
  pkt    : Option Nat := none
  table  : Nat := 0
  pinned : Bool := true
  hostFed : Bool := false
  home   : Nat := 0
  nodes  : Tab LNode := []
  ivs    : List Nat := []
  born   : Nat := 0
  ended  : Bool := false
  deriving DecidableEq, Repr, Inhabited

/-- A ready-pool or memory-backed list entry (R313, R314). -/
structure Ready where
  launch : Nat := 0
  node   : Nat := 0
  kind   : Nat := 0
  prio   : Nat := 0
  since  : Nat := 0
  inPool : Bool := true
  deriving DecidableEq, Repr, Inhabited

/-- A dispatch-journal entry (R352); the interval is 0 from a rollback until the task is dispatched again (R350). -/
structure Journal where
  ctx    : Nat := 0
  launch : Nat := 0
  node   : Nat := 0
  regs   : List Nat := []
  engine : Nat := 0
  prio   : Nat := 0
  iv     : Nat := 0
  deriving DecidableEq, Repr, Inhabited

/-- A store that has performed in the last 4,096 cycles (R252, R254; log 86): its place in the order M, its cycle, its
address, and the bytes it replaced. -/
structure Past where
  pos : Nat := 0
  at_ : Nat := 0
  pa  : Nat := 0
  old : List Byte := []
  deriving DecidableEq, Repr, Inhabited

/-- A memory operation that has performed (R252; log 86): its identity, a place of M that what depends on it follows,
and the cycle. -/
structure DoneOp where
  id  : Nat := 0
  pos : Nat := 0
  at_ : Nat := 0
  deriving DecidableEq, Repr, Inhabited

/-- An undo-log entry (R340) and the 80-byte slot of the log that holds it (log 94). -/
structure Undo where
  slot   : Nat := 0
  line   : Nat := 0
  iv     : Nat := 0
  poison : Bool := false
  data   : List Byte := []
  deriving DecidableEq, Repr, Inhabited

/-- A held write of an egress buffer (R345, R360). -/
structure Egress where
  iv    : Nat := 0
  pa    : Nat := 0
  bytes : List Byte := []
  irrev : Bool := false
  own   : Owner := {}
  deps  : List Nat := []
  deriving DecidableEq, Repr, Inhabited

/-- Who asked a governor for leave (R404). -/
inductive LeaveFor where
  | kseq (u acc : Nat)
  | mmaOne (f : FireRef) (slot : Nat)
  | stream (die cl port : Nat)
  | copy (die cl eng id : Nat)
  | load (die cl task : Nat)
  | inst (f : FireRef) (slot : Nat)
  deriving DecidableEq, Repr, Inhabited

/-- A leave request or a grant in progress (R404): who, since when, the cycles it is for (0 for as long as its work
lasts), until when once granted, and whether its leave instruction has yielded. -/
structure Leave where
  who   : LeaveFor := .kseq 0 0
  since : Nat := 0
  len   : Nat := 0
  until_ : Option Nat := none
  taken : Bool := false
  deriving DecidableEq, Repr, Inhabited

/-- A compute die (R10): registers 0x200–0x2FF, undo log, egress buffer, engines, configuration cache, ready pools,
journal, leave. -/
structure Die where
  regs    : Tab Word := []
  undo    : List Undo := []
  asked   : List Nat := []
  egress  : List Egress := []
  engines : Tab (List Job) := []
  images  : List Image := []
  ready   : List Ready := []
  journal : List Journal := []
  leaves  : List Leave := []
  hotAt   : Option Nat := none
  deriving DecidableEq, Repr, Inhabited

/-! ### Memory-side objects (08, 22) -/

/-- A decoded view line held in the MSC (R151–R153): window, bytes, poisoned bytes. -/
structure ViewLine where
  die   : Nat := 0
  win   : Nat := 0
  data  : List Byte := []
  bad   : List Nat := []
  deriving DecidableEq, Repr, Inhabited

/-- An atomic's hold on its line (R162): who holds, since when, the line, and the new bytes. -/
structure Hold where
  id    : Nat := 0
  f     : FireRef := {}
  since : Nat := 0
  loc   : Loc := .mem 0
  place : Nat := 0
  cls   : Nat := 0
  writes : List (Nat × List Byte) := []
  deriving DecidableEq, Repr, Inhabited

/-- A buffered ordered atomic (R163). -/
structure OaWait where
  f     : FireRef := {}
  slot  : Nat := 0
  loc   : Loc := .mem 0
  place : Nat := 0
  seq   : Nat := 0
  deriving DecidableEq, Repr, Inhabited

/-- A TLB entry (R372): die, context, first virtual address and size of what it maps, leaf, leaf level. -/
structure Tlb where
  die  : Nat := 0
  ctx  : Nat := 0
  va   : Nat := 0
  size : Nat := 0
  leaf : Word := 0
  lvl  : Nat := 0
  deriving DecidableEq, Repr, Inhabited

/-- Who a walk is for, so that its fault finds them (R375). -/
inductive Walker where
  | fire (f : FireRef)
  | port (die cl p : Nat)
  | engine (die e : Nat)
  | link (n : Nat)
  | pend (k : Nat)
  | other
  deriving DecidableEq, Repr, Inhabited

/-- A table walk in progress (R367, R372): access kind 0 load, 1 write, 2 atomic, 3 image, pattern or backing. -/
structure Walk where
  id   : Nat := 0
  die  : Nat := 0
  ctx  : Nat := 0
  va   : Nat := 0
  kind : Nat := 0
  who  : Walker := .other
  slot : Nat := 0
  img  : Bool := false
  deriving DecidableEq, Repr, Inhabited

/-- An invalidation not yet complete (R374): the swr that waits for it and the accesses it waits for. -/
structure TlbInv where
  id   : Nat := 0
  ctx  : Nat := 0
  opId : Option Nat := none
  wait : List Nat := []
  deriving DecidableEq, Repr, Inhabited

/-- A staging in progress (R263): who it is for. -/
inductive StageFor where
  | kload (pend : Nat)
  | call (ctx reg : Nat)
  | task (task : Nat)
  | resume (ctx : Nat)
  deriving DecidableEq, Repr, Inhabited

/-- A staging in progress (R263): its place, image and asker. -/
structure Stage where
  id   : Nat := 0
  ctx  : Nat := 0
  reg  : Nat := 0
  die  : Nat := 0
  addr : Nat := 0
  who  : StageFor := .resume 0
  deriving DecidableEq, Repr, Inhabited

/-! ### Links (23) -/

/-- Link states with their codes in dev.lstN (R380, R381). -/
inductive LinkSt where
  | off | train | up | degraded | quiet | down
  deriving DecidableEq, Repr, Inhabited

/-- A link (R380, R381): `seen` is when its peer was last heard, `flits` and `window` count flits and retransmissions in
the present run of 2^20 flits; `host` says that its last training came under LINK_HOST = 1 (R18, log 113). -/
structure Link where
  host     : Bool := false
  st       : LinkSt := .off
  peer     : Nat := 0
  peerLink : Nat := 0
  lanes    : Nat := 0
  retries  : Nat := 0
  rtt      : Nat := 0
  seen     : Nat := 0
  flits    : Nat := 0
  window   : Nat := 0
  deriving DecidableEq, Repr, Inhabited

/-- A packet sent and not acknowledged: who sent it for which context (none once that is gone), and the links its route
allows (R382, R393). -/
structure Sent where
  pkt   : Packet := {}
  who   : Agent := .none
  src   : Option Nat := none
  links : Nat := 0
  deriving DecidableEq, Repr, Inhabited

/-- A flow (R379): one sending tarn, port or engine, named by its UNIT field, to one device and context. `unacked` are
packets sent and not acknowledged. -/
structure Flow where
  id      : Nat := 0
  unit    : Nat := 0
  dev     : Nat := 0
  mc      : Bool := false
  ctx     : Nat := 0
  next    : Nat := 0
  unacked : List Sent := []
  off     : Bool := false
  stuck   : Option Nat := none
  told    : Bool := false
  deriving DecidableEq, Repr, Inhabited

/-- What a receiver remembers of a flow (R379): the sender, the next FLOW number it acts on, the packets of a message
that is not whole yet, and whether it has turned the flow off. -/
structure FlowIn where
  dev  : Nat := 0
  unit : Nat := 0
  ctx  : Nat := 0
  mc   : Bool := false
  next : Nat := 0
  part : List Packet := []
  off  : Bool := false
  deriving DecidableEq, Repr, Inhabited

/-- A job of a link engine (R390), and the place of M and the cycle of its dispatch (R252, R319). -/
structure LinkJob where
  id    : Nat := 0
  ctx   : Nat := 0
  task  : Nat := 0
  iv    : Nat := 0
  route : Nat := 0
  src   : Nat := 0
  dst   : Nat := 0
  bytes : Nat := 0
  pos   : Nat := 0
  floor : Nat := 0
  since : Nat := 0
  deriving DecidableEq, Repr, Inhabited

/-- A packet held at the receiving shore, or in a link's receive buffer (R379, R383). -/
structure ShoreTok where
  link : Nat := 0
  pkt  : Packet := {}
  deriving DecidableEq, Repr, Inhabited

/-- A multicast collection of ACKs at this device (R384): the packet, the link its own ACK goes to (31 at the root), the
links not yet heard from (31 for this device's own delivery), and the first status that was not 0. -/
structure McAck where
  src  : Nat := 0
  unit : Nat := 0
  ctx  : Nat := 0
  flow : Nat := 0
  group : Nat := 0
  from_ : Nat := 0
  want : List Nat := []
  status : Nat := 0
  deriving DecidableEq, Repr, Inhabited

/-- Seal and rollback coordination (R346–R351): whether a close has been asked, DONEs received by interval and device,
intervals whose own conditions have held and whose DONE has gone up, when each closed, rollbacks in succession and their
target, intervals told of by SEAL_TIMEOUT, and whether a rollback is under way. -/
structure SealS where
  asked     : Bool := false
  dones     : List (Nat × Nat) := []
  doneSent  : List Nat := []
  closedAt  : Tab Nat := []
  tries     : Nat := 0
  lastTarget : Option Nat := none
  told      : List Nat := []
  rolling   : Bool := false
  deriving DecidableEq, Repr, Inhabited

/-- Firmware (R356, R408, R409, R412): the cycle at which the watchdog expires, the last handover structure, whether a
live update waits for its queues to be quiet, or for the first heartbeat of the image it started, the queues it has
quiesced, which slot's image runs (true for B), the cores that a fault has stopped, the clusters to be retired, and the partition that
a resize in progress is of. -/
structure FwS where
  wdog     : Option Nat := none
  handover : Option (List Byte) := none
  switching : Bool := false
  updating : Bool := false
  quiet    : List Nat := []
  slotB    : Bool := false
  queued   : List Nat := []
  halted   : List Nat := []
  retire   : List Nat := []
  resizing : Nat := 0
  deriving DecidableEq, Repr, Inhabited

/-- An interrupt message to the host (R304, R315, R397): function and vector; or one to a system core (R412). -/
inductive Intr where
  | host (fn vec : Nat)
  | core (k source : Nat)
  deriving DecidableEq, Repr, Inhabited

/-- What a host read of registers names (R298, R401-R403): a register through a window, one of a function's own at the
start of its BAR0, or an offset in its BAR2. -/
inductive HostTarget where
  | reg (w : RegWrite)
  | own (fn off : Nat)
  | queue (fn off : Nat)
  deriving DecidableEq, Repr

/-- A host read that the device has answered (R259): what it named (none for device memory), its address, the bytes
returned, and whether one was poisoned. -/
structure HostRead where
  fn   : Nat := 0
  what : Option HostTarget := none
  addr : Nat := 0
  data : List Byte := []
  bad  : Bool := false
  deriving DecidableEq, Repr

/-- A cluster-table entry that differs from the reset mapping, and the faults counted on the cluster (R11, R353,
R356). -/
structure ClTab where
  spare   : Bool := false
  out     : Bool := false
  faults  : List Nat := []
  deriving DecidableEq, Repr, Inhabited

/-- An SPDM response given (R407). -/
structure Spdm where
  pf   : Nat := 0
  code : Nat := 0
  body : List Byte := []
  deriving DecidableEq, Repr, Inhabited

end Sys2Proof.Machine

namespace Sys2Proof.Config

/-- The kernel sc k of the SOF image that flash holds in a slot (R412), its records read out: flash is outside the address
space, so what it holds is free (log 77). -/
opaque coreImage (b : Bool) (k : Nat) : Machine.Image

end Sys2Proof.Config
end

