-- ==== Sys2Proof/Machine/State.lean ====
section
/-! DEFINITION. The state of one Y8-M (R2) with everything the spec gives it, and the state right after reset. -/

namespace Sys2Proof.Machine

/-- Why the machine stops with a fault. -/
inductive Fault where
  /-- The word at the fetched slot is no instruction the verifier passes. Raised by `step` at a fetch. R68 says that
  no such word is ever run, so the stop is safe: the hardware never gets here. -/
  | badWord (w : Word)
  /-- The fetch names a unit, operator, firing or slot that holds no instruction. Raised by `step` at a fetch. Safe:
  nothing of the hardware selects such a slot. -/
  | noWord
  deriving DecidableEq, Repr

/-- Why the model gives an instruction no meaning. -/
inductive Refusal where
  /-- The instruction has no meaning in the model yet. Raised by a refused arm of `exec`. Safe: nothing follows
  from a run that stops. -/
  | notModelled (mnemonic : String)
  /-- A system core's access reaches the system register and doorbell space (R14) at an address whose contents the
  spec does not give. Raised by the loads, stores and atomics of a system core. Safe: nothing follows. -/
  | registerSpace (pa : Nat)
  deriving DecidableEq, Repr

/-- What happens next (log 1): a fetch and run of one slot of a running block, a step of the device, cycles of the device
clock that pass, a write of the host to its own memory, or a read of the host of a register or queue block (R259). -/
inductive Move where
  | fetch (f : FireRef) (slot : Nat)
  | event (i : Instr)
  | tick (n : Nat)
  | hostStore (addr : Nat) (bytes : List Byte)
  | hostRead (t : HostTarget)
  deriving DecidableEq, Repr

/-- The state of the device. The first five fields are the model's own (logs 1 to 3), and so is `hostReads`, what the host's
reads returned (log 1); `mpos`, `hist` and `done` hold the order of R252 and R254 (log 86); every other field is named in
INVENTORY.md with the rule that gives it. -/
structure State where
  agenda   : List Move := []
  focus    : FireRef := {}
  focusSlot : Nat := 0
  fresh    : Nat := 0
  nextId   : Nat := 0
  outstanding : List Nat := []
  mpos     : Nat := 0
  hist     : List Past := []
  done     : List DoneOp := []
  dev      : Tab Word := []
  dies     : Tab Die := []
  coreSel  : Tab Nat := []
  ctxs     : Tab Ctx := []
  regions  : Tab Region := []
  units    : Tab UnitS := []
  clusters : Tab Cluster := []
  pools    : Tab Pool := []
  poolLeft : List (Nat × PoolRec × Wait) := []
  queues   : Tab Queue := []
  served   : Tab Nat := []
  fns      : Tab FnS := []
  groups   : List Group := []
  launches : List Launch := []
  patches  : List Patch := []
  snaps    : List Snap := []
  tasks    : List Task := []
  mem      : Mem := []
  hostMem  : Mem := []
  poison   : List Nat := []
  dirty    : List Nat := []
  views    : Tab ViewLine := []
  holds    : List Hold := []
  oaWaits  : List OaWait := []
  pend     : List Pend := []
  flight   : List Flight := []
  tlbs     : List Tlb := []
  walks    : List Walk := []
  invs     : List TlbInv := []
  stages   : List Stage := []
  links    : Tab Link := []
  flows    : List Flow := []
  flowsIn  : List FlowIn := []
  sentPkts : List (Nat × Packet) := []
  shore    : List ShoreTok := []
  rx       : List ShoreTok := []
  mcAcks   : List McAck := []
  linkJobs : Tab (List LinkJob) := []
  sealing  : SealS := {}
  fw       : FwS := {}
  clTab    : Tab ClTab := []
  parts    : Tab (List Byte) := []
  intrs    : List Intr := []
  hostReads : List HostRead := []
  spdm     : List Spdm := []
  sealMsgs : List Packet := []
  deriving DecidableEq, Repr

/-- The device registers whose reset value is not 0 (R339, R380, R406): dev.iv 1, dev.sealctl TIMEOUT 0x1_0000,
dev.fwst with both slots OK (log 5), and dev.lctlN with MINW 2 and QERR 0x0100. -/
def devReset : Tab Word :=
  [(0x300, 1), (0x302, 0x10000), (0x308, 6),
   (0x320, 0x200100), (0x321, 0x200100), (0x322, 0x200100), (0x323, 0x200100), (0x324, 0x200100), (0x325, 0x200100),
   (0x326, 0x200100), (0x327, 0x200100), (0x328, 0x200100), (0x329, 0x200100), (0x32A, 0x200100), (0x32B, 0x200100),
   (0x32C, 0x200100), (0x32D, 0x200100), (0x32E, 0x200100), (0x32F, 0x200100), (0x330, 0x200100), (0x331, 0x200100)]

/-- A die at reset (R342, R404): TALLOW 255, WATTS 290, the undo log at the top 4 GiB of the die's DRAM with SIZE
65,536. -/
def dieReset (undoBase : Word) : Die :=
  { regs := [(0x281, 255), (0x282, 290), (0x288, undoBase), (0x289, 65536)] }

/-- The device right after reset (R9): every register at the value its rule states, every other object empty. A
register that no table lists reads 0, its reset value (R9, log 4); a byte that no memory lists reads 0 (log 6). The
structures' own defaults hold the reset values of tarn.split and tarn.width (R146, R106) and of tcfgN (R193). -/
def State.reset : State :=
  { dev := devReset
    dies := [(0, dieReset 0xF00000000), (1, dieReset 0x1F00000000), (2, dieReset 0x2F00000000),
             (3, dieReset 0x3F00000000), (4, dieReset 0x4F00000000), (5, dieReset 0x5F00000000),
             (6, dieReset 0x6F00000000), (7, dieReset 0x7F00000000)] }

end Sys2Proof.Machine
end

