-- ==== Sys2Proof/WellFormed.lean ====
section
/-! DEFINITION. Well-formed instructions: the words that pass the fields step and the type step of the verifier (R67),
and every step of the device. -/

namespace Sys2Proof

/-- An instruction is well formed when no condition that its word alone must meet fails (R67). -/
def wellFormed (i : Instr) : Bool := (Machine.Instr.check i).isNone

end Sys2Proof
end

