-- ==== Sys2Proof/Decode.lean ====
section
/-! DEFINITION. From bits to instructions and back (R53-R65). `decode` reads one 64-bit word and refuses by the code the
verifier gives (R67): CFG_OPCODE 1, CFG_FIELD 2, CFG_TYPE 5. `encode` writes the word of an instruction from the same
layouts. The 121 steps of the opcode table that are no words have no encoding. -/

namespace Sys2Proof

/-- What the decoder answers: the instruction, or the code it is refused by (R67). -/
inductive Decoded where
  | instr (i : Instr)
  | refused (code : Nat)
  deriving DecidableEq, Repr

/-- The guard of the G field (R53). -/
def guardOfBits (b : BitVec 2) : Guard :=
  match b.toNat with
  | 0 => .always
  | 1 => .ifTrue
  | 2 => .ifFalse
  | _ => .order

/-- The G field of a guard (R53). -/
def guardBits : Guard → BitVec 2
  | .always => 0
  | .ifTrue => 1
  | .ifFalse => 2
  | .order => 3

/-- The position of a target's POS field (R54). -/
def posOfBits (b : BitVec 2) : Pos :=
  match b.toNat with
  | 0 => .l
  | 1 => .r
  | 2 => .x
  | _ => .g

/-- The POS field of a position (R54). -/
def posBits : Pos → BitVec 2
  | .l => 0
  | .r => 1
  | .x => 2
  | .g => 3

/-- A target field (R54): in use, or all zero; anything else is refused. -/
def targetOfBits (b : BitVec 10) : Option (Option Target) :=
  if b.getLsbD 9 then some (some ⟨posOfBits (b.extractLsb' 7 2), b.extractLsb' 0 7⟩)
  else if b = 0 then some none
  else none

/-- The bits of a target field (R54). -/
def targetBits : Option Target → BitVec 10
  | none => 0
  | some t => (1#1 ++ posBits t.pos) ++ t.slot

/-- Form A of bits [27:0] (R58). -/
def formAOf (b : BitVec 28) : FormA := ⟨b.getLsbD 27, b.extractLsb' 23 4, b.extractLsb' 0 23⟩
/-- Bits [27:0] of form A (R58). -/
def formABits (f : FormA) : BitVec 28 := (BitVec.ofBool f.i ++ f.mode) ++ f.imm
/-- Form M of bits [27:0] (R58). -/
def formMOf (b : BitVec 28) : FormM :=
  ⟨b.extractLsb' 25 3, b.extractLsb' 22 3, b.extractLsb' 18 4, b.extractLsb' 0 18⟩
/-- Bits [27:0] of form M (R58). -/
def formMBits (f : FormM) : BitVec 28 := ((f.as ++ f.scope) ++ f.sub) ++ f.off
/-- Form C of bits [27:0] (R58). -/
def formCOf (b : BitVec 28) : FormC := ⟨b.extractLsb' 24 4, b.extractLsb' 20 4, b.extractLsb' 0 20⟩
/-- Bits [27:0] of form C (R58). -/
def formCBits (f : FormC) : BitVec 28 := (f.ch ++ f.tagop) ++ f.imm
/-- Form T of bits [27:0] (R58). -/
def formTOf (b : BitVec 28) : FormT :=
  ⟨b.extractLsb' 24 4, b.extractLsb' 20 4, b.extractLsb' 17 3, b.getLsbD 16, b.getLsbD 15, b.getLsbD 14,
   b.extractLsb' 0 14⟩
/-- Bits [27:0] of form T (R58). -/
def formTBits (f : FormT) : BitVec 28 :=
  (((((f.a ++ f.b) ++ f.acc) ++ BitVec.ofBool f.za) ++ BitVec.ofBool f.asc) ++ BitVec.ofBool f.sp) ++ f.per
/-- Form S of bits [27:0] (R58). -/
def formSOf (b : BitVec 28) : FormS := ⟨b.extractLsb' 16 12, b.extractLsb' 0 16⟩
/-- Bits [27:0] of form S (R58). -/
def formSBits (f : FormS) : BitVec 28 := f.id ++ f.imm

/-- The opcode map (R65): the instruction of an opcode with its header and the low 28 bits; none for OP 0x00 and every
unassigned cell. -/
def ofOpcode (op : Nat) (h : Hdr) (lo : BitVec 28) : Option Instr :=
  match op with
  | 0x01 => some (.mov h (formAOf lo))
  | 0x02 => some (.movi h (formAOf lo))
  | 0x03 => some (.movk h (formAOf lo))
  | 0x04 => some (.inTok h (formCOf lo))
  | 0x05 => some (.outTok h (formCOf lo))
  | 0x06 => some (.rd h (formSOf lo))
  | 0x07 => some (.wr h (formSOf lo))
  | 0x08 => some (.sel h (formAOf lo))
  | 0x09 => some (.br h (formAOf lo))
  | 0x0A => some (.brc h (formAOf lo))
  | 0x0B => some (.null h (formAOf lo))
  | 0x0C => some (.tagnew h (formCOf lo))
  | 0x0D => some (.tagfree h (formCOf lo))
  | 0x0E => some (.tagset h (formCOf lo))
  | 0x0F => some (.gettag h (formCOf lo))
  | 0x10 => some (.count h (formAOf lo))
  | 0x11 => some (.rix h (formAOf lo))
  | 0x20 => some (.add h (formAOf lo))
  | 0x21 => some (.sub h (formAOf lo))
  | 0x22 => some (.mul h (formAOf lo))
  | 0x23 => some (.mulh h (formAOf lo))
  | 0x24 => some (.div h (formAOf lo))
  | 0x25 => some (.rem h (formAOf lo))
  | 0x26 => some (.min h (formAOf lo))
  | 0x27 => some (.max h (formAOf lo))
  | 0x28 => some (.abs h (formAOf lo))
  | 0x29 => some (.neg h (formAOf lo))
  | 0x2A => some (.adds h (formAOf lo))
  | 0x2B => some (.subs h (formAOf lo))
  | 0x2C => some (.and h (formAOf lo))
  | 0x2D => some (.or h (formAOf lo))
  | 0x2E => some (.xor h (formAOf lo))
  | 0x2F => some (.andn h (formAOf lo))
  | 0x30 => some (.shl h (formAOf lo))
  | 0x31 => some (.shr h (formAOf lo))
  | 0x32 => some (.rot h (formAOf lo))
  | 0x33 => some (.clz h (formAOf lo))
  | 0x34 => some (.popc h (formAOf lo))
  | 0x35 => some (.bfx h (formAOf lo))
  | 0x36 => some (.bfi h (formAOf lo))
  | 0x37 => some (.cmp h (formAOf lo))
  | 0x38 => some (.cvti h (formAOf lo))
  | 0x39 => some (.mad h (formAOf lo))
  | 0x40 => some (.fadd h (formAOf lo))
  | 0x41 => some (.fsub h (formAOf lo))
  | 0x42 => some (.fmul h (formAOf lo))
  | 0x43 => some (.fma h (formAOf lo))
  | 0x44 => some (.fmin h (formAOf lo))
  | 0x45 => some (.fmax h (formAOf lo))
  | 0x46 => some (.fabs h (formAOf lo))
  | 0x47 => some (.fneg h (formAOf lo))
  | 0x48 => some (.fcmp h (formAOf lo))
  | 0x49 => some (.fclass h (formAOf lo))
  | 0x4A => some (.fdiv h (formAOf lo))
  | 0x4B => some (.sqrt h (formAOf lo))
  | 0x4C => some (.rcp h (formAOf lo))
  | 0x4D => some (.rsq h (formAOf lo))
  | 0x4E => some (.ex2 h (formAOf lo))
  | 0x4F => some (.lg2 h (formAOf lo))
  | 0x50 => some (.cvtf h (formAOf lo))
  | 0x51 => some (.cvtfi h (formAOf lo))
  | 0x52 => some (.cvtif h (formAOf lo))
  | 0x53 => some (.fscale h (formAOf lo))
  | 0x60 => some (.ld h (formMOf lo))
  | 0x61 => some (.st h (formMOf lo))
  | 0x62 => some (.ldl h (formMOf lo))
  | 0x63 => some (.amo h (formMOf lo))
  | 0x64 => some (.cas h (formMOf lo))
  | 0x65 => some (.oamo h (formMOf lo))
  | 0x66 => some (.pref h (formMOf lo))
  | 0x67 => some (.cwb h (formMOf lo))
  | 0x68 => some (.cinv h (formMOf lo))
  | 0x69 => some (.ojoin h (formMOf lo))
  | 0x6A => some (.falloc h (formMOf lo))
  | 0x6B => some (.ffree h (formMOf lo))
  | 0x80 => some (.tcfg h (formTOf lo))
  | 0x81 => some (.tld h (formTOf lo))
  | 0x82 => some (.tst h (formTOf lo))
  | 0x83 => some (.tzero h (formTOf lo))
  | 0x84 => some (.mma h (formTOf lo))
  | 0x85 => some (.mmasp h (formTOf lo))
  | 0x86 => some (.tbind h (formTOf lo))
  | 0x87 => some (.tfree h (formTOf lo))
  | 0x88 => some (.tread h (formTOf lo))
  | 0x89 => some (.twrite h (formTOf lo))
  | 0x8A => some (.tscal h (formTOf lo))
  | 0x8B => some (.tcvt h (formTOf lo))
  | 0x8C => some (.tamax h (formTOf lo))
  | 0x8D => some (.ttrans h (formTOf lo))
  | 0x8E => some (.acon h (formTOf lo))
  | 0x90 => some (.pdecl h (formSOf lo))
  | 0x91 => some (.pcon h (formSOf lo))
  | 0x92 => some (.prd h (formSOf lo))
  | 0x93 => some (.pset h (formSOf lo))
  | 0x94 => some (.pswap h (formSOf lo))
  | 0x95 => some (.pexp h (formSOf lo))
  | 0x96 => some (.pstat h (formSOf lo))
  | 0x97 => some (.pdrop h (formSOf lo))
  | 0xA0 => some (.strm h (formSOf lo))
  | 0xA1 => some (.strmi h (formSOf lo))
  | 0xA2 => some (.sstop h (formSOf lo))
  | 0xA3 => some (.cpy h (formSOf lo))
  | 0xA4 => some (.tlw h (formSOf lo))
  | 0xA5 => some (.tlrd h (formSOf lo))
  | 0xA6 => some (.ringaw h (formSOf lo))
  | 0xA7 => some (.ringrel h (formSOf lo))
  | 0xA8 => some (.pbinv h (formSOf lo))
  | 0xA9 => some (.sbar h (formSOf lo))
  | 0xB0 => some (.call h (formSOf lo))
  | 0xB1 => some (.ret h (formSOf lo))
  | 0xB2 => some (.tcall h (formSOf lo))
  | 0xB3 => some (.kload h (formSOf lo))
  | 0xB4 => some (.kdrop h (formSOf lo))
  | 0xB5 => some (.launch h (formSOf lo))
  | 0xB6 => some (.gpatch h (formSOf lo))
  | 0xB7 => some (.doneI h (formSOf lo))
  | 0xB8 => some (.bar h (formSOf lo))
  | 0xB9 => some (.barw h (formSOf lo))
  | 0xBA => some (.sealI h (formSOf lo))
  | 0xBB => some (.sealw h (formSOf lo))
  | 0xBC => some (.irrev h (formSOf lo))
  | 0xBD => some (.ivrd h (formSOf lo))
  | 0xC0 => some (.srd h (formSOf lo))
  | 0xC1 => some (.swr h (formSOf lo))
  | 0xC2 => some (.trap h (formSOf lo))
  | 0xC3 => some (.leave h (formSOf lo))
  | 0xC4 => some (.yield h (formSOf lo))
  | 0xC5 => some (.halt h (formSOf lo))
  | 0xC6 => some (.crypt h (formSOf lo))
  | 0xC7 => some (.meas h (formSOf lo))
  | 0xC8 => some (.wdog h (formSOf lo))
  | _ => none

/-- The opcode, header and low 28 bits of a word's instruction (R53, R65); a step of the device is no word and has
none. -/
def wordParts : Instr → Option (Nat × Hdr × BitVec 28)
  | .mov h f => some (0x01, h, formABits f)
  | .movi h f => some (0x02, h, formABits f)
  | .movk h f => some (0x03, h, formABits f)
  | .inTok h f => some (0x04, h, formCBits f)
  | .outTok h f => some (0x05, h, formCBits f)
  | .rd h f => some (0x06, h, formSBits f)
  | .wr h f => some (0x07, h, formSBits f)
  | .sel h f => some (0x08, h, formABits f)
  | .br h f => some (0x09, h, formABits f)
  | .brc h f => some (0x0A, h, formABits f)
  | .null h f => some (0x0B, h, formABits f)
  | .tagnew h f => some (0x0C, h, formCBits f)
  | .tagfree h f => some (0x0D, h, formCBits f)
  | .tagset h f => some (0x0E, h, formCBits f)
  | .gettag h f => some (0x0F, h, formCBits f)
  | .count h f => some (0x10, h, formABits f)
  | .rix h f => some (0x11, h, formABits f)
  | .add h f => some (0x20, h, formABits f)
  | .sub h f => some (0x21, h, formABits f)
  | .mul h f => some (0x22, h, formABits f)
  | .mulh h f => some (0x23, h, formABits f)
  | .div h f => some (0x24, h, formABits f)
  | .rem h f => some (0x25, h, formABits f)
  | .min h f => some (0x26, h, formABits f)
  | .max h f => some (0x27, h, formABits f)
  | .abs h f => some (0x28, h, formABits f)
  | .neg h f => some (0x29, h, formABits f)
  | .adds h f => some (0x2A, h, formABits f)
  | .subs h f => some (0x2B, h, formABits f)
  | .and h f => some (0x2C, h, formABits f)
  | .or h f => some (0x2D, h, formABits f)
  | .xor h f => some (0x2E, h, formABits f)
  | .andn h f => some (0x2F, h, formABits f)
  | .shl h f => some (0x30, h, formABits f)
  | .shr h f => some (0x31, h, formABits f)
  | .rot h f => some (0x32, h, formABits f)
  | .clz h f => some (0x33, h, formABits f)
  | .popc h f => some (0x34, h, formABits f)
  | .bfx h f => some (0x35, h, formABits f)
  | .bfi h f => some (0x36, h, formABits f)
  | .cmp h f => some (0x37, h, formABits f)
  | .cvti h f => some (0x38, h, formABits f)
  | .mad h f => some (0x39, h, formABits f)
  | .fadd h f => some (0x40, h, formABits f)
  | .fsub h f => some (0x41, h, formABits f)
  | .fmul h f => some (0x42, h, formABits f)
  | .fma h f => some (0x43, h, formABits f)
  | .fmin h f => some (0x44, h, formABits f)
  | .fmax h f => some (0x45, h, formABits f)
  | .fabs h f => some (0x46, h, formABits f)
  | .fneg h f => some (0x47, h, formABits f)
  | .fcmp h f => some (0x48, h, formABits f)
  | .fclass h f => some (0x49, h, formABits f)
  | .fdiv h f => some (0x4A, h, formABits f)
  | .sqrt h f => some (0x4B, h, formABits f)
  | .rcp h f => some (0x4C, h, formABits f)
  | .rsq h f => some (0x4D, h, formABits f)
  | .ex2 h f => some (0x4E, h, formABits f)
  | .lg2 h f => some (0x4F, h, formABits f)
  | .cvtf h f => some (0x50, h, formABits f)
  | .cvtfi h f => some (0x51, h, formABits f)
  | .cvtif h f => some (0x52, h, formABits f)
  | .fscale h f => some (0x53, h, formABits f)
  | .ld h f => some (0x60, h, formMBits f)
  | .st h f => some (0x61, h, formMBits f)
  | .ldl h f => some (0x62, h, formMBits f)
  | .amo h f => some (0x63, h, formMBits f)
  | .cas h f => some (0x64, h, formMBits f)
  | .oamo h f => some (0x65, h, formMBits f)
  | .pref h f => some (0x66, h, formMBits f)
  | .cwb h f => some (0x67, h, formMBits f)
  | .cinv h f => some (0x68, h, formMBits f)
  | .ojoin h f => some (0x69, h, formMBits f)
  | .falloc h f => some (0x6A, h, formMBits f)
  | .ffree h f => some (0x6B, h, formMBits f)
  | .tcfg h f => some (0x80, h, formTBits f)
  | .tld h f => some (0x81, h, formTBits f)
  | .tst h f => some (0x82, h, formTBits f)
  | .tzero h f => some (0x83, h, formTBits f)
  | .mma h f => some (0x84, h, formTBits f)
  | .mmasp h f => some (0x85, h, formTBits f)
  | .tbind h f => some (0x86, h, formTBits f)
  | .tfree h f => some (0x87, h, formTBits f)
  | .tread h f => some (0x88, h, formTBits f)
  | .twrite h f => some (0x89, h, formTBits f)
  | .tscal h f => some (0x8A, h, formTBits f)
  | .tcvt h f => some (0x8B, h, formTBits f)
  | .tamax h f => some (0x8C, h, formTBits f)
  | .ttrans h f => some (0x8D, h, formTBits f)
  | .acon h f => some (0x8E, h, formTBits f)
  | .pdecl h f => some (0x90, h, formSBits f)
  | .pcon h f => some (0x91, h, formSBits f)
  | .prd h f => some (0x92, h, formSBits f)
  | .pset h f => some (0x93, h, formSBits f)
  | .pswap h f => some (0x94, h, formSBits f)
  | .pexp h f => some (0x95, h, formSBits f)
  | .pstat h f => some (0x96, h, formSBits f)
  | .pdrop h f => some (0x97, h, formSBits f)
  | .strm h f => some (0xA0, h, formSBits f)
  | .strmi h f => some (0xA1, h, formSBits f)
  | .sstop h f => some (0xA2, h, formSBits f)
  | .cpy h f => some (0xA3, h, formSBits f)
  | .tlw h f => some (0xA4, h, formSBits f)
  | .tlrd h f => some (0xA5, h, formSBits f)
  | .ringaw h f => some (0xA6, h, formSBits f)
  | .ringrel h f => some (0xA7, h, formSBits f)
  | .pbinv h f => some (0xA8, h, formSBits f)
  | .sbar h f => some (0xA9, h, formSBits f)
  | .call h f => some (0xB0, h, formSBits f)
  | .ret h f => some (0xB1, h, formSBits f)
  | .tcall h f => some (0xB2, h, formSBits f)
  | .kload h f => some (0xB3, h, formSBits f)
  | .kdrop h f => some (0xB4, h, formSBits f)
  | .launch h f => some (0xB5, h, formSBits f)
  | .gpatch h f => some (0xB6, h, formSBits f)
  | .doneI h f => some (0xB7, h, formSBits f)
  | .bar h f => some (0xB8, h, formSBits f)
  | .barw h f => some (0xB9, h, formSBits f)
  | .sealI h f => some (0xBA, h, formSBits f)
  | .sealw h f => some (0xBB, h, formSBits f)
  | .irrev h f => some (0xBC, h, formSBits f)
  | .ivrd h f => some (0xBD, h, formSBits f)
  | .srd h f => some (0xC0, h, formSBits f)
  | .swr h f => some (0xC1, h, formSBits f)
  | .trap h f => some (0xC2, h, formSBits f)
  | .leave h f => some (0xC3, h, formSBits f)
  | .yield h f => some (0xC4, h, formSBits f)
  | .halt h f => some (0xC5, h, formSBits f)
  | .crypt h f => some (0xC6, h, formSBits f)
  | .meas h f => some (0xC7, h, formSBits f)
  | .wdog h f => some (0xC8, h, formSBits f)
  | _ => none

/-- The header of bits [55:28] (R53); none when a target field with V = 0 is not all zero (R54). -/
def hdrOf (b : BitVec 28) : Option Hdr :=
  match targetOfBits (b.extractLsb' 10 10), targetOfBits (b.extractLsb' 0 10) with
  | some t0, some t1 =>
    some ⟨Ty.ofCode (b.extractLsb' 24 4).toNat, guardOfBits (b.extractLsb' 22 2), b.extractLsb' 20 2, t0, t1⟩
  | _, _ => none

/-- Bits [55:28] of a header (R53). -/
def hdrBits (h : Hdr) : BitVec 28 :=
  (((BitVec.ofNat 4 h.ty.code ++ guardBits h.g) ++ h.ar) ++ targetBits h.t0) ++ targetBits h.t1

/-- The instruction of a word (R53, R65), or the code of the first step of R67 that refuses it. -/
def decode (w : Word) : Decoded :=
  let op := (w.extractLsb' 56 8).toNat
  if (ofOpcode op {} 0).isNone then .refused 1
  else
    match hdrOf (w.extractLsb' 28 28) with
    | none => .refused 2
    | some h =>
      match ofOpcode op h (w.extractLsb' 0 28) with
      | none => .refused 1
      | some i =>
        match Machine.Instr.check i with
        | some c => .refused c
        | none => .instr i

/-- The word of an instruction (R53); none for a step of the device. -/
def encode (i : Instr) : Option Word :=
  match wordParts i with
  | none => none
  | some (op, h, lo) => some ((BitVec.ofNat 8 op ++ hdrBits h) ++ lo)

/-- The word stored little-endian in eight bytes (R49), byte k of it being bits [8k+7:8k]. -/
def bytesOfWord (w : Word) : List Byte :=
  [w.extractLsb' 0 8, w.extractLsb' 8 8, w.extractLsb' 16 8, w.extractLsb' 24 8,
   w.extractLsb' 32 8, w.extractLsb' 40 8, w.extractLsb' 48 8, w.extractLsb' 56 8]

/-- The number that bytes stand for, the first least significant. -/
def natOfBytes : List Byte → Nat
  | [] => 0
  | b :: bs => b.toNat + 256 * natOfBytes bs

/-- The word of its bytes, least significant first (R49). -/
def wordOfBytes (bs : List Byte) : Word := BitVec.ofNat 64 (natOfBytes bs)

/-- The instruction the decoder reads from stored bytes (R49): the first eight of them. -/
def decodeBytes (bs : List Byte) : Decoded :=
  if bs.length < 8 then .refused 1 else decode (wordOfBytes (bs.take 8))

/-- The instruction whose bits are w, bit 0 the least significant of the 64-bit word, every bit at or above nbits 0. -/
def decodeTableWord (nbits w : Nat) : Option Instr :=
  match decodeBytes (bytesOfWord (BitVec.ofNat 64 (w % 2 ^ nbits))) with
  | .instr i => some i
  | .refused _ => none

end Sys2Proof
end

