-- ==== Sys2Proof/Machine/Tab.lean ====
section
/-! DEFINITION. Sparse tables and byte memories: lookups and updates that keep their keys rising, and the bytes of
words. A byte memory lists no address that holds 0, which is what an unlisted address reads as (log 6). -/

namespace Sys2Proof.Machine

/-- The value at a key. -/
def tabGet? {α : Type} (t : Tab α) (k : Nat) : Option α :=
  match t with
  | [] => none
  | (j, v) :: r => if j = k then some v else tabGet? r k

/-- The value at a key, or the default that an unlisted key stands for. -/
def tabGet {α : Type} [Inhabited α] (t : Tab α) (k : Nat) : α := (tabGet? t k).getD default

/-- Set the value at a key, keys rising. -/
def tabSet {α : Type} (t : Tab α) (k : Nat) (v : α) : Tab α :=
  match t with
  | [] => [(k, v)]
  | (j, w) :: r => if k < j then (k, v) :: (j, w) :: r else if k = j then (k, v) :: r else (j, w) :: tabSet r k v

/-- Forget a key. -/
def tabDel {α : Type} (t : Tab α) (k : Nat) : Tab α := t.filter fun p => p.1 ≠ k

/-- Change the value at a key. -/
def tabMod {α : Type} [Inhabited α] (t : Tab α) (k : Nat) (f : α → α) : Tab α := tabSet t k (f (tabGet t k))

/-- Keys in rising order. -/
def tabSorted {α : Type} : Tab α → Bool
  | [] => true
  | [_] => true
  | (a, _) :: (b, w) :: r => a < b && tabSorted ((b, w) :: r)

/-- What an address reads as (log 6). -/
def memGet (m : Mem) (a : Nat) : Byte := (tabGet? m a).getD 0

/-- Write one byte, keeping the canonical form: writing 0 removes the entry. -/
def memSet (m : Mem) (a : Nat) (b : Byte) : Mem := if b = 0 then tabDel m a else tabSet m a b

/-- The canonical form of a byte memory: addresses rising, no entry 0. -/
def Mem.wf (m : Mem) : Bool := tabSorted m && m.all fun c => c.2 ≠ 0

/-- The n bytes from an address up. -/
def memBytes (m : Mem) (a : Nat) : Nat → List Byte
  | 0 => []
  | n + 1 => memGet m a :: memBytes m (a + 1) n

/-- Write bytes from an address up. -/
def memPut (m : Mem) (a : Nat) : List Byte → Mem
  | [] => m
  | b :: bs => memPut (memSet m a b) (a + 1) bs

/-- A memory without its bytes in [lo, hi). -/
def memClear (m : Mem) (lo hi : Nat) : Mem := m.filter fun c => c.1 < lo || hi ≤ c.1

/-- The n low bytes of a number, the least significant first. -/
def bytesOf : Nat → Nat → List Byte
  | 0, _ => []
  | n + 1, v => BitVec.ofNat 8 v :: bytesOf n (v / 256)

/-- The number of n bytes at an address, little-endian (R156). -/
def memNat (m : Mem) (a n : Nat) : Nat := natOfBytes (memBytes m a n)

/-- The line of an address (R13). -/
def lineOf (a : Nat) : Nat := a / 64 * 64

/-- Bits [hi:lo] of a number. -/
def bits (v hi lo : Nat) : Nat := v / 2 ^ lo % 2 ^ (hi - lo + 1)

/-- Bits [hi:lo] of a word. -/
def wbits (w : Word) (hi lo : Nat) : Nat := Machine.bits w.toNat hi lo

/-- Bit n of a word. -/
def wbit (w : Word) (n : Nat) : Bool := w.getLsbD n

/-- A word with bits [hi:lo] set to a value. -/
def wput (w : Word) (hi lo v : Nat) : Word :=
  BitVec.ofNat 64 (w.toNat - Machine.bits w.toNat hi lo * 2 ^ lo + v % 2 ^ (hi - lo + 1) * 2 ^ lo)

/-- A field value at a bit position. -/
def fieldAt (v lo : Nat) : Word := BitVec.ofNat 64 (v * 2 ^ lo)

/-- v held at a bound (saturating counters). -/
def satAt (bound v : Nat) : Nat := if v > bound then bound else v

/-- The bits of a number as a signed value of width n. -/
def signedOf (n v : Nat) : Int :=
  let m := v % 2 ^ n
  if m < 2 ^ (n - 1) then m else (m : Int) - (2 ^ n : Nat)

/-- The pattern of an integer in n bits. -/
def patOf (n : Nat) (v : Int) : Nat := (v % (2 ^ n : Nat)).toNat

/-- Change the first element a test selects. -/
def listMod {α : Type} (p : α → Bool) (f : α → α) : List α → List α
  | [] => []
  | a :: r => if p a then f a :: r else a :: listMod p f r

/-- Add a number to a set kept as a list without repeats. -/
def setAdd (l : List Nat) (a : Nat) : List Nat := if l.contains a then l else l ++ [a]

/-- The union of two such sets. -/
def setUnion (l m : List Nat) : List Nat := m.foldl setAdd l

/-- The numbers from lo up, n of them. -/
def upFrom (lo : Nat) : Nat → List Nat
  | 0 => []
  | n + 1 => lo :: upFrom (lo + 1) n

/-- The place of the first element a test selects. -/
def indexWhere {α : Type} (p : α → Bool) : List α → Option Nat
  | [] => none
  | a :: r => if p a then some 0 else (indexWhere p r).map (· + 1)

/-- Insert before the first element that the new one comes before, so that a sorted list stays sorted. -/
def insertBy {α : Type} (before : α → α → Bool) (a : α) : List α → List α
  | [] => [a]
  | b :: r => if before a b then a :: b :: r else b :: insertBy before a r

/-- Sort by a strict order; elements neither of which comes before the other keep their order. -/
def sortBy {α : Type} (before : α → α → Bool) : List α → List α
  | [] => []
  | a :: r => insertBy (fun x y => !before y x) a (sortBy before r)

end Sys2Proof.Machine
end

