-- ==== Sys2Proof/Machine/Space.lean ====
section
/-! DEFINITION. The places of the device by number (R10, R11, R261, R283) and reading and changing the objects there. -/

namespace Sys2Proof.Machine

/-- A unit's key: tarn t of cluster c of die d, the matrix node as t = 16 (R269). -/
def unitKey (d c t : Nat) : Nat := d * 1088 + c * 17 + t
/-- A system core's key (R412). -/
def coreKey (k : Nat) : Nat := 8704 + k
/-- Whether a unit is a system core, and which. -/
def isCore (u : Nat) : Bool := 8704 ≤ u
def coreOf (u : Nat) : Nat := u - 8704
/-- The die of a unit; cores lie on HD0 (8) and HD1 (9) (R10, R291). -/
def unitDie (u : Nat) : Nat := if isCore u then 8 + (u - 8704) / 4 else u / 1088
def unitCl (u : Nat) : Nat := if isCore u then 0 else u % 1088 / 17
def unitTarn (u : Nat) : Nat := if isCore u then 0xFE else u % 17
/-- Whether a unit is a matrix node. -/
def isNode (u : Nat) : Bool := !isCore u && u % 17 == 16
/-- The unit whose scratch and frame an operator of a unit uses (R202): tarn 5 of the cluster for a node. -/
def memUnit (u : Nat) : Nat := if isNode u then u - 16 + 5 else u
/-- Tarn 0 of a cluster, whose plane holds the cluster's ports (R262). -/
def tarn0 (d c : Nat) : Nat := unitKey d c 0
def nodeKey (d c : Nat) : Nat := unitKey d c 16
def clKey (d c : Nat) : Nat := d * 64 + c
def regKey (x r : Nat) : Nat := x * 64 + r
def poolKey (x n : Nat) : Nat := x * 512 + n
/-- The context that stands for the firmware on the system cores: none of the 256. -/
def fwCtx : Nat := 256

namespace State

def unit (s : State) (u : Nat) : UnitS := tabGet s.units u
def modUnit (s : State) (u : Nat) (f : UnitS → UnitS) : State := { s with units := tabMod s.units u f }
def modPlane (s : State) (u : Nat) (f : Plane → Plane) : State := s.modUnit u fun v => { v with plane := f v.plane }
def op? (s : State) (u o : Nat) : Option OpState := tabGet? (s.unit u).plane.ops o
def modOp (s : State) (u o : Nat) (f : OpState → OpState) : State :=
  s.modPlane u fun p => { p with ops := tabMod p.ops o f }
def modChan (s : State) (u o c : Nat) (f : Chan → Chan) : State :=
  s.modOp u o fun p => { p with chans := tabMod p.chans c f }
def firing? (s : State) (f : FireRef) : Option Firing :=
  match s.op? f.u f.op with
  | none => none
  | some o => o.firings.find? fun g => g.id == f.fr
def modFiring (s : State) (f : FireRef) (g : Firing → Firing) : State :=
  s.modOp f.u f.op fun o => { o with firings := listMod (fun h => h.id == f.fr) g o.firings }
def dropFiring (s : State) (f : FireRef) : State :=
  s.modOp f.u f.op fun o => { o with firings := o.firings.filter fun h => h.id != f.fr }
def port (s : State) (d c p : Nat) : Port := tabGet (s.unit (tarn0 d c)).plane.ports p
def modPort (s : State) (d c p : Nat) (f : Port → Port) : State :=
  s.modPlane (tarn0 d c) fun q => { q with ports := tabMod q.ports p f }
def node (s : State) (d c : Nat) : Tiles := (s.unit (nodeKey d c)).plane.node
def modNode (s : State) (u : Nat) (f : Tiles → Tiles) : State := s.modPlane u fun p => { p with node := f p.node }
def cluster (s : State) (d c : Nat) : Cluster := tabGet s.clusters (clKey d c)
def modCluster (s : State) (d c : Nat) (f : Cluster → Cluster) : State :=
  { s with clusters := tabMod s.clusters (clKey d c) f }
def die (s : State) (d : Nat) : Die := tabGet s.dies d
def modDie (s : State) (d : Nat) (f : Die → Die) : State := { s with dies := tabMod s.dies d f }
def ctx (s : State) (x : Nat) : Ctx := tabGet s.ctxs x
def modCtx (s : State) (x : Nat) (f : Ctx → Ctx) : State := { s with ctxs := tabMod s.ctxs x f }
def region (s : State) (k : Nat) : Region := tabGet s.regions k
def modRegion (s : State) (k : Nat) (f : Region → Region) : State := { s with regions := tabMod s.regions k f }
def pool? (s : State) (x n : Nat) : Option Pool := tabGet? s.pools (poolKey x n)
def setPool (s : State) (x n : Nat) (p : Pool) : State := { s with pools := tabSet s.pools (poolKey x n) p }
def queue (s : State) (q : Nat) : Queue := tabGet s.queues q
def modQueue (s : State) (q : Nat) (f : Queue → Queue) : State := { s with queues := tabMod s.queues q f }
def link (s : State) (n : Nat) : Link := tabGet s.links n
def modLink (s : State) (n : Nat) (f : Link → Link) : State := { s with links := tabMod s.links n f }

/-- A device register's stored bits; an unlisted one is 0 (R9). -/
def devReg (s : State) (n : Nat) : Word := (tabGet? s.dev n).getD 0
def setDev (s : State) (n : Nat) (v : Word) : State := { s with dev := tabSet s.dev n v }
/-- A die register's stored bits. -/
def dieReg (s : State) (d n : Nat) : Word := (tabGet? (s.die d).regs n).getD 0
def setDie (s : State) (d n : Nat) (v : Word) : State := s.modDie d fun x => { x with regs := tabSet x.regs n v }
/-- A context register's stored bits. -/
def ctxReg (s : State) (x n : Nat) : Word := (tabGet? (s.ctx x).regs n).getD 0
def setCtx (s : State) (x n : Nat) (v : Word) : State := s.modCtx x fun c => { c with regs := tabSet c.regs n v }

/-- dev.clk COUNT (R19), dev.iv IV and dev.sealed SEALED (R339). -/
def clk (s : State) : Nat := (s.devReg 0x30A).toNat
def iv (s : State) : Nat := wbits (s.devReg 0x300) 47 0
def sealed (s : State) : Nat := wbits (s.devReg 0x301) 47 0
/-- The mode in effect of a function of dev.duty (R17): bit k of APPLIED. -/
def duty (s : State) (k : Nat) : Bool := wbit (s.devReg 0x305) (8 + k)
def pageHost (s : State) : Bool := s.duty 1
def triageHost (s : State) : Bool := s.duty 2
def powerHost (s : State) : Bool := s.duty 3
def linkHost (s : State) : Bool := s.duty 4
def sealHost (s : State) : Bool := s.duty 5
def groupHost (s : State) : Bool := s.duty 0
/-- This device's id (R380). -/
def devId (s : State) : Nat := wbits (s.devReg 0x303) 11 0
/-- dev.sealctl LEADER (R339). -/
def leader (s : State) : Bool := wbit (s.devReg 0x302) 62

/-- The region whose task has a unit, and its context; a core belongs to the firmware, under a key of its own. -/
def regOf (s : State) (u : Nat) : Nat := if isCore u then regKey fwCtx (coreOf u) else ((s.unit u).owner).getD 0
def ctxOf (s : State) (u : Nat) : Nat :=
  if isCore u then fwCtx else match (s.unit u).owner with
    | some k => k / 64
    | none => 0

/-- Take a fresh identity for a released operation; its obligation is outstanding until `meet`. -/
def newId (s : State) : Nat × State := (s.nextId, { s with nextId := s.nextId + 1, outstanding := s.outstanding ++ [s.nextId] })
/-- An identity with no obligation. -/
def newKey (s : State) : Nat × State := (s.nextId, { s with nextId := s.nextId + 1 })
/-- Note that what depends on an operation follows the stores performed so far (R252). Without a store of the last 4,096
cycles every load follows them all (R254). -/
def follows (s : State) (k pos : Nat) : State :=
  { s with done := if s.hist.isEmpty then s.done else { id := k, pos := pos, at_ := (s.devReg 0x30A).toNat } :: s.done }
/-- An operation has performed: its obligation is met (R157). -/
def meet (s : State) (k : Nat) : State :=
  { s.follows k s.mpos with outstanding := s.outstanding.filter (· ≠ k) }
/-- The operations of a set that have not performed. -/
def live (s : State) (deps : List Nat) : List Nat := deps.filter fun k => s.outstanding.contains k
/-- The part of a dependency set that still orders anything (R251, R252): the operations that have not performed, and
those of the last 4,096 cycles. -/
def carry (s : State) (deps : List Nat) : List Nat :=
  deps.filter fun k => s.outstanding.contains k || s.done.any fun d => d.id == k
/-- The place of M that an operation with a dependency set follows (R252). -/
def depPos (s : State) (deps : List Nat) : Nat :=
  s.done.foldl (fun n d => if deps.contains d.id then max n d.pos else n) 0
/-- A free value's number (log 2). -/
def draw (s : State) : Nat × State := (s.fresh, { s with fresh := s.fresh + 1 })

end State

/-- The logical cluster of a region's cluster number (R261). -/
def Region.cluster (r : Region) (i : Nat) : Nat := r.origin + i / max r.width 1 * 8 + i % max r.width 1
/-- The clusters of a region, in number order. -/
def Region.clusters (r : Region) : List Nat := (upFrom 0 (r.width * r.height)).map r.cluster
/-- The region number of a logical cluster. -/
def Region.indexOf (r : Region) (c : Nat) : Nat :=
  (c / 8 - r.origin / 8) * r.width + (c % 8 - r.origin % 8)
/-- The units of a region: 16 tarns and the node of each cluster. -/
def Region.units (r : Region) : List Nat :=
  r.clusters.flatMap fun c => (upFrom 0 17).map fun t => unitKey r.die c t
/-- A unit's index in its region (R269): 17 × region cluster + tarn. -/
def Region.unitIndex (r : Region) (u : Nat) : Nat := 17 * r.indexOf (unitCl u) + unitTarn u
/-- The unit at an index of a region. -/
def Region.unitAt (r : Region) (i : Nat) : Nat := unitKey r.die (r.cluster (i / 17)) (i % 17)

/-- The 16-bit tag: LREG in [15:12], ITER in [11:0] (R89). -/
def tagNat (lreg : BitVec 4) (iter : BitVec 12) : Nat := lreg.toNat * 4096 + iter.toNat
def Token.tag (t : Token) : Nat := tagNat t.lreg t.iter
def Firing.tag (f : Firing) : Nat := tagNat f.lreg f.iter

/-- The regions of a context, by number. -/
def ctxRegions (s : State) (x : Nat) : List Nat := (upFrom 0 (s.ctx x).nreg).map fun i => regKey x i

/-- The codes of ctx.ctl STATE (R284). -/
def CtxSt.code : CtxSt → Nat
  | .free => 0 | .idle => 1 | .running => 2 | .checkpointing => 3 | .saved => 4 | .resuming => 5 | .stopped => 6
/-- The codes of q.state STATE (R299). -/
def QueueSt.code : QueueSt → Nat
  | .disabled => 0 | .idle => 1 | .active => 2 | .draining => 3 | .quiesced => 4 | .error => 5
/-- The codes of dev.lstN STATE (R380). -/
def LinkSt.code : LinkSt → Nat
  | .off => 0 | .train => 1 | .up => 2 | .degraded => 3 | .quiet => 4 | .down => 5
/-- The codes of MARKER kinds (R64). -/
def MarkKind.code : MarkKind → Nat
  | .barrier => 0 | .checkpoint => 1 | .freeze => 2 | .seal => 3

/-- The clusters of a context's regions in all. -/
def ctxClusters (s : State) (x : Nat) : Nat :=
  (ctxRegions s x).foldl (fun n k => n + (s.region k).width * (s.region k).height) 0

/-- ctx.ctl NOSAVE (R284, R287): LIMIT below 1 MiB + 2 MiB × clusters, in 64 KiB units. -/
def noSave (s : State) (x : Nat) : Bool := wbits (s.ctxReg x 4) 31 0 < 16 + 32 * ctxClusters s x

/-- The bytes an undo log may hold as entries: ⌊SIZE × 65,536 ÷ 80⌋ (R342). -/
def undoCap (s : State) (d : Nat) : Nat := wbits (s.dieReg d 0x289) 31 0 * 65536 / 80

/-- The 16-byte units a held write takes: its header and its data (R345). -/
def egressUnits (e : Egress) : Nat := 1 + (e.bytes.length + 15) / 16
def egressOcc (s : State) (d : Nat) : Nat := (s.die d).egress.foldl (fun n e => n + egressUnits e) 0

/-- The partition table entry of a partition (R397). -/
def ptabEntry (s : State) (p : Nat) : Nat := wbits (s.devReg 0x306) 51 12 * 4096 + p * 256
def ptabByte (s : State) (p off : Nat) : Nat := (memGet s.mem (ptabEntry s p + off)).toNat
def ptabNat (s : State) (p off n : Nat) : Nat := memNat s.mem (ptabEntry s p + off) n

/-- The function number of a partition (R397): port A functions are 0–15, port B functions 16–31, number 0 of a port
being its physical function. -/
def partFn (s : State) (p : Nat) : Nat :=
  let v := ptabByte s p 2
  v / 128 * 16 + v % 16

end Sys2Proof.Machine
end

