-- ==== Sys2Proof/Machine/Regs.lean ====
section
/-! DEFINITION. Reading the system registers (R8, R283, R416): stored bits, and the registers derived from other state. -/

namespace Sys2Proof.Machine

/-- tarn.share (R104): five bits a slot, 0 for an empty one. -/
def shareReg (v : UnitS) : Word :=
  BitVec.ofNat 64 ((upFrom 0 8).foldl (fun n k => n + ((tabGet? v.plane.ops k).map (·.share)).getD 0 % 32 * 32 ^ k) 0)

/-- dev.lstN (R380). -/
def lstReg (l : Link) : Word :=
  BitVec.ofNat 64 (l.peer % 4096 * 2 ^ 52 + l.peerLink % 32 * 2 ^ 47 + l.lanes % 256 * 2 ^ 32
    + satAt 0xFFFF l.retries * 2 ^ 16 + l.st.code)

/-- A context register as software reads it (R284). -/
def readCtxReg (s : State) (x n : Nat) : Word :=
  let c := s.ctx x
  match n with
  | 0x000 => BitVec.ofNat 64 (c.part % 16 * 2 ^ 24 + (if c.secure then 2 ^ 16 else 0) + x % 256)
  | 0x005 => BitVec.ofNat 64 ((if noSave s x then 8 else 0) + c.st.code)
  | 0x009 => BitVec.ofNat 64 (satAt 0xFFFF c.faults * 2 ^ 32 + c.pends.length % 4096)
  | 0x00B => 0
  | _ => s.ctxReg x n

/-- The bits of a stored context register that a field has; the others read 0 (R9). -/
def ctxBits (n : Nat) : Word :=
  match n with
  | 0x001 => 0x0000FFFFFFFFFFFF
  | 0x003 | 0x016 => 0x00FFFFFFFFFF0000
  | 0x004 => 0xFFFFFFFF
  | 0x006 | 0x010 => 0x00FFFFFFFFFFF01F
  | 0x007 | 0x011 => 0x8000FFFFFFFFFFFF
  | 0x008 => 0x000FFFFFFFFF0001
  | 0x012 | 0x014 | 0x01A => 0x00FFFFFFFFFFFFC0
  | 0x017 => 0xFF
  | 0x018 => 0xFFFF
  | 0x021 => 0xFFFFFFFF000FFFFF
  | 0x022 => 1
  | 0x023 => 0x00FFFFFFFFFFFF01
  | 0x024 => 0x00FFFFFFFFFFF001
  | 0x002 | 0x013 | 0x015 | 0x019 | 0x01B | 0x020 => 0xFFFFFFFFFFFFFFFF
  | _ =>
    if 0x040 ≤ n && n ≤ 0x04F then 0x00FFFFFFFFFFFFC0
    else if 0x050 ≤ n && n ≤ 0x05F then 0xFFFFFFFF
    else if 0x060 ≤ n && n ≤ 0x06F then 0xFFFFFFFFFFFFFFFF
    else 0

/-- A die register as software reads it (R150, R326, R342, R345, R404). -/
def readDieReg (s : State) (d n : Nat) : Word :=
  match n with
  | 0x289 => BitVec.ofNat 64 ((s.die d).undo.length * 2 ^ 32 + wbits (s.dieReg d 0x289) 31 0)
  | 0x28A => BitVec.ofNat 64 (egressOcc s d * 2 ^ 32 + satAt 0xFFFFFFFF (s.die d).egress.length)
  | _ => s.dieReg d n

/-- A device register as software reads it (R17, R339, R380, R406, R407). -/
def readDevReg (s : State) (n : Nat) : Word :=
  if 0x340 ≤ n && n ≤ 0x351 then lstReg (s.link (n - 0x340)) else s.devReg n

/-- A tarn register of a unit (R104, R106, R146): zero on a node and on a core (R283). -/
def readTarnReg (s : State) (u n : Nat) : Word :=
  if isNode u || isCore u then 0
  else match n with
    | 0x100 => (s.unit u).split
    | 0x101 => (s.unit u).width
    | _ => shareReg (s.unit u)

/-- The context that the context registers of a unit's srd and swr belong to (R283, R284): the issuing context, or on
a system core the one ctx.sel names. -/
def regCtx (s : State) (u : Nat) : Nat := if isCore u then (tabGet? s.coreSel (coreOf u)).getD 0 else s.ctxOf u

/-- The die whose registers a unit reaches (R283). A core lies on a hub die, which has no die registers of its own;
it reaches compute die 0's (log 7). -/
def regDie (u : Nat) : Nat := if isCore u then 0 else unitDie u

/-- A register as the srd of a unit reads it (R283, R293). -/
def readReg (s : State) (u n : Nat) : Word :=
  if n == 0xFF then BitVec.ofNat 64 (regCtx s u % 256)
  else if n < 0x100 then readCtxReg s (regCtx s u) n
  else if n < 0x200 then readTarnReg s u n
  else if n < 0x300 then readDieReg s (regDie u) n
  else readDevReg s n

/-- The link whose register a device register is (R380). -/
def linkReg (n : Nat) : Option Nat :=
  if 0x320 ≤ n && n ≤ 0x331 then some (n - 0x320) else if 0x340 ≤ n && n ≤ 0x351 then some (n - 0x340) else none
/-- Whether a register is that of a link which the host brings up (R18, R380; log 113). -/
def hostLink (s : State) (n : Nat) : Bool := (linkReg n).any fun k => (tabGet s.links k).host

/-- The secure-world registers of the die and device ranges (R416). -/
def secureReg (s : State) (n : Nat) : Bool :=
  (0x200 ≤ n && n ≤ 0x27F) || n == 0x281 || n == 0x282 || (0x288 ≤ n && n ≤ 0x28A) ||
  n == 0x302 || n == 0x303 || (0x305 ≤ n && n ≤ 0x308) || (0x30B ≤ n && n ≤ 0x30E) ||
  (0x310 ≤ n && n ≤ 0x312) ||
  ((linkReg n).isSome && !hostLink s n) ||
  (0x380 ≤ n && n ≤ 0x3FF)

/-- Whether a unit is secure (R20): a system core always, another unit by its context's world. -/
def unitSecure (s : State) (u : Nat) : Bool := isCore u || (s.ctx (s.ctxOf u)).secure

/-- Whether a context runs in the secure world; the firmware does (R20, R412). -/
def ctxSecure (s : State) (x : Nat) : Bool := x == fwCtx || (s.ctx x).secure

/-- The secure registers that the device window reaches by their own rule (R403). -/
def hostReaches (s : State) (n : Nat) : Bool :=
  hostLink s n ||
  (s.powerHost && n == 0x282) || (s.triageHost && 0x30B ≤ n && n ≤ 0x30D)

/-- A queue's registers as its block reads; offsets past q.done read zero. -/
def readQueueReg (v : Queue) (off : Nat) : Word :=
  match off with
  | 0x00 => v.base
  | 0x08 => BitVec.ofNat 64 (v.prio * 2 ^ 24 + v.vec * 2 ^ 16 + v.ctx)
  | 0x10 => BitVec.ofNat 64 (v.ecode * 2 ^ 32 + v.st.code)
  | 0x18 => BitVec.ofNat 64 v.head
  | 0x20 => BitVec.ofNat 64 v.tail
  | 0x28 => BitVec.ofNat 64 v.done
  | _ => 0

/-- The queue and offset of an address in the queues' register blocks (R298). -/
def queueBlock (pa : Nat) : Option (Nat × Nat) :=
  if 0xF000010000000 ≤ pa && pa < 0xF000010010000 then some ((pa - 0xF000010000000) / 64, pa % 64) else none

/-- The n bytes at an address of the register space: those of a queue's register, or 0 where no rule gives a register. -/
def regSpaceBytes (s : State) (pa n : Nat) : List Byte :=
  match queueBlock pa with
  | some (q, off) => ((bytesOf 8 (readQueueReg (s.queue q) (off / 8 * 8)).toNat).drop (off % 8) ++ bytesOf n 0).take n
  | none => bytesOf n 0

end Sys2Proof.Machine
end

