-- ==== Sys2Proof/Machine/Phys.lean ====
section
/-! DEFINITION. Physical memory (R13, R14, R145): the map, poisoned lines, format windows, undo capture and the egress
buffers, as the home bank of a line serves them. -/

namespace Sys2Proof.Machine

/-- Access kinds (R375): load, write, atomic, and image, pattern or backing read. -/
def kLoad : Nat := 0
def kWrite : Nat := 1
def kAtomic : Nat := 2
def kOther : Nat := 3

/-- The stacked DRAM of die d (R14). -/
def dramBase (d : Nat) : Nat := d * 0x1000000000
/-- Whether an address lies in stacked DRAM or module LPDDR (R14): the two LPDDR ranges follow one another. -/
def inDram (pa : Nat) : Bool := pa < 0x8000000000
def inLpddr (pa : Nat) : Bool := 0x10000000000 ≤ pa && pa < 0x30000000000
def inMemory (pa : Nat) : Bool := inDram pa || inLpddr pa
/-- System register and doorbell space (R14). -/
def inRegSpace (pa : Nat) : Bool := 0xF000000000000 ≤ pa && pa < 0xF000100000000
def inMap (pa : Nat) : Bool := inMemory pa || inRegSpace pa

/-- The die that holds a line's home MSC bank (R145): the owner of stacked DRAM; for LPDDR the two compute dies beside
the hub die, taking alternate 64 KiB ranges (the first takes the even ones, log 8). -/
def homeDie (pa : Nat) : Nat :=
  if inDram pa then pa / 0x1000000000
  else
    let odd := pa / 65536 % 2
    if pa < 0x20000000000 then (if odd == 0 then 0 else 4) else (if odd == 0 then 3 else 7)

/-! ### Format windows (R150–R153) -/

/-- The registers of window N of a die: control, raw, scale, superscale and view bases (R150). -/
def winCtl (s : State) (d n : Nat) : Word := s.dieReg d (0x200 + 8 * n)
def winBase (s : State) (d n k : Nat) : Nat := wbits (s.dieReg d (0x200 + 8 * n + k)) 51 6 * 64
/-- The element size of the decoded view: 2 for BF16, 1 for E4M3 (R152). -/
def winT (ctl : Word) : Nat := if wbits ctl 57 56 == 0 then 2 else 1
/-- The span of the view in bytes, rounded up to 64 (R152). -/
def winSpan (ctl : Word) : Nat := (wbits ctl 39 0 * winT ctl + 63) / 64 * 64

/-- The enabled window whose view holds an address, if any. -/
def winOf (s : State) (pa : Nat) : Option (Nat × Nat) :=
  if !inDram pa then none
  else
    let d := homeDie pa
    ((upFrom 0 16).find? fun n =>
      wbit (winCtl s d n) 63 && winBase s d n 4 ≤ pa && pa < winBase s d n 4 + winSpan (winCtl s d n)).map fun n => (d, n)

/-- Whether a line is poisoned (R31, R158). -/
def poisoned (s : State) (pa : Nat) : Bool := s.poison.contains (lineOf pa)

/-- An armed one-shot injection hits a read of a line (R362): ARM with STICKY 0 and that line address. -/
def einjHits (s : State) (pa n : Nat) : Bool :=
  let r := s.devReg 0x309
  wbit r 63 && !wbit r 62 && wbits r 51 6 * 64 < pa + n && pa < wbits r 51 6 * 64 + 64

/-- The decoded value of element e of a window in the target format, and whether a source line of its block is
poisoned (R30, R31, R152); `src` reads one source byte with its poison. -/
def winElem (src : Nat → Byte × Bool) (s : State) (d n e : Nat) : Nat × Bool :=
  let get := fun a => (src a).1
  let bad := fun a => (src a).2
  let ctl := winCtl s d n
  let raw := winBase s d n 1
  let sc := winBase s d n 2
  let ss := winBase s d n 3
  let tgt := if wbits ctl 57 56 == 0 then Fmt.bf16 else Fmt.e4m3
  let nib := (get (raw + e / 2)).toNat / (if e % 2 == 0 then 1 else 16) % 16
  match wbits ctl 53 52 with
  | 0 =>
    let sigma := natOfBytes ((upFrom (ss + 4 * (e / 16384)) 4).map get)
    let b := e / 64
    let v := q4nBits sigma (get (sc + b)).toNat nib
    ((fpCvt .f32 tgt .rne true 0 v).1,
      (upFrom (raw + b * 32) 32).any bad || bad (sc + b) || bad (ss + 4 * (e / 16384)))
  | 3 =>
    let b := e / 32
    ((encodeNum tgt .rne true 0 (mxNum .e2m1 (get (sc + b)).toNat nib)).1, (upFrom (raw + b * 16) 16).any bad || bad (sc + b))
  | k =>
    let f := if k == 1 then Fmt.e4m3 else Fmt.e5m2
    let b := e / 32
    ((encodeNum tgt .rne true 0 (mxNum f (get (sc + b)).toNat (get (raw + e)).toNat)).1,
      (upFrom (raw + b * 32) 32).any bad || bad (sc + b))

/-- One byte of a view, decoded, and its poison (R152). A byte past the last element holds no value that the spec states
(log 9): it is free. -/
def viewCell (src : Nat → Byte × Bool) (s : State) (d n pa : Nat) : Byte × Bool :=
  let ctl := winCtl s d n
  let t := winT ctl
  let off := pa - winBase s d n 4
  if off / t < wbits ctl 39 0 then
    let (v, bad) := winElem src s d n (off / t)
    (BitVec.ofNat 8 (v / 256 ^ (off % t)), bad)
  else (Config.freeByte (s.fresh + pa % 64), false)

/-- One byte of a window's source arrays as the home bank serves it, poisoned by its line or by an injection (R31, R151,
R362): where it lies in the view of another window, that view's byte, for the DRAM beneath is unreachable. `fuel` bounds
the views that lie in one another's arrays (log 95). -/
def srcCell : Nat → State → Nat → Byte × Bool
  | 0, s, pa => (memGet s.mem pa, poisoned s pa || einjHits s pa 1)
  | fuel + 1, s, pa =>
    match winOf s pa with
    | none => (memGet s.mem pa, poisoned s pa || einjHits s pa 1)
    | some (d, n) =>
      match tabGet? s.views (lineOf pa) with
      | some v => (v.data.getD (pa % 64) 0, v.bad.contains (pa % 64))
      | none => viewCell (srcCell fuel s) s d n pa

/-- The decoded line of a view (R152): 64 bytes and those that are poisoned. -/
def winLine (s : State) (d n line : Nat) : ViewLine :=
  let cells := (upFrom line 64).map (viewCell (srcCell 16 s) s d n)
  { die := d, win := n, data := cells.map Prod.fst, bad := (upFrom 0 64).filter fun k => (cells.getD k (0, false)).2 }

/-- An armed injection is delivered: ARM reads 0 (R362). -/
def disarm (s : State) : State := s.setDev 0x309 (wput (s.devReg 0x309) 63 63 0)

/-- Whether the fill of a view line reads the line of an armed one-shot injection (R31, R362): with no stored poison, the
line comes out poisoned only while the injection is armed. -/
def einjInFill (s : State) (d n line : Nat) : Bool :=
  let r := s.devReg 0x309
  wbit r 63 && !wbit r 62 &&
    (winLine { s with poison := [] } d n line).bad ≠ (winLine (disarm { s with poison := [] }) d n line).bad

/-- Fill a view line into the home bank unless the bank holds it (VIEW_LINE_DECODE, R152, R153). -/
def fillView (s : State) (pa : Nat) : State :=
  match winOf s pa with
  | none => s
  | some (d, n) =>
    let line := lineOf pa
    match tabGet? s.views line with
    | some _ => s
    | none =>
      let v := winLine s d n line
      let s := if einjInFill s d n line then disarm s else s
      { s with views := tabSet s.views line v, fresh := s.fresh + 64 }

/-- Bytes as the home bank serves them: the decoded line of an enabled view, or memory (R152). -/
def physByte (s : State) (pa : Nat) : Byte :=
  match winOf s pa with
  | none => memGet s.mem pa
  | some _ => ((tabGet? s.views (lineOf pa)).map fun v => v.data.getD (pa % 64) 0).getD 0
def physBytes (s : State) (pa n : Nat) : List Byte := (upFrom pa n).map (physByte s)

/-- Whether a byte reads as poisoned. -/
def physBad (s : State) (pa : Nat) : Bool :=
  match winOf s pa with
  | none => poisoned s pa
  | some _ => ((tabGet? s.views (lineOf pa)).map fun v => v.bad.contains (pa % 64)).getD false

/-- The 64 KiB page tail behind a view's span, where a read faults (R152; log 14). -/
def viewTail (s : State) (pa : Nat) : Bool :=
  inDram pa && ((upFrom 0 16).any fun n =>
    let d := homeDie pa
    let hi := winBase s d n 4 + winSpan (winCtl s d n)
    wbit (winCtl s d n) 63 && hi ≤ pa && pa < (hi + 65535) / 65536 * 65536)

/-- The checks of the memory itself (R14, R152): a write to a view and a read behind one fault with PERM. -/
def physFault (s : State) (pa kind : Nat) : Bool :=
  if kind == kWrite || kind == kAtomic then (winOf s pa).isSome else viewTail s pa

/-- Read n bytes at a physical address at its home bank: the bytes, P (R158), and the state after it (a view line
filled, an injection delivered). -/
def physRead (s : State) (pa n : Nat) : List Byte × Bool × State :=
  let s := fillView (fillView s pa) (pa + (n - 1))
  let hit := einjHits s pa n
  (physBytes s pa n, hit || (upFrom pa n).any (physBad s), if hit then disarm s else s)

/-! ### The undo log (R340-R342) -/

/-- The first byte of a die's undo log. -/
def undoBase (s : State) (d : Nat) : Nat := wbits (s.dieReg d 0x288) 51 16 * 65536
/-- An undo entry as the log holds it (R340). -/
def undoBytes (e : Undo) : List Byte :=
  bytesOf 8 e.line ++ bytesOf 6 e.iv ++ bytesOf 1 (if e.poison then 1 else 0) ++ bytesOf 1 0 ++ e.data
/-- The lowest slot of a log that no entry in use holds (log 94). -/
def undoSlot (us : List Undo) : Nat :=
  ((upFrom 0 us.length).find? fun k => !us.any fun e => e.slot == k).getD us.length

/-- The first store of an interval to a line of a logged page appends an undo entry (R340). -/
def undoNeeds (s : State) (pa iv cls : Nat) : Bool :=
  cls == 0 && iv ≠ 0 && !((s.die (homeDie pa)).undo.any fun e => e.line == lineOf pa && e.iv == iv)
def captureUndo (s : State) (pa iv cls : Nat) : State :=
  if undoNeeds s pa iv cls then
    let d := homeDie pa
    let e : Undo := { slot := undoSlot (s.die d).undo, line := lineOf pa, iv := iv, poison := poisoned s pa, data := memBytes s.mem (lineOf pa) 64 }
    { s.modDie d fun v => { v with undo := v.undo ++ [e] } with
      mem := memPut s.mem (undoBase s d + 80 * e.slot) (undoBytes e) }
  else s

/-- Whether n bytes from an address cover a whole line. -/
def coversLine (pa n : Nat) : Bool := pa % 64 == 0 && 64 ≤ n

/-- Store bytes within one line at the home bank, with no undo and no hold: the line becomes dirty (R144), a full line
loses its poison (R362), and the store takes the next place of M (R252). -/
def physPut (s : State) (pa : Nat) (bs : List Byte) : State :=
  { s with
    mpos := s.mpos + 1
    hist := { pos := s.mpos + 1, at_ := s.clk, pa := pa, old := memBytes s.mem pa bs.length } :: s.hist
    mem := memPut s.mem pa bs
    dirty := setAdd s.dirty (lineOf pa)
    poison := if coversLine pa bs.length then s.poison.filter (· ≠ lineOf pa) else s.poison }

/-- Cut bytes at line boundaries: address and bytes of each piece. -/
def lineCuts : Nat → Nat → List Byte → List (Nat × List Byte)
  | 0, _, _ => []
  | fuel + 1, pa, bs =>
    if bs.isEmpty then []
    else
      let n := 64 - pa % 64
      (pa, bs.take n) :: lineCuts fuel (pa + n) (bs.drop n)

/-- A store of an interval at its home bank (R340, R344, R345): captured in the undo log when its page is logged,
held in the egress buffer when it is egress, and performed otherwise. -/
def physStore (s : State) (pa : Nat) (bs : List Byte) (own : Owner) (cls : Nat) : State :=
  (lineCuts (bs.length + 1) pa bs).foldl (fun s p =>
    if cls == 2 && own.iv ≠ 0 then
      s.modDie (homeDie p.1) fun d => { d with egress := d.egress ++ [{ iv := own.iv, pa := p.1, bytes := p.2, own := own }] }
    else physPut (captureUndo s p.1 own.iv cls) p.1 p.2) s

/-- An undo entry with bytes of its line written over (R341). -/
def Undo.patch (e : Undo) (off : Nat) (bs : List Byte) : Undo :=
  { e with data := e.data.take off ++ bs ++ e.data.drop (off + bs.length) }

/-- A write that is never undone, at the home bank (R259, R338, R341): no interval, and its bytes also go into every undo
entry of an unsealed interval for the line, in the state and in the log. -/
def hostPut (s : State) (pa : Nat) (bs : List Byte) : State :=
  (lineCuts (bs.length + 1) pa bs).foldl (fun s p =>
    let d := homeDie p.1
    let mine := fun (e : Undo) => e.line == lineOf p.1 && e.iv > s.sealed
    let logged := ((s.die d).undo.filter mine).foldl (fun m e => memPut m (undoBase s d + 80 * e.slot + 16 + p.1 % 64) p.2)
    let s := (physPut s p.1 p.2).modDie d fun v =>
      { v with undo := v.undo.map fun e => if mine e then e.patch (p.1 % 64) p.2 else e }
    { s with mem := logged s.mem }) s

/-! ### Loads and the order M (R252, R254; log 86) -/

/-- The places of M that a read may take: after every store so far, or before one of the last 4,096 cycles, or one since a
cycle at which its stream or copy began to read ahead (R227, R256), that nothing it depends on follows. -/
def readPlaces (s : State) (floor since : Nat) : List Nat :=
  s.mpos :: ((s.hist.filter fun r => r.pos > floor && (s.clk < r.at_ + 4096 || since ≤ r.at_)).map fun r => r.pos - 1)

/-- The place a read takes, by a free value where there is a choice. -/
def readPlace (s : State) (floor since : Nat) : Nat × State :=
  match readPlaces s floor since with
  | [p] => (p, s)
  | ps => let (k, s) := s.draw; (ps.getD (Config.pick k % ps.length) s.mpos, s)

/-- Bytes of memory as a place of M has them: the stores after it taken back, the newest first. -/
def pastBytes (s : State) (p pa : Nat) (bs : List Byte) : List Byte :=
  (s.hist.filter fun r => r.pos > p).foldl (fun bs r => bs.zipIdx.map fun b =>
    if r.pa ≤ pa + b.2 && pa + b.2 < r.pa + r.old.length then r.old.getD (pa + b.2 - r.pa) 0 else b.1) bs

/-- A read of memory takes its place in M: what it reads there, P, its identity in the dependency sets of what follows it,
and the state (R251, R252). A view is read as the home bank holds it (note 7 of R260). -/
def loadAt (s : State) (floor since pa n : Nat) : List Byte × Bool × List Nat × State :=
  let (bs, bad, s) := physRead s pa n
  if s.hist.isEmpty then (bs, bad, [], s)
  else
    let (p, s) := readPlace s floor since
    let (k, s) := s.newKey
    (if (winOf s pa).isSome then bs else pastBytes s p pa bs, bad, [k], s.follows k p)

/-- The interval that is the oldest unsealed one. -/
def oldestUnsealed (s : State) : Nat := s.sealed + 1

/-- What the undo log says to a store that needs an entry (R343): room, wait, or EGRESS_FULL. -/
inductive Room where
  | ok | wait | full
  deriving DecidableEq, Repr, Inhabited

def undoRoom (s : State) (d iv occ : Nat) : Room :=
  let c := undoCap s d
  if iv > oldestUnsealed s then (if occ ≥ c - c / 16 then .wait else .ok)
  else if occ ≥ c then .full else .ok

/-- What the egress buffer says to a write of so many units (R345): 65,536 units, the last 4,096 for the oldest
unsealed interval. -/
def egressRoom (s : State) (d iv units : Nat) : Room :=
  let occ := egressOcc s d + units
  if iv > oldestUnsealed s then (if occ > 61440 then .wait else .ok)
  else if occ > 65536 then .full else .ok

end Sys2Proof.Machine
end

