-- ==== Sys2Proof/Machine/Translate.lean ====
section
/-! DEFINITION. Pages and translation (22): the table walk, the checks of a leaf, TLB entries and walks in progress. -/

namespace Sys2Proof.Machine

/-- The level-0 table of a context and whether translation is on (R373); the firmware's lies at dev.fwptb (R412). -/
def rootOf (s : State) (x : Nat) : Nat × Bool :=
  let r := if x == fwCtx then s.devReg 0x30E else s.ctxReg x 8
  (wbits r 51 16 * 65536, wbit r 0)

/-- Fields of an entry (R366). -/
def ptePA (e : Nat) : Nat := bits e 51 16 * 65536
def pteClass (e : Nat) : Nat := bits e 11 10
def pteBit (e n : Nat) : Bool := e / 2 ^ n % 2 == 1

/-- How a walk ends (R367): a leaf with its level and entry address, or a fault code at a level. -/
inductive WalkEnd where
  | leaf (e lvl addr : Nat)
  | fault (code lvl : Nat)
  deriving DecidableEq, Repr, Inhabited

/-- What the walker settles from one entry (R367); none lets the walk go on. -/
def settleEntry (bad : Bool) (e lvl addr : Nat) : Option WalkEnd :=
  let leaf := pteBit e 1
  if !pteBit e 0 then some (.fault 0x20 lvl)
  else if bad then some (.fault 0x50 lvl)
  else if bits e 63 52 ≠ 0 || bits e 15 12 ≠ 0 || (leaf && lvl == 0) || (!leaf && lvl == 3)
    || (!leaf && bits e 11 2 ≠ 0) then some (.fault 0x21 lvl)
  else if leaf && (lvl == 1 && bits e 35 16 ≠ 0 || lvl == 2 && bits e 25 16 ≠ 0) then some (.fault 0x21 lvl)
  else if pteClass e == 3 || bits e 9 8 == 3 then some (.fault 0x21 lvl)
  else if leaf then some (.leaf e lvl addr)
  else none

/-- The index of a virtual address at a level (R365). -/
def vaIndex (va lvl : Nat) : Nat := va / 2 ^ (46 - 10 * lvl) % 1024

/-- The walk from a table, `fuel` levels (R365, R367). -/
def walkFrom (s : State) : Nat → Nat → Nat → Nat → WalkEnd
  | 0, lvl, _, _ => .fault 0x21 lvl
  | fuel + 1, lvl, table, va =>
    if !inMemory table then .fault 0x21 lvl
    else
      let a := table + 8 * vaIndex va lvl
      let e := memNat s.mem a 8
      match settleEntry (poisoned s a) e lvl a with
      | some r => r
      | none => walkFrom s fuel (lvl + 1) (ptePA e) va

/-- The bytes a leaf of a level maps (R365). -/
def leafSize (lvl : Nat) : Nat := 2 ^ (16 + 10 * (3 - lvl))

/-- The physical address a leaf gives (R365). -/
def leafPA (e lvl va : Nat) : Nat := ptePA e / leafSize lvl * leafSize lvl + va % leafSize lvl

/-- Whether a 2 GiB granule lies under some die's undo log (R342, R371). -/
def underLog (s : State) (pa : Nat) : Bool :=
  (upFrom 0 8).any fun d =>
    let lo := wbits (s.dieReg d 0x288) 51 16 * 65536
    let hi := lo + wbits (s.dieReg d 0x289) 31 0 * 65536
    lo < pa / 2 ^ 31 * 2 ^ 31 + 2 ^ 31 && pa / 2 ^ 31 * 2 ^ 31 < hi

/-- Whether a partition owns the granule of an address (R371, R397). -/
def ownsGranule (s : State) (p pa : Nat) : Bool :=
  !underLog s pa &&
  (if inDram pa then ptabNat s p (0x90 + 4 * (pa / 0x1000000000)) 4 / 2 ^ (pa / 2 ^ 31 % 32) % 2 == 1
   else if inLpddr pa then
     let g := (pa - 0x10000000000) / 2 ^ 31
     ptabNat s p 0xB0 2 ≤ g && g < ptabNat s p 0xB0 2 + ptabNat s p 0xB2 2
   else false)

/-- Whether every granule a leaf covers belongs to the partition (R371). -/
def ownsLeaf (s : State) (p e lvl : Nat) : Bool :=
  let base := ptePA e / leafSize lvl * leafSize lvl
  (upFrom 0 ((leafSize lvl + 2 ^ 31 - 1) / 2 ^ 31)).all fun k => ownsGranule s p (base + k * 2 ^ 31)

/-- Whether an address lies in the partition tables, which are secure at all times (R20, R397). -/
def inPtab (s : State) (pa : Nat) : Bool := ptabEntry s 0 ≤ pa && pa < ptabEntry s 16

/-- The checks of R368 in order, of R14 and of R20, for an access to va; `fabric` says the access is a tarn's, a node's or
an outlet's. -/
def leafFault (s : State) (x e lvl va kind : Nat) (fabric img : Bool) : Option Nat :=
  let wr := kind == kWrite || kind == kAtomic
  if (pteBit e 4 || inPtab s (leafPA e lvl va)) && !ctxSecure s x then some 0x22
  else if x ≠ fwCtx && !ownsLeaf s (s.ctx x).part e lvl then some 0x21
  else if x == fwCtx && !inMap (leafPA e lvl va) then some 0x21
  else if wr && !pteBit e 2 then some 0x21
  else if wr && fabric && pteBit e 3 then some 0x21
  else if kind == kAtomic && !pteBit e 7 then some 0x21
  else if img && !pteBit e 3 then some 0x41
  else none

/-- The answer of a translation: the physical address with the leaf, a walk to wait for, or a fault at a level. -/
inductive XRes where
  | ok (pa leaf : Nat)
  | miss
  | fault (code lvl : Nat)
  deriving DecidableEq, Repr, Inhabited

/-- The TLB entry of a die for an access (R372). -/
def tlbFind (s : State) (d x va : Nat) : Option Tlb :=
  s.tlbs.find? fun t => t.die == d && t.ctx == x && t.va ≤ va && va < t.va + t.size

/-- Translate through the TLBs (R155, R368, R369, R372, R375): a leaf cached with D = 0 is walked again at the first
write through it. -/
def xlate (s : State) (d x va kind : Nat) (fabric : Bool) (img : Bool := false) : XRes :=
  if va ≥ 2 ^ 56 || !(rootOf s x).2 then .fault 0x20 0
  else
    match tlbFind s d x va with
    | none => .miss
    | some t =>
      let e := t.leaf.toNat
      match leafFault s x e t.lvl va kind fabric img with
      | some c => .fault c t.lvl
      | none =>
        if (kind == kWrite || kind == kAtomic) && !pteBit e 5 then .miss
        else .ok (leafPA e t.lvl va) e

/-- Room for one more entry in a die's last-level TLB of 6,144 (R372): a full one loses an entry, which a free value names,
since no rule says which (log 118). -/
def tlbRoom (s : State) (d : Nat) : State :=
  let mine := s.tlbs.filter fun t => t.die == d
  if mine.length < 6144 then s
  else
    let (k, s) := s.draw
    match mine[Config.pick k % mine.length]? with
    | some t => { s with tlbs := s.tlbs.erase t }
    | none => s

/-- Install a leaf in the die's TLBs (R369, R372): A set, D set for a write, both as atomic ORs at the entry. -/
def installLeaf (s : State) (d x va kind e lvl addr : Nat) : State :=
  let wr := kind == kWrite || kind == kAtomic
  let e' := e ||| (if wr then 0x60 else 0x40)
  let size := min (leafSize lvl) (2 ^ 26)
  let base := va / size * size
  let s := tlbRoom { s with tlbs := s.tlbs.filter fun t => !(t.die == d && t.ctx == x && t.va == base) } d
  { s with
    mem := memPut s.mem addr (bytesOf 1 e')
    tlbs := { die := d, ctx := x, va := base, size := size, leaf := BitVec.ofNat 64 e', lvl := lvl } :: s.tlbs }

/-- One whole walk for an access (R367-R369): the leaf installed, or the fault. -/
def walkNow (s : State) (d x va kind : Nat) (fabric img : Bool) : XRes × State :=
  let (root, on) := rootOf s x
  if va ≥ 2 ^ 56 || !on then (.fault 0x20 0, s)
  else
    match walkFrom s 4 0 root va with
    | .fault c l => (.fault c l, s)
    | .leaf e lvl a =>
      match leafFault s x e lvl va kind fabric img with
      | some c => (.fault c lvl, s)
      | none => (.ok (leafPA e lvl va) (e ||| 0x40), installLeaf s d x va kind e lvl a)

/-- Translate, walking at once on a miss: for the device's own accesses, whose walk no rule times (log 10). -/
def xlateNow (s : State) (d x va kind : Nat) (fabric : Bool) (img : Bool := false) : XRes × State :=
  match xlate s d x va kind fabric img with
  | .miss => walkNow s d x va kind fabric img
  | r => (r, s)

/-- The ADDR of a translation fault's record (R375). -/
def xAddr (va kind lvl : Nat) : Word := BitVec.ofNat 64 (va % 2 ^ 56 + kind % 4 * 2 ^ 56 + lvl % 4 * 2 ^ 58)

/-- Whether an access is a tarn's, a matrix node's or an outlet's, for the image check of R368. -/
def Walker.fabric : Walker → Bool
  | .fire f => !isCore f.u
  | .port _ _ _ | .pend _ => true
  | _ => false

/-- Ask for a walk, unless one for the same page and kind is under way or the die's 32 walkers are busy (R372). -/
def askWalk (s : State) (d x va kind : Nat) (who : Walker) (img : Bool := false) : State :=
  if (s.walks.filter fun w => w.die == d).length ≥ 32 || s.walks.any (fun w => w.who == who && w.va / 65536 == va / 65536) then s
  else
    let (k, s) := s.newKey
    { s with walks := s.walks ++ [{ id := k, die := d, ctx := x, va := va, kind := kind, who := who, slot := s.focusSlot, img := img }] }

/-- Read n bytes of virtual memory for the device's own use, byte after byte: the bytes, or the fault that stops it.
The answer also says whether any byte reads as poisoned. -/
inductive VRead where
  | ok (bytes : List Byte) (bad : Bool)
  | fault (code va lvl : Nat)
  deriving DecidableEq, Repr, Inhabited

/-- Pieces of a virtual range that stay within a line. -/
def vCuts : Nat → Nat → Nat → List (Nat × Nat)
  | 0, _, _ => []
  | fuel + 1, va, n => if n == 0 then [] else
      let k := min n (64 - va % 64)
      (va, k) :: vCuts fuel (va + k) (n - k)

/-- Read a virtual range (R365, R368), past an atomic's hold (log 115); `img` asks for K = 1. -/
def readV (s : State) (d x : Nat) (img : Bool) (va n : Nat) : VRead × State :=
  (vCuts (n / 64 + 2) va n).foldl (fun acc p =>
    match acc with
    | (.fault c a l, s) => (.fault c a l, s)
    | (.ok bs bad, s) =>
      match xlateNow s d x p.1 (if img then kOther else kLoad) false img with
      | (.ok pa _, s) =>
        if physFault s pa kLoad then (.fault 0x21 p.1 0, s)
        else
          let (b, p', s) := physRead s pa p.2
          (.ok (bs ++ b) (bad || p'), s)
      | (.fault c l, s) => (.fault c p.1 l, s)
      | (.miss, s) => (.fault 0x20 p.1 0, s)) (.ok [] false, s)

/-- Write a virtual range for the device's own use (R338): no interval, never undone. None when a translation faults or
the range meets a view (R152). An atomic's hold does not delay it (log 115). -/
def writeV (s : State) (d x va : Nat) (bs : List Byte) : Option State :=
  ((vCuts (bs.length / 64 + 2) va bs.length).foldl (fun (acc : Option (State × List Byte)) p =>
    match acc with
    | none => none
    | some (s, rest) =>
      match xlateNow s d x p.1 kWrite false with
      | (.ok pa _, s) => if physFault s pa kWrite then none else some (hostPut s pa (rest.take p.2), rest.drop p.2)
      | _ => none) (some (s, bs))).map Prod.fst

end Sys2Proof.Machine
end

