-- ==== Sys2Proof/Machine/Ops.lean ====
section
/-! DEFINITION. The named operations that every family shares: interrupts, records, and taking a fault against a
context (R142, R158, R290, R291, R350, R353). The return from a fault is the re-fire of a held firing (R99), beside it
here as `clearCause`. -/

namespace Sys2Proof.Machine

/-! ### Fault codes -/

def fXLATE : Nat := 0x20
def fPERM : Nat := 0x21
def fWORLD : Nat := 0x22
def fALIGN : Nat := 0x23
def fPOISON : Nat := 0x50
def fCOMPARE : Nat := 0x51
def fPARITY : Nat := 0x52
def fREPLAY : Nat := 0x53
def fBLKSTUCK : Nat := 0x14
def fNOHANDLER : Nat := 0x11
def fTAGDUP : Nat := 0x10
def fSTRM : Nat := 0x24
def fEGRESS : Nat := 0x61
def fDEPTH : Nat := 0x40
def fNOKERNEL : Nat := 0x41

/-! ### Interrupts -/

/-- Signal a vector of a host function (R304, R315, R397). -/
def hostInterrupt (s : State) (fn vec : Nat) : State := { s with intrs := s.intrs ++ [.host fn vec] }

/-- Wake a halted core: the completion of its halt is met (R295). -/
def wakeCore (s : State) (u : Nat) : State :=
  let isHalt := fun (p : Pend) => p.eff == .halt && (match p.who with | .oper v _ => v == u | _ => false)
  let met := (s.pend.filter isHalt).map (·.id)
  let s := s.modUnit u fun v => { v with halted := false }
  { s with pend := s.pend.filter (fun p => !isHalt p), outstanding := s.outstanding.filter (fun k => !met.contains k) }

/-- An interrupt reaches the system cores (R412): the source goes to channel 0 of slot 0 of each core that runs a kernel,
and wakes it. Which core takes it is not said; every core does (log 11). -/
def coreDeliver (s : State) (source : Nat) : State :=
  (upFrom 0 8).foldl (fun s k =>
    let u := coreKey k
    match s.op? u 0 with
    | none => s
    | some _ =>
      let (n, s) := s.newKey
      let t : Token := { pay := BitVec.ofNat 64 source }
      let s := { s with
        intrs := s.intrs ++ [.core k source]
        flight := s.flight ++ [{ id := n, ctx := fwCtx, src := .none, dst := .chan u 0 0, item := .tok t }] }
      wakeCore s u) s

/-- An interrupt to the system cores (R412): that of a record raised during a live update is queued for the image that runs
afterwards (R408). -/
def coreInterrupt (s : State) (source : Nat) : State :=
  if source == 5 && (s.fw.switching || s.fw.updating) then { s with fw := { s.fw with queued := s.fw.queued ++ [source] } }
  else coreDeliver s source

/-! ### Records (R142, R291) -/

/-- An index claimed in a log whose status word is `st` (R142): NEXT rises in every case. -/
def claimNext (st : Word) : Word := wput st 31 0 (wbits st 31 0 + 1)
/-- A record dropped: LOST rises, saturating, and OVF is set (R142). -/
def dropRecord (st : Word) : Word := wput (wput st 47 32 (satAt 0xFFFF (wbits st 47 32 + 1))) 63 63 1

/-- The 64 bytes of a fault record (R291); `who` fills bytes 0x0E-0x0F of a triage record with its context (R351). -/
def recordBytes (r : FaultRec) (who : Nat) : List Byte :=
  bytesOf 1 r.code ++ bytesOf 1 r.outcome ++ bytesOf 1 r.die ++ bytesOf 1 r.cl ++ bytesOf 1 r.tarn ++ bytesOf 1 r.oper
  ++ bytesOf 1 r.block ++ bytesOf 1 r.slot ++ bytesOf 2 r.tag ++ bytesOf 1 r.sq ++ bytesOf 1 r.attempt
  ++ bytesOf 1 r.chan ++ bytesOf 1 r.depth ++ bytesOf 2 who ++ bytesOf 8 r.addr.toNat ++ bytesOf 8 r.iv
  ++ (r.source ++ bytesOf 16 0).take 16 ++ bytesOf 8 r.time ++ bytesOf 8 r.detail.toNat

/-- A unit as the place of a fault (R291): 0xFF names a node, 0xFE a core. -/
def unitSite (u : Nat) : FaultRec :=
  { die := unitDie u, cl := unitCl u, tarn := if isCore u then 0xFE else if isNode u then 0xFF else unitTarn u }

/-- An engine of a die as the place of a fault (R291). -/
def engineSite (d c : Nat) : FaultRec := { die := d, cl := c, tarn := 0xFE }

/-- A slot of a firing's running block as the place of a fault (R291). -/
def firingSite (s : State) (f : FireRef) (slot : Nat) : FaultRec :=
  let g := (s.firing? f).getD {}
  { unitSite f.u with
    oper := f.op, block := g.block, slot := slot, tag := g.tag, attempt := (s.region (s.regOf f.u)).replays }

/-- The contributor record's bytes (R172). -/
def contribBytes (c : Contrib) : List Byte :=
  bytesOf 2 c.dev ++ bytesOf 1 (c.kind * 16 + c.die) ++ bytesOf 1 c.oper ++ bytesOf 2 c.unit ++ bytesOf 2 c.tag
  ++ bytesOf 1 c.attempt ++ bytesOf 1 ((if c.x then 1 else 0) + (if c.p then 2 else 0) + c.gen % 4 * 4) ++ bytesOf 2 0 ++ bytesOf 4 c.csum

/-- A unit as DEV, UNIT_KIND and UNIT of a contributor record (R172, R291). -/
def unitContrib (s : State) (u : Nat) : Contrib :=
  { dev := s.devId, kind := if isNode u then 1 else 0, die := unitDie u
    unit := unitCl u * 16 + (if isNode u then 0 else unitTarn u) }

/-- The sender of a token as SOURCE of a TAG_DUP or NO_HANDLER record (R93, R291). -/
def senderSource (s : State) (a : Agent) : List Byte :=
  match a with
  | .oper u _ => contribBytes (unitContrib s u)
  | .port d c _ => contribBytes (unitContrib s (tarn0 d c))
  | .shore v u => contribBytes { dev := v, unit := u }
  | _ => bytesOf 16 0

/-- The function and vectors of a context's partition, while the table is enabled (R397). -/
def partInterrupt (s : State) (p off : Nat) : State :=
  if wbit (s.devReg 0x306) 0 then hostInterrupt s (partFn s p) (ptabByte s p off) else s

/-- The next record switches a pending change of fault triage (R18). -/
def switchDuty (s : State) (k : Nat) : State :=
  let r := s.devReg 0x305
  s.setDev 0x305 (wput r (8 + k) (8 + k) (wbits r k k))

/-- The tiers' codes (R353), whose records also go to the triage queue under TRIAGE_HOST (R351). -/
def tierCode (c : Nat) : Bool := c == fXLATE || c == fPARITY || c == fCOMPARE || c == fPOISON || c == fREPLAY

/-- Write a triage record for a context (R351): a ring in host memory reached through PF0, whose vector 0 is signalled
(R403). Record k lies at BASE + 64k (log 12). -/
def writeTriage (s : State) (x : Nat) (r : FaultRec) : State :=
  let q := s.devReg 0x30B
  let st := s.devReg 0x30C
  let s := hostInterrupt s 0 0
  if !wbit q 4 then s
  else
    let k := wbits st 31 0
    if k < 2 ^ (wbits q 3 0 + 6) then
      { s.setDev 0x30C (claimNext st) with
        hostMem := memPut s.hostMem (wbits q 63 12 * 4096 + 64 * k) (recordBytes r (x % 256)) }
    else s.setDev 0x30C (dropRecord (claimNext st))

/-- Write a fault record against a context (R291): the depth, interval and time are those of the context and the die
at detection; an index is claimed and the record dropped as R142 says; the partition's vector is signalled, and the
cores take source 5 (R412). A fault of the firmware has no context and no record (log 13). -/
def writeRecord (s : State) (x : Nat) (r : FaultRec) : State :=
  if x == fwCtx then s
  else
    let s := switchDuty s 2
    let r := { r with depth := wbits (s.ctxReg x 0x18) 7 0, iv := if r.iv == 0 then (s.ctxReg x 1).toNat else r.iv, time := s.clk }
    let fq := s.ctxReg x 6
    let s := if s.triageHost && tierCode r.code then writeTriage s x r else s
    let s := coreInterrupt s 5
    if !wbit fq 4 then s
    else
      let st := s.ctxReg x 7
      let k := wbits st 31 0
      let s := partInterrupt s (s.ctx x).part 3
      let put := if k < 2 ^ (wbits fq 3 0 + 6) then
          writeV s (if r.die < 8 then r.die else 0) x (wbits fq 55 12 * 4096 + 64 * k) (recordBytes r 0)
        else none
      match put with
      | some s => s.setCtx x 7 (claimNext st)
      | none => s.setCtx x 7 (dropRecord (claimNext st))

/-! ### Seal messages (R346, R378, R391) -/

/-- The TYPE bytes of R378. -/
def pkWRITE : BitVec 8 := 0
def pkACK : BitVec 8 := 1
def pkTOKEN : BitVec 8 := 2
def pkSEAL : BitVec 8 := 3
def pkPART : BitVec 8 := 4
def pkVALUE : BitVec 8 := 5
def pkCTL : BitVec 8 := 7
def pkPOOLOP : BitVec 8 := 8

/-- A SEAL marker (R391). -/
def sealPacket (s : State) (phase iv : Nat) : Packet := { typ := pkSEAL, src := s.devId, iv := iv, body := bytesOf 1 phase }

/-- Send a seal message toward the leader: the leader's own goes to itself (R391). -/
def sealUp (s : State) (phase iv : Nat) : State :=
  if s.leader then { s with sealMsgs := s.sealMsgs ++ [sealPacket s phase iv] }
  else { s with sentPkts := s.sentPkts ++ [(wbits (s.devReg 0x311) 4 0, sealPacket s phase iv)] }

/-- Send a seal message to the devices below this one (R391). -/
def sealDown (s : State) (phase iv : Nat) : State :=
  let down := wbits (s.devReg 0x311) 22 5
  { s with sentPkts := s.sentPkts ++
      ((upFrom 0 18).filter fun n => down / 2 ^ n % 2 == 1).map fun n => (n, sealPacket s phase iv) }

/-- Where a close request comes from (R346). -/
inductive CloseBy where
  | sealInstr | register | packet | threshold | launch | irrev
  deriving DecidableEq, Repr, Inhabited

/-- Ask the leader to close the open interval (R346); requests before the close merge, and SEAL_HOST forbids the
sources it names. -/
def requestClose (s : State) (by_ : CloseBy) : State :=
  let allowed := !s.sealHost || by_ == .packet || by_ == .threshold || by_ == .irrev
  if !allowed || s.sealing.asked then s
  else sealUp { s with sealing := { s.sealing with asked := true } } 0 s.iv

/-- Ask the leader for a rollback (R350); what this device asks before the rollback arrives merges (log 37). -/
def requestRollback (s : State) : State :=
  if s.sealing.rolling then s else sealUp { s with sealing := { s.sealing with rolling := true } } 4 0

/-! ### Stopping -/

/-- Answer the barws that wait at a barrier (R334). -/
def answerBar (b : Bar) (r : Bool × List Nat) : Bar :=
  { b with waits := b.waits.map fun (w : BarWait) => if w.res.isNone then { w with res := some r } else w }

/-- A barrier fails (R334): its queued marker commands and its markers are discarded, and waiting barws yield null. -/
def failBar (b : Bar) : Bar :=
  if b.st == .armed || b.st == .propagating then { answerBar b (false, []) with st := .failed, cmds := [] } else b

/-- A BARRIER marker of a barrier. -/
def isBar (b : Nat) : Item → Bool
  | .mark .barrier n => n == b
  | _ => false

/-- A plane without the markers of a barrier: its segments merge. -/
def Plane.unmark (p : Plane) (b : Nat) : Plane :=
  let keepH := fun (l : List Held) => l.filter fun h => !isBar b h.item
  let keepF := fun (l : List Flight) => l.filter fun f => !isBar b f.item
  { p with
    ops := p.ops.map fun o => (o.1, { o.2 with chans := o.2.chans.map fun c => (c.1, { c.2 with held := keepH c.2.held }) })
    ports := p.ports.map fun q => (q.1, { q.2 with held := keepH q.2.held })
    arrival := keepF p.arrival, ovf := keepF p.ovf }

/-- The unit a destination lies in. -/
def destAt : Dest → Nat
  | .chan u _ _ => u
  | .port d c _ => tarn0 d c

/-- Discard a barrier's markers and its marker commands, queued and on their way to a queue, in a region's active planes
(R334). -/
def clearMarks (s : State) (k b : Nat) : State :=
  let r := s.region k
  let us := r.units
  let s := { s with
    flight := s.flight.filter fun f => !(isBar b f.item && us.contains (destAt f.dst))
    pend := s.pend.filter fun p => !(p.own.reg == k && (match p.eff with | .marker _ _ n => n == b | _ => false)) }
  let s := r.clusters.foldl (fun s c => s.modCluster r.die c fun q =>
    { q with queue := q.queue.filter fun m => !(m.kind == .marker b && m.own.reg == k) }) s
  us.foldl (fun s u => s.modPlane u fun p => p.unmark b) s

/-- Whether a barrier is armed or propagating. -/
def barBusy (b : Bar) : Bool := b.st == .armed || b.st == .propagating

/-- The armed and propagating barriers of a region fail with a stop of it (R334). -/
def failBars (s : State) (k : Nat) : State :=
  (s.region k).bars.foldl (fun s b =>
    if barBusy b.2 then
      let s := match b.2.opId with | some n => s.meet n | none => s
      clearMarks (s.modRegion k fun r => { r with bars := tabMod r.bars b.1 fun c => { failBar c with opId := none } }) k b.1
    else s) s

/-- Stop every region of a context (R290): the context is stopped, its pending fault entries end (R376), its armed
barriers fail (R334). -/
def stopContext (s : State) (x : Nat) : State :=
  let s := s.modCtx x fun c =>
    { c with
      st := if c.st == .running || c.st == .checkpointing || c.st == .resuming then .stopped else c.st
      pends := [], preempt := false }
  (ctxRegions s x).foldl (fun s k => failBars (s.modRegion k fun r => { r with stopped := true }) k) s

/-- The firmware of a core stops (R412): the core starts nothing more until the watchdog restarts it. -/
def stopCore (s : State) (u : Nat) : State :=
  { s with fw := { s.fw with halted := setAdd s.fw.halted (coreOf u) } }

/-! ### Taking a fault -/

/-- The OUTCOME of a fault (R17, R158, R291, R350, R351, R353, R375): a translation fault is served by the host or
stops the context; poison and an exhausted replay roll back, or stop the region for the host; the rest stop the
region. -/
def outcomeOf (s : State) (code : Nat) : Nat :=
  if code == fXLATE then (if s.pageHost then 1 else 5)
  else if code == fPOISON || code == fREPLAY then (if s.triageHost then 2 else 4)
  else 2

/-- Note a miss of a page under PAGE_HOST (R376): whether it makes a new entry. -/
def isPending (s : State) (x va : Nat) : Bool := (s.ctx x).pends.any fun p => p.va == va / 65536 * 65536
def addPending (s : State) (x va : Nat) (site : FaultRec) : State :=
  s.modCtx x fun c => { c with pends := c.pends ++ [{ va := va / 65536 * 65536, site := site }] }

/-- FAULTS counts a translation fault that is recorded. -/
def countXlate (s : State) (x : Nat) : State := s.modCtx x fun c => { c with faults := satAt 0xFFFF (c.faults + 1) }

/-- A tier-2 or tier-3 fault counted against a cluster (R353): three within 2^31 cycles bring its retirement, or under
TRIAGE_HOST a record for the host (R351). -/
def countAt (s : State) (x die cl : Nat) : State :=
  let c := clKey die cl
  let old := (tabGet s.clTab c).faults.filter fun t => s.clk < t + 2147483648
  let s := { s with clTab := tabMod s.clTab c fun v => { v with faults := old ++ [s.clk] } }
  if old.length + 1 < 3 then s
  else
    let s := { s with clTab := tabMod s.clTab c fun v => { v with faults := [] } }
    if s.triageHost then writeTriage s x { code := fPARITY, die := die, cl := cl, time := s.clk, iv := (s.ctxReg x 1).toNat }
    else { s with fw := { s.fw with retire := setAdd s.fw.retire c } }

/-- Poison that a unit or port of a cluster consumed counts against that cluster (R353; log 66). -/
def countPoison (s : State) (x code : Nat) (site : FaultRec) : State :=
  if code == fPOISON && site.die < 8 && site.tarn ≠ 0xFE then countAt s x site.die site.cl else s

/-- Take a fault against a context: the ONE way a fault is raised (R158, R290, R291, R353, R375). The record is written
with its outcome; outcome 2 and 5 stop the context's regions, 4 asks the leader for a rollback. Under PAGE_HOST a
translation fault of a page that is already pending joins its entry without a record (R376). `u` is the unit for a
fault of the firmware, which stops its core (R412). -/
def takeFault (s : State) (x u code : Nat) (site : FaultRec) : State :=
  if x == fwCtx then stopCore s u
  else
    let va := site.addr.toNat % 2 ^ 56
    if outcomeOf s code == 1 then
      let site := { site with code := code, outcome := 1 }
      if isPending s x va then s else writeRecord (countXlate (addPending s x va site) x) x site
    else
      let s := switchDuty s 2
      let out := outcomeOf s code
      let s := if code == fXLATE then countXlate s x else s
      let s := countPoison (writeRecord s x { site with code := code, outcome := out }) x code site
      if out == 4 then requestRollback (s.modCtx x fun c => { c with rolls := true }) else stopContext s x

/-- A notice (R291): a record and nothing else. -/
def takeNotice (s : State) (x code : Nat) (site : FaultRec) : State := writeRecord s x { site with code := code, outcome := 0 }

/-! ### What a rollback returns to (R143, R236, R311) -/

/-- What work of an interval changes also stands in what is kept for a rollback past later intervals. -/
def laterSnaps (s : State) (x iv : Nat) (f : Snap → Snap) : State :=
  { s with snaps := s.snaps.map fun v => if v.ctx == x && iv < v.iv then f v else v }
/-- A register of a snapshot changes. -/
def Snap.modReg (v : Snap) (n : Nat) (f : Word → Word) : Snap := { v with regs := tabMod v.regs n f }
/-- A counted register of a context changes by work of an interval. -/
def countReg (s : State) (x iv n : Nat) (f : Word → Word) : State :=
  laterSnaps (s.setCtx x n (f (s.ctxReg x n))) x iv fun v => v.modReg n f

/-! ### Parameter tables and patches (R318, R324) -/

def group? (s : State) (x addr : Nat) : Option Group := s.groups.find? fun g => g.ctx == x && g.addr == addr
def modGroup (s : State) (x addr : Nat) (f : Group → Group) : State :=
  { s with groups := listMod (fun g => g.ctx == x && g.addr == addr) f s.groups }
/-- A parameter table of a group. -/
def Group.tab (g : Group) (t : Nat) : Tab Word := if t == 0 then g.tab0 else g.tab1
/-- Table t of a group becomes a table. -/
def Group.setTab (g : Group) (t : Nat) (w : Tab Word) : Group := if t == 0 then { g with tab0 := w } else { g with tab1 := w }

/-- Whether a table of a group is pinned. -/
def tabPinned (s : State) (x g t : Nat) : Bool := s.launches.any fun l => l.ctx == x && l.group == g && l.pinned && l.table == t

/-- Whether a patch may apply: an earlier waiting patch of the group comes first. -/
def patchReady (s : State) (x g id : Nat) : Bool :=
  !((s.patches.takeWhile fun p => p.id ≠ id).any fun p => p.ctx == x && p.group == g) && !(tabPinned s x g 0 && tabPinned s x g 1)

/-- The fault of a gpatch (R324): a group that is not staged (log 111), or a node past its last. -/
def patchFault (s : State) (x g node : Nat) : Option Word :=
  match group? s x g with
  | none => some (BitVec.ofNat 64 g)
  | some q => if node ≥ q.nnode then some (BitVec.ofNat 64 node) else none

/-! ### Aborting and re-firing a block (R99, R101) -/

/-- The iterations a block was granted go back to their lists, the cursor staying (R117). -/
def returnGrants (s : State) (reg : Nat) (gs : List (Nat × Nat)) : State :=
  gs.foldl (fun s g => s.modRegion reg fun r =>
    { r with lists := tabMod r.lists g.1 fun l =>
        { l with live := l.live.filter (· ≠ g.2), since := l.since.filter (· ≠ g.2) } }) s

/-- An abort releases the frame bytes a block reserved while they are still topmost (R166): `fallocs` are the tops it
set, the latest first, each with the top before it. -/
def returnFrames (s : State) (u : Nat) (fs : List (Nat × Nat)) : State :=
  fs.foldl (fun s p => s.modPlane u fun q => if q.top == p.1 then { q with top := p.2 } else q) s

/-- What an abort leaves of a firing's waits at pool homes (R187, R191): a pswap goes on without an asker and closes its
generation; the others are withdrawn. A drain keeps them all, so that the re-fire finds them with their elapsed cycles. -/
def abortWaits (f : FireRef) (drain : Bool) (ws : List Wait) : List Wait :=
  ws.filterMap fun w =>
    match w.asker with
    | .fire h _ =>
      if h ≠ f || drain then some w
      else if w.kind == .pswap && w.res.isNone then some { w with asker := .gone } else none
    | _ => some w

/-- Abort a firing's block or repetition (R99): staged effects, pending writes and tokens inside the block are
discarded, holds are given up with their old values (R162), waiting requests are withdrawn, iterations granted and not yet
taken among them (R117), and the firing is held for its cause. `drain` marks an abort that a freeze or checkpoint asks for. -/
def abortFiring (s : State) (f : FireRef) (c : Cause) (drain : Bool := false) : State :=
  match s.firing? f with
  | none => s
  | some g =>
    let ids := g.staged.map (·.id)
    let asked := ((s.region (s.regOf f.u)).tagReqs.filter fun q => q.f == f).filterMap fun q => q.grant.map fun n => (q.lreg, n)
    let s := returnGrants s (s.regOf f.u) (g.grants ++ asked)
    let s := returnFrames s (memUnit f.u) g.frees
    let s := { s with
      outstanding := s.outstanding.filter (fun k => !ids.contains k)
      holds := s.holds.filter (fun h => h.f ≠ f || s.pend.any (fun p => p.eff == Eff.hold h.id))
      oaWaits := s.oaWaits.filter (fun w => w.f ≠ f)
      pools := s.pools.map fun (p : Nat × Pool) => (p.1, { p.2 with waits := abortWaits f drain p.2.waits })
      poolLeft := s.poolLeft.filter fun w => drain || (match w.2.2.asker with | .fire h _ => h ≠ f | _ => true)
      dies := s.dies.map fun (d : Nat × Die) => (d.1, { d.2 with leaves := d.2.leaves.filter fun l =>
        match l.who with | .mmaOne h _ => h ≠ f || l.until_.isSome | .inst h _ => h ≠ f || l.until_.isSome | _ => true }) }
    let s := s.modRegion (s.regOf f.u) fun r =>
      { r with tagReqs := r.tagReqs.filter (fun q => q.f ≠ f)
               bars := r.bars.map fun b => (b.1, { b.2 with waits := b.2.waits.filter fun w => w.f ≠ f }) }
    let s := if isNode f.u then s.modNode f.u fun n =>
        { n with kstep := n.kstep.map fun k => if k.f == f then { k with live := false } else k } else s
    s.modFiring f fun g =>
      { g with st := .held, refire := true, cause := c, pos := [], fired := [], staged := [], wrs := [], branch := none
               grants := [], frees := [], tagfrees := [], started := false }

/-- The return from a fault (R99, R101): a held firing whose cause has cleared is ready to re-fire. -/
def clearCause (s : State) (f : FireRef) : State :=
  s.modFiring f fun g => if g.st == .held then { g with st := .ready, since := s.clk, slot0 := (s.unit f.u).issues } else g

/-- A fault inside a block: the fault is taken and the block aborts (R99, R158). A translation fault's block waits for
its page; any other waits for the stop or the rollback its fault brings, and never re-fires of itself. -/
def blockFault (s : State) (f : FireRef) (slot code : Nat) (addr : Word) : State :=
  let x := s.ctxOf f.u
  let s := takeFault s x f.u code { firingSite s f slot with addr := addr }
  abortFiring s f (if code == fXLATE then .walk x (addr.toNat % 2 ^ 56 / 65536 * 65536) else .rollback)

/-- A token, block or transfer counts as progress of its region (R317). -/
def touchRegion (s : State) (k : Nat) : State := s.modRegion k fun r => { r with activity := s.clk }
/-- What a task's work does counts for all its regions (R317, R355). -/
def touchTask (s : State) (k : Nat) : State :=
  match (s.region k).mirror with
  | some m => touchRegion (touchRegion s k) m
  | none => touchRegion s k
def touchUnit (s : State) (u : Nat) : State := if isCore u then s else touchRegion s (s.regOf u)
def touchCtx (s : State) (x : Nat) : State := (ctxRegions s x).foldl touchRegion s

/-- Whether a context's work may go on (R285, R290): it runs, or is being saved up to its cut, and awaits no rollback. -/
def ctxRuns (s : State) (x : Nat) : Bool :=
  x == fwCtx || (((s.ctx x).st == .running || (s.ctx x).st == .checkpointing) && !(s.ctx x).rolls)

end Sys2Proof.Machine
end

