-- ==== Sys2Proof/Machine/Access.lean ====
section
/-! DEFINITION. How a unit reaches memory (R144-R148, R155-R158, R162): address spaces, holds, and the bytes a load
returns. -/

namespace Sys2Proof.Machine

/-- The end e of the frame carve-out, in frame space (R146, R147). -/
def frameEnd (v : UnitS) : Nat := wbits v.split 15 8 * 1024
/-- The bytes of the shared scratch area (R146); a system core's scratch is one area of 64 KiB (R412). -/
def sharedSize (s : State) (u : Nat) : Nat := if isCore u then 65536 else wbits (s.unit (memUnit u)).split 39 32 * 1024

/-- ctx.ovflim USED (R147, R149): the largest overflow use of the tarns of a context's regions, in 64-byte units. -/
def noteUsed (s : State) (x : Nat) : State :=
  let use := (ctxRegions s x).foldl (fun n k => (s.region k).units.foldl (fun n u =>
    if isNode u || (s.unit u).owner ≠ some k then n
    else max n (((s.unit u).plane.top - frameEnd (s.unit u) + 63) / 64)) n) 0
  s.setCtx x 0x13 (wput (s.ctxReg x 0x13) 63 32 use)

/-- The sub-area index t of a tarn: 16 × region cluster + tarn, counted across the regions in table order (R147). -/
def subArea (s : State) (u : Nat) : Nat :=
  let k := s.regOf u
  let r := s.region k
  let before := ((upFrom 0 r.idx).map fun i => let q := s.region (regKey r.ctx i); q.width * q.height).sum
  16 * (before + r.indexOf (unitCl u)) + unitTarn (memUnit u)

/-- The virtual address of byte `off` of a tarn's overflow sub-area (R147, R148). -/
def ovfVA (s : State) (u off : Nat) : Nat :=
  let x := s.ctxOf u
  wbits (s.ctxReg x 0x12) 55 6 * 64 + subArea s u * (wbits (s.ctxReg x 0x13) 31 0 * 64) + off

/-- Where an address of an instruction leads: a place with the page's interval class and policy, a walk to wait for,
or a fault with its ADDR. -/
inductive Addr where
  | ok (loc : Loc) (cls policy : Nat)
  | miss (va : Nat)
  | fault (code : Nat) (addr : Word)
  deriving DecidableEq, Repr, Inhabited

/-- Translate a global address for a unit (R155, R368): bits [63:56] not zero is XLATE. -/
def globalAddr (s : State) (u va kind : Nat) : Addr :=
  if va ≥ 2 ^ 56 then .fault fXLATE (xAddr va kind 0)
  else
    match xlate s (unitDie u) (s.ctxOf u) va kind (!isCore u) with
    | .miss => .miss va
    | .fault c l => .fault c (xAddr va kind l)
    | .ok pa leaf =>
      if physFault s pa kind then .fault fPERM (BitVec.ofNat 64 va) else .ok (.mem pa) (pteClass leaf) (bits leaf 9 8)

/-- The place of an access of `size` bytes at an address of an address space (R144, R148, R155). -/
def unitAddr (s : State) (u asp : Nat) (a : Word) (size kind : Nat) : Addr :=
  let m := memUnit u
  if (asp == 0 || asp == 3) && a.toNat ≥ 2 ^ 56 then .fault fXLATE (xAddr a.toNat kind 0)
  else if a.toNat % size ≠ 0 then .fault fALIGN a
  else if asp == 1 then
    if a.toNat ≥ sharedSize s u then .fault fPERM a else .ok (.scratch m a.toNat) 1 0
  else if asp == 2 then
    let p := (s.unit m).plane
    let e := frameEnd (s.unit m)
    if a.toNat ≥ p.top - p.base then .fault fPERM a
    else if p.base + a.toNat < e then .ok (.scratch m (sharedSize s u + p.base + a.toNat)) 1 0
    else globalAddr s u (ovfVA s u (p.base + a.toNat - e)) kind
  else globalAddr s u a.toNat kind

/-! ### Holds (R162) -/

/-- The place an atomic reaches (R148, R162): 0 the tarn, 1 + d the L2 slice of die d, 100 the home MSC bank. A frame
address in the overflow area is reached as AS 0 at tarn scope. -/
def atomicPlace (u : Nat) (loc : Loc) (scope policy : Nat) : Nat :=
  match loc with
  | .scratch _ _ => 0
  | _ => if scope ≤ 2 && policy ≠ 2 then 1 + unitDie u else 100

/-- The ordered-atomic buffer of a place (R163): each tarn, each of a die's 64 L2 slices and each of its 16 home banks
has one. The hash that spreads lines over slices and banks is free (log 96). -/
def oaPlace (loc : Loc) (place : Nat) : Nat :=
  match loc with
  | .scratch u _ => u
  | .mem pa =>
    if place == 100 then 100000 + homeDie pa * 16 + Config.bankOf (pa / 64) % 16
    else 200000 + place * 64 + Config.sliceOf (pa / 64) % 64
  | .host _ _ => 300000

/-- The line of a place. -/
def locLine : Loc → Loc
  | .mem pa => .mem (lineOf pa)
  | .host f a => .host f (lineOf a)
  | .scratch u a => .scratch u (lineOf a)

/-- Whether a hold on a line stops an access at a place; a plain access of die d reaches d's L2 and the home bank. -/
def heldAt (s : State) (f : FireRef) (loc : Loc) (places : List Nat) : Bool :=
  s.holds.any fun h => h.f ≠ f && locLine h.loc == locLine loc && places.contains h.place

/-- The places that a plain load or store of a die's agent reaches. -/
def plainPlaces (d : Nat) : List Nat := [0, 1 + d, 100]

/-! ### Reading -/

/-- The bytes at a place, P, the identity that what follows the read depends on, and the state after it. `floor` is the place
in M that a load follows, none for what reads the newest bytes (R162, R252). A scratch word with a two-bit error reads
poisoned (R100, R158). -/
def locRead (s : State) (floor : Option Nat) (loc : Loc) (n : Nat) : List Byte × Bool × List Nat × State :=
  match loc with
  | .mem pa =>
    if inRegSpace pa then (regSpaceBytes s pa n, false, [], s)
    else
      match floor with
      | some p => loadAt s p s.clk pa n
      | none => let (bs, bad, s) := physRead s pa n; (bs, bad, [], s)
  | .host _ a => (memBytes s.hostMem a n, false, [], s)
  | .scratch u a =>
    let v := s.unit u
    (memBytes v.scratch a n, v.bad.any fun w => w < a + n && a < w + 8, [], s)

/-- Lay bytes of one place over bytes read at another, where they overlap. -/
def overlay (loc : Loc) (bs : List Byte) (loc' : Loc) (bs' : List Byte) : List Byte :=
  let lay := fun a a' => (bs.zipIdx).map fun p =>
    if a' ≤ a + p.2 && a + p.2 < a' + bs'.length then bs'.getD (a + p.2 - a') 0 else p.1
  match loc, loc' with
  | .mem a, .mem a' => lay a a'
  | .scratch u a, .scratch u' a' => if u == u' then lay a a' else bs
  | _, _ => bs

/-- A place some bytes on. -/
def Loc.shift (l : Loc) (n : Nat) : Loc :=
  match l with
  | .mem a => .mem (a + n)
  | .host f a => .host f (a + n)
  | .scratch u a => .scratch u (a + n)

/-- Whether two ranges of bytes meet. -/
def Loc.meets (l : Loc) (n : Nat) (l' : Loc) (n' : Nat) : Bool :=
  match l, l' with
  | .mem a, .mem a' => a < a' + n' && a' < a + n
  | .host f a, .host f' a' => f == f' && a < a' + n' && a' < a + n
  | .scratch u a, .scratch u' a' => u == u' && a < a' + n' && a' < a + n
  | _, _ => false

/-- The bytes that a store or an export writes. -/
def Eff.ranges : Eff → List (Loc × Nat)
  | .store l bs _ _ => [(l, bs.length)]
  | .pexp _ _ _ _ _ segs => segs.map fun g => (g.1, g.2.1)
  | _ => []
/-- Whether two effects are stores to overlapping bytes, which one operator performs in release order (note 1 of R260). -/
def storesMeet (e e' : Eff) : Bool := e.ranges.any fun a => e'.ranges.any fun b => a.1.meets a.2 b.1 b.2

/-- Whether two holds write overlapping bytes. -/
def holdsMeet (h g : Hold) : Bool :=
  h.writes.any fun w => g.writes.any fun v => ((locLine h.loc).shift w.1).meets w.2.length ((locLine g.loc).shift v.1) v.2.length

/-- The staged effects of a block that come before what depends on `deps`, in slot order: those of the set, and the lower
stores that a store among them overlaps (R157, note 1 of R260). -/
def ownBefore (g : Firing) (deps : List Nat) : List Staged :=
  (sortBy (fun (a b : Staged) => a.slot < b.slot) g.staged).foldr (fun t acc =>
    if deps.contains t.id || acc.any (fun q => storesMeet t.eff q.eff) then t :: acc else acc) []

/-- The dependency set of a hold's staged effect. -/
def holdDeps (g : Firing) (h : Hold) : List Nat := ((g.staged.find? fun t => t.eff == .hold h.id).map (·.deps)).getD []

/-- The holds of a firing on a line that a read sees (R162): all of them for an atomic, which follows them in the order in
which they were taken (note 3 of R260); for a load those of its dependency set and earlier ones on the same bytes. -/
def ownHolds (s : State) (f : FireRef) (g : Firing) (deps : List Nat) (all : Bool) (loc : Loc) : List Hold :=
  (s.holds.filter fun h => h.f == f && locLine h.loc == locLine loc).foldr (fun h acc =>
    if all || (g.staged.any fun t => t.eff == .hold h.id && deps.contains t.id) || acc.any (holdsMeet h) then h :: acc else acc) []

/-- Lay staged stores that have not been laid yet over bytes. -/
def layStores (loc : Loc) (ts : List Staged) (p : List Byte × List Nat) : List Byte × List Nat :=
  ts.foldl (fun p t =>
    match t.eff with
    | .store l b _ _ => if p.2.contains t.id then p else (overlay loc p.1 l b, t.id :: p.2)
    | _ => p) p

/-- What a block sees of its own staged effects (R157, R162): the holds in the order they were taken, before each the
stores it depends on, and last the other stores that an edge orders before the read. -/
def ownView (s : State) (f : FireRef) (g : Firing) (deps : List Nat) (all : Bool) (loc : Loc) (bs : List Byte) : List Byte :=
  let p := (ownHolds s f g deps all loc).foldl (fun (p : List Byte × List Nat) h =>
    let p := layStores loc (ownBefore g (holdDeps g h)) p
    (h.writes.foldl (fun bs w => overlay loc bs ((locLine h.loc).shift w.1) w.2) p.1, p.2)) (bs, [])
  (layStores loc (ownBefore g deps) p).1

/-- The place of M that a region's read with a dependency set comes after (R252, R319): the operations of the set, and what
had performed when its task was dispatched. -/
def readFloor (s : State) (k : Nat) (deps : List Nat) : Nat := max (s.region k).floor (s.depPos deps)

/-- A read of a firing at a place: bytes, P, identities for the dependency set of what follows, and the state (R157, R158).
A load may read what stores of the last 4,096 cycles replaced (R252, R254); an atomic reads the newest bytes. -/
def fireRead (s : State) (f : FireRef) (g : Firing) (deps : List Nat) (atomic : Bool) (loc : Loc) (n : Nat) :
    List Byte × Bool × List Nat × State :=
  let (bs, bad, ids, s) := locRead s (if atomic then none else some (readFloor s (s.regOf f.u) deps)) loc n
  (ownView s f g deps atomic loc bs, bad, ids, s)

/-- Whether a released store of an operator that comes before one of a block's staged stores in a dependency set has yet to
perform (note 1 of R260). -/
def earlierStores (s : State) (u op : Nat) (g : Firing) (deps : List Nat) : Bool :=
  let mine := ownBefore g deps
  s.pend.any fun p => p.who == .oper u op && mine.any fun t => storesMeet p.eff t.eff

/-! ### Performing stores (R97, R157, R340-R345) -/

/-- The close that a die's log asks for when its occupancy reaches three quarters, once an interval (R343). -/
def askThreshold (s : State) (d : Nat) : State :=
  let n := (s.die d).undo.length
  if n ≥ 3 * undoCap s d / 4 && n > 0 && !(s.die d).asked.contains s.iv then
    requestClose (s.modDie d fun x => { x with asked := x.asked ++ [s.iv] }) .threshold
  else s

/-- Perform a store at its place (R157, R338, R344); a full doubleword clears a two-bit error of its scratch word. -/
def performStore (s : State) (loc : Loc) (bs : List Byte) (own : Owner) (cls : Nat) : State :=
  match loc with
  | .mem pa => askThreshold (physStore s pa bs own cls) (homeDie pa)
  | .host _ a => { s with hostMem := memPut s.hostMem a bs }
  | .scratch u a => s.modUnit u fun v =>
      { v with scratch := memPut v.scratch a bs
               bad := v.bad.filter fun w => !(a ≤ w && w + 8 ≤ a + bs.length) }

/-- Whether a store of an interval finds the room it needs (R343, R345): entries of the stores released and not yet
performed are counted in. -/
def storeRoom (s : State) (loc : Loc) (n iv cls : Nat) : Room :=
  match loc with
  | .mem pa =>
    let d := homeDie pa
    if cls == 2 && iv ≠ 0 then
      let waiting := (s.pend.map fun p => match p.eff with
        | .store (.mem q) bs _ 2 => if homeDie q == d && p.own.iv ≠ 0 then 1 + (bs.length + 15) / 16 else 0
        | .hold k => if p.own.iv == 0 then 0 else (s.holds.map fun h => match h.loc with
          | .mem q => if h.id == k && h.cls == 2 && homeDie q == d then 2 * h.writes.length else 0
          | _ => 0).sum
        | _ => 0).sum
      egressRoom s d iv (1 + (n + 15) / 16 + waiting)
    else if undoNeeds s pa iv cls then
      let waiting := (s.pend.filter fun p => match p.eff with
        | .store (.mem q) _ _ 0 => homeDie q == d && undoNeeds s q p.own.iv 0
        | .hold k => s.holds.any fun h => h.id == k && h.cls == 0 && (match h.loc with
          | .mem q => homeDie q == d && undoNeeds s q p.own.iv 0
          | _ => false)
        | _ => false).length
      undoRoom s d iv ((s.die d).undo.length + waiting)
    else .ok
  | _ => .ok

/-- The owner of a unit's work (R338): its region's task, activation and interval; the firmware's work has none. -/
def ownerOf (s : State) (u : Nat) : Owner :=
  if isCore u then { ctx := fwCtx }
  else
    let x := s.ctxOf u
    let r := s.region (s.regOf u)
    { ctx := x, reg := s.regOf u, task := ((s.ctx x).task.map (·.id)).getD 0, act := (r.kref.getD {}).act
      iv := (s.ctxReg x 1).toNat, attempt := r.replays }

end Sys2Proof.Machine
end

