-- ==== Sys2Proof/Machine/Fabric.lean ====
section
/-! DEFINITION. Tokens on a die: destinations (R64, R84), flow control (R96), arrival (R93, R95), the matching store and
matches (R89-R94), segments between markers (R328). -/

namespace Sys2Proof.Machine

/-! ### Configurations of a unit -/

/-- The configuration of the active plane's image in a unit's store (R263). -/
def unitConfig (s : State) (u : Nat) : List OpRec :=
  let v := s.unit u
  ((v.store.find? fun e => e.ctx == s.ctxOf u && e.image == v.plane.image).map (·.opers)).getD []
/-- The descriptor of an operator slot. -/
def opRec? (s : State) (u o : Nat) : Option OpRec :=
  match s.op? u o with
  | none => none
  | some _ => (unitConfig s u).find? fun r => r.slot == o
/-- The record of a channel. -/
def chanRec? (s : State) (u o c : Nat) : Option ChanRec :=
  match opRec? s u o with
  | none => none
  | some r => r.chans.find? fun k => k.ch == c
/-- The input channels of a descriptor, lowest first. -/
def inChans (r : OpRec) : List ChanRec := sortBy (fun (a b : ChanRec) => a.ch < b.ch) (r.chans.filter fun k => !k.out)
def outChans (r : OpRec) : List ChanRec := sortBy (fun (a b : ChanRec) => a.ch < b.ch) (r.chans.filter fun k => k.out)

/-! ### Destinations (R64, R84) -/

/-- Whether a DEST is a remote route, and its entry (R382). -/
def isRemote (d : Nat) : Bool := d / 2 ^ 31 % 2 == 1
/-- The unit of a region-relative cluster, tarn and ND. -/
def destUnit (s : State) (u d : Nat) : Nat :=
  if isCore u then u
  else
    let r := s.region (s.regOf u)
    let c := r.cluster (bits d 17 12) % 64
    if bits d 18 18 == 1 then nodeKey r.die c else unitKey r.die c (bits d 11 8)
/-- The place an on-die DEST of a unit's record names; a cluster outside the region goes on in the row-major numbering,
modulo 64 (log 99). -/
def destOf (s : State) (u d : Nat) : Dest :=
  if !isCore u && bits d 18 18 == 0 && bits d 7 7 == 1 then
    let r := s.region (s.regOf u)
    .port r.die (r.cluster (bits d 17 12) % 64) (bits d 4 0)
  else .chan (destUnit s u d) (bits d 6 4) (bits d 3 0)

/-! ### Flow control (R96) -/

/-- The router hops between two clusters of an 8 × 8 array (log 15). -/
def clHops (a b : Nat) : Nat :=
  let dist := fun x y => if x ≤ y then y - x else x - y
  dist (a / 8) (b / 8) + dist (a % 8) (b % 8)

/-- The entries C of each input channel of a unit's plane: ⌊480 ÷ channels⌋. -/
def chanShare (cfg : List OpRec) : Nat :=
  let n := (cfg.map fun r => (inChans r).length).sum
  480 / max n 1

/-- The ports that are springs (R220). -/
def springPort (p : Nat) : Bool := p ≤ 7 || p == 16 || p == 17

/-- The longest round trip of the routes configured into a channel: of every operator and port of the region. -/
def roundTrip (s : State) (u o c : Nat) : Nat :=
  let r := s.region (s.regOf u)
  let units := if isCore u then [u] else r.units
  let here := Dest.chan u o c
  let fromOps := units.flatMap fun v => (unitConfig s v).flatMap fun q =>
    (outChans q).filterMap fun k => if !isRemote k.dest && destOf s v k.dest == here then some (unitCl v) else none
  let fromPorts := (if isCore u then [] else r.clusters).flatMap fun cl =>
    (s.unit (tarn0 r.die cl)).plane.ports.filterMap fun p =>
      if springPort p.1 && p.2.bound && destOf s (tarn0 r.die cl) p.2.dest == here then some cl else none
  2 * (((fromOps ++ fromPorts).map fun cl => clHops cl (unitCl u)).foldl max 0 + 2)

/-- The OFF threshold of a channel: C − RT; ON is half of it. -/
def offAt (s : State) (u o c : Nat) : Nat := chanShare (unitConfig s u) - roundTrip s u o c

/-- Tokens a channel holds: waiting ones and those of firings that have not consumed theirs (R52). -/
def chanOcc (s : State) (u o c : Nat) : Nat :=
  match s.op? u o with
  | none => 0
  | some q => (tabGet q.chans c).held.length + (q.firings.map fun g => if g.eaten then 0 else (tabGet g.toks c).length).sum

/-- Set a channel's off state from its occupancy: off at OFF, on again at half of it. -/
def updateOff (s : State) (u o c : Nat) : State :=
  let n := chanOcc s u o c
  let off := offAt s u o c
  s.modChan u o c fun h => { h with off := if n ≥ off then true else if n ≤ off / 2 then false else h.off }

/-- The room of a unit's channel-overflow carve-out, in tokens of 16 bytes (R146, R267). -/
def ovfRoom (s : State) (u : Nat) : Nat := wbits (s.unit u).split 23 16 * 64

/-- Whether a unit's region is being drained (R267, R268, R285). -/
def draining (s : State) (u : Nat) : Bool := if isCore u then false else (s.region (s.regOf u)).phase ≠ .run

/-- The tokens of a unit's carve-out that are for a channel. -/
def ovfOf (s : State) (u o c : Nat) : Nat := ((s.unit u).plane.ovf.filter fun f => f.dst == .chan u o c).length

/-- Whether a unit's channel is a declared input channel; a token for another waits in the arrival buffer (R95). -/
def isInput (s : State) (u o c : Nat) : Bool := (chanRec? s u o c).any fun k => !k.out

/-- The tokens on their way into a unit's arrival buffer. -/
def toArrival (s : State) (u : Nat) : Nat :=
  (s.flight.filter fun f => match f.dst with
    | .chan v o c => v == u && !isInput s v o c
    | .port d c p => tarn0 d c == u && 8 ≤ p && p ≤ 18 && !(s.port d c p).bound).length

/-- Whether a unit's arrival buffer of 32 takes one more token after `more` others (R95, R96). -/
def arrivalTakes (s : State) (u more : Nat) : Bool := (s.unit u).plane.arrival.length + toArrival s u + more < 32

/-- The tokens in and on their way to a channel. -/
def chanLoad (s : State) (u o c : Nat) : Nat := chanOcc s u o c + (s.flight.filter fun f => f.dst == .chan u o c).length

/-- The tokens beyond their channels' entries on their way to a unit: they need its carve-out, which its channels share
(R146, R267). -/
def ovfNeed (s : State) (u : Nat) : Nat :=
  let c0 := chanShare (unitConfig s u)
  ((s.unit u).plane.ops.map fun o => (o.2.chans.map fun c => chanLoad s u o.1 c.1 - c0).sum).sum

/-- Whether a destination takes one more token after `more` others: open and with an entry for it (R96); during a freeze
off thresholds are ignored and the carve-out takes what its channel cannot (R267). The tokens on their way count. -/
def destTakes (s : State) (d : Dest) (more : Nat) : Bool :=
  let d := match d with
    | .port dd cl p =>
      if (p == 16 || p == 17) && (s.port dd cl p).bound then destOf s (tarn0 dd cl) (s.port dd cl p).dest else d
    | _ => d
  match d with
  | .chan u o c =>
    if !isInput s u o c then arrivalTakes s u more
    else
      let c0 := chanShare (unitConfig s u)
      let n := chanLoad s u o c + more
      if draining s u then
        n < c0 || ovfNeed s u + (n + 1 - max (chanLoad s u o c) c0) + (s.unit u).plane.ovf.length ≤ ovfRoom s u
      else !(tabGet (tabGet (s.unit u).plane.ops o).chans c).off && n + ovfOf s u o c < c0
  | .port dd cl p =>
    let q := s.port dd cl p
    if q.bound then
      draining s (tarn0 dd cl) || (!q.off && q.held.length + (s.flight.filter fun f => f.dst == d).length + more < 32)
    else arrivalTakes s (tarn0 dd cl) more

/-- Whether a destination takes one more token. -/
def destOpen (s : State) (d : Dest) : Bool := destTakes s d 0

/-- Put a token or marker on its way (R91). -/
def sendFlight (s : State) (x : Nat) (src : Agent) (d : Dest) (i : Item) : State :=
  let (k, s) := s.newKey
  { s with flight := s.flight ++ [{ id := k, ctx := x, src := src, dst := d, item := i }] }

/-! ### Segments and matches (R89, R90, R328) -/

/-- The tokens of the n-th segment of a channel, in arrival order with their arrival numbers: those with the markers of n
barriers before them on their route. Markers of one barrier that follow one another on a route end one segment. Segments
left behind are not among them. -/
def segmentAt (n : Nat) : List Held → List (Agent × Nat) → List (Token × Nat)
  | [], _ => []
  | h :: r, cut =>
    match h.item with
    | .mark _ b => segmentAt n r (if (cut.find? fun c => c.1 == h.src).any fun c => c.2 == b then cut else (h.src, b) :: cut)
    | .tok t =>
      if !h.past && (cut.filter fun c => c.1 == h.src).length == n then (t, h.at_) :: segmentAt n r cut else segmentAt n r cut

/-- The tokens of a channel's current segment (R328). -/
def segment (held : List Held) : List (Token × Nat) := segmentAt 0 held []

/-- The segment that the next item of a route belongs to: the barriers whose markers of that route wait. -/
def routeSeg (held : List Held) (a : Agent) : Nat :=
  ((held.filter fun x => x.src == a).foldl (fun (p : Nat × Option Nat) x =>
    match x.item with
    | .mark _ b => if p.2 == some b then p else (p.1 + 1, some b)
    | .tok _ => p) (0, none)).1

/-- Channel kinds (R84): 0 tagged, 1 stream, 2 multi. -/
def isStream (k : ChanRec) : Bool := k.kind == 1
def isTagged (k : ChanRec) : Bool := k.kind == 0

/-- The due SEQ of the accumulator of a node that a tag is bound to (R199, R200). -/
def dueOf (s : State) (u : Nat) (lreg : BitVec 4) (iter : BitVec 12) : Option Nat :=
  (s.unit u).plane.node.accs.findSome? fun a =>
    match a.2.bind with
    | some (tag, due, _) => if tag == tagNat lreg iter then some due else none
    | none => none

/-- The tokens a firing under a tag takes from a channel, or none when it has too few (R89). With a due SEQ, a tagged
channel of a node gives exactly the tokens that are due (R199). -/
def takeFrom (due : Option Nat) (k : ChanRec) (seg : List (Token × Nat)) (lreg : BitVec 4) (iter : BitVec 12) :
    Option (List (Token × Nat)) :=
  let mine := if isStream k then seg else seg.filter fun t => t.1.lreg == lreg && t.1.iter == iter
  let sorted := if isTagged k then sortBy (fun (a b : Token × Nat) => a.1.sq.toNat < b.1.sq.toNat) mine else mine
  match due, isTagged k with
  | some q, true =>
    let got := (upFrom 0 k.rate).filterMap fun i => sorted.find? fun t => t.1.sq.toNat == (q + i) % 256
    if got.length < k.rate then none else some got
  | _, _ => if sorted.length < k.rate then none else some (sorted.take k.rate)

/-- All channels' tokens for a firing under a tag. -/
def takeAll (due : Option Nat) (q : OpState) (lreg : BitVec 4) (iter : BitVec 12) :
    List ChanRec → Option (List (Nat × List (Token × Nat)))
  | [] => some []
  | k :: r =>
    match takeFrom due k (segment (tabGet q.chans k.ch).held) lreg iter, takeAll due q lreg iter r with
    | some a, some b => some ((k.ch, a) :: b)
    | _, _ => none

/-- The tags held in a channel, oldest first. -/
def heldTags (q : OpState) (ks : List ChanRec) : List (BitVec 4 × BitVec 12 × Nat) :=
  sortBy (fun (a b : BitVec 4 × BitVec 12 × Nat) => a.2.2 < b.2.2)
    (ks.flatMap fun k => (segment (tabGet q.chans k.ch).held).map fun t => (t.1.lreg, t.1.iter, t.2))

/-- Whether an operator's matches use matching-store entries: some input channel is tagged or multi (R90, R94). -/
def usesEntries (r : OpRec) : Bool := (inChans r).any fun k => !isStream k

/-- The tag of an operator's earliest-arrived token still held (R94): one that waits for its match, or one of a firing that
has not consumed its tokens. -/
def oldestTag (q : OpState) (ks : List ChanRec) : Option (BitVec 4 × BitVec 12) :=
  let fs := (q.firings.filter fun g => !g.eaten).map fun g => (g.lreg, g.iter, g.arrived)
  ((heldTags q ks ++ fs).foldl (fun (m : Option (BitVec 4 × BitVec 12 × Nat)) t =>
    match m with
    | some b => if t.2.2 < b.2.2 then some t else m
    | none => some t) none).map fun t => (t.1, t.2.1)

/-- Give entries to the held tags of a unit's operators in arrival order (R94): a shared one of 56, else the operator's
own for its oldest held tag. -/
def giveEntries (s : State) (u : Nat) : State :=
  let cfg := unitConfig s u
  let wants := (s.unit u).plane.ops.flatMap fun p =>
    match cfg.find? (fun r => r.slot == p.1) with
    | none => []
    | some r => (heldTags p.2 ((inChans r).filter fun k => !isStream k)).map fun t => (p.1, t)
  let wants := sortBy (fun (a b : Nat × BitVec 4 × BitVec 12 × Nat) => a.2.2.2 < b.2.2.2) wants
  wants.foldl (fun s w =>
    let pl := (s.unit u).plane
    if pl.entries.any fun e => e.op == w.1 && e.lreg == w.2.1 && e.iter == w.2.2.1 then s
    else
      let oldest := (cfg.find? fun r => r.slot == w.1).any fun r =>
        oldestTag (tabGet pl.ops w.1) ((inChans r).filter fun k => !isStream k) == some (w.2.1, w.2.2.1)
      if (pl.entries.filter fun e => !e.reserved).length < 56 then
        s.modPlane u fun p => { p with entries := p.entries ++ [{ op := w.1, lreg := w.2.1, iter := w.2.2.1 }] }
      else if oldest && !(pl.entries.any fun e => e.reserved && e.op == w.1) then
        s.modPlane u fun p => { p with entries := p.entries ++ [{ op := w.1, lreg := w.2.1, iter := w.2.2.1, reserved := true }] }
      else s) s

/-- Take items out of a channel's list by their arrival numbers. -/
def dropHeld (h : Chan) (ats : List Nat) : Chan := { h with held := h.held.filter fun x => !ats.contains x.at_ }

/-- Make the firing of a complete match (R90, R101): its tokens leave the channels' lists but stay counted until they
are consumed. -/
def makeFiring (s : State) (u o : Nat) (lreg : BitVec 4) (iter : BitVec 12) (got : List (Nat × List (Token × Nat))) : State :=
  let (k, s) := s.newKey
  s.modOp u o fun q =>
    { q with
      chans := got.foldl (fun cs g => tabMod cs g.1 fun h => dropHeld h (g.2.map Prod.snd)) q.chans
      firings := q.firings ++ [{ id := k, lreg := lreg, iter := iter, st := .ready, since := s.clk, slot0 := (s.unit u).issues,
                                 arrived := (got.flatMap fun g => g.2.map Prod.snd).foldl min k,
                                 toks := got.foldl (fun t g => tabSet t g.1 (g.2.map Prod.fst)) [] }] }

/-- The next match of an operator, if one is complete: among the tags with an entry the oldest held one; with stream
channels only, the tag of the first token of the lowest channel (R90). -/
def nextMatch (s : State) (u o : Nat) (r : OpRec) (q : OpState) : Option (BitVec 4 × BitVec 12 × List (Nat × List (Token × Nat))) :=
  let ks := inChans r
  match ks with
  | [] => none
  | k0 :: _ =>
    let tags := if usesEntries r then
        (heldTags q (ks.filter fun k => !isStream k)).filter fun t =>
          (s.unit u).plane.entries.any fun e => e.op == o && e.lreg == t.1 && e.iter == t.2.1
      else ((segment (tabGet q.chans k0.ch).held).head?.map fun t => (t.1.lreg, t.1.iter, t.2)).toList
    tags.findSome? fun t => (takeAll (if isNode u then dueOf s u t.1 t.2.1 else none) q t.1 t.2.1 ks).map fun g => (t.1, t.2.1, g)

/-- Form every complete match of an operator, at most `fuel` of them. -/
def matchLoop : Nat → State → Nat → Nat → State
  | 0, s, _, _ => s
  | n + 1, s, u, o =>
    match opRec? s u o, s.op? u o with
    | some r, some q =>
      match nextMatch s u o r q with
      | some (l, i, got) => matchLoop n (makeFiring s u o l i got) u o
      | none => s
    | _, _ => s

/-- Match a unit's held tokens (R90, R94), operator after operator. -/
def matchUnit (s : State) (u : Nat) : State :=
  let s := giveEntries s u
  (s.unit u).plane.ops.foldl (fun s p => matchLoop 512 s u p.1) s

/-! ### Arrival (R93, R95) -/

/-- Whether a tagged channel refuses a token of its n-th segment (R93, R328): it would be the (n+1)-th of its tag there, the
33rd on a node (R199), or repeats a SEQ. -/
def isDup (node : Bool) (q : OpState) (k : ChanRec) (t : Token) (n : Nat := 0) : Bool :=
  let held := (segmentAt n (tabGet q.chans k.ch).held []).map Prod.fst
  let taken := if n == 0 then q.firings.flatMap fun g => if g.eaten then [] else tabGet g.toks k.ch else []
  let mine := (held ++ taken).filter fun x => x.lreg == t.lreg && x.iter == t.iter
  isTagged k && (mine.length ≥ (if node then 32 else k.rate) || mine.any fun x => x.sq == t.sq)

/-- A NO_HANDLER or TAG_DUP record names the receiver, the channel, the tag and the sender (R93, R95, R291). -/
def arrivalFault (s : State) (x u o c code : Nat) (f : Flight) : State :=
  let t := match f.item with | .tok t => t | .mark _ _ => {}
  takeFault s x u code
    { unitSite u with oper := o, chan := c, tag := t.tag, sq := t.sq.toNat, source := senderSource s f.src
                      attempt := (s.region (s.regOf u)).replays }

/-- Put an item into a channel (R89, R93, R328). A full channel spills into the carve-out during a freeze (R267). -/
def putChan (s : State) (u o c : Nat) (k : ChanRec) (f : Flight) : State :=
  let q := (s.op? u o).getD {}
  let h := tabGet q.chans c
  let dup := match f.item with | .tok t => isDup (isNode u) q k t (routeSeg h.held f.src) | .mark _ _ => false
  if dup then arrivalFault s (s.ctxOf u) u o c fTAGDUP f
  else if draining s u && chanOcc s u o c ≥ chanShare (unitConfig s u) then
    s.modPlane u fun p => { p with ovf := p.ovf ++ [f] }
  else
    let (n, s) := s.newKey
    let s := s.modChan u o c fun h => { h with held := h.held ++ [{ src := f.src, item := f.item, at_ := n, iv := f.iv }] }
    let s := if draining s u then s else updateOff s u o c
    touchUnit s u

/-- Outside a freeze the tokens of the carve-out enter their channels as these have room, in order (R267). -/
def drainOvf (s : State) (u : Nat) : State :=
  if draining s u then s
  else
    let ws := (s.unit u).plane.ovf
    ws.foldl (fun s f =>
      let back := fun (s : State) => s.modPlane u fun p => { p with ovf := p.ovf ++ [f] }
      match f.dst with
      | .chan v o c =>
        match chanRec? s v o c with
        | some k => if chanOcc s v o c < chanShare (unitConfig s v) then putChan s v o c k f else back s
        | none => s
      | _ => s) (s.modPlane u fun p => { p with ovf := [] })

/-- Deliver a token to a unit's channel: the channel, or the arrival buffer of 32 when the slot or channel is not
there (R95). None when the buffer is full and the token waits on its route. -/
def arriveChan (s : State) (u o c : Nat) (f : Flight) : Option State :=
  match chanRec? s u o c with
  | some k =>
    if k.out then (if (s.unit u).plane.arrival.length < 32 then some (s.modPlane u fun p => { p with arrival := p.arrival ++ [f] }) else none)
    else some (matchUnit (putChan (drainOvf s u) u o c k f) u)
  | none =>
    if (s.unit u).plane.arrival.length < 32 then some (s.modPlane u fun p => { p with arrival := p.arrival ++ [f] }) else none

/-- Whether an earlier token of the same sender to the same place is still on its way (R91). -/
def behind (s : State) (f : Flight) : Bool :=
  (s.flight.takeWhile fun g => g.id ≠ f.id).any fun g => g.src == f.src && g.dst == f.dst

/-- Deliver a token to a port (R95, R221): a spring or reserved port has no handler; an unbound outlet's token waits in
tarn 0's arrival buffer, as does one for port 16 or 17 that no record binds (log 98); a token for port 16 or 17 enters the
node on the channel of that port's handles (R197). -/
def arrivePort (s : State) (d c p : Nat) (f : Flight) : Option State :=
  let u := tarn0 d c
  if p ≤ 7 || 19 ≤ p then some (arrivalFault s f.ctx u 0 p fNOHANDLER f)
  else if (p == 16 || p == 17) && (s.port d c p).bound then
    match destOf s u (s.port d c p).dest with
    | .chan v o k => arriveChan s v o k f
    | .port _ _ _ => some (arrivalFault s f.ctx u 0 p fNOHANDLER f)
  else if (s.port d c p).bound then
    let (n, s) := s.newKey
    let s := s.modPort d c p fun q =>
      { q with held := q.held ++ [{ src := f.src, item := f.item, at_ := n, iv := f.iv }]
               off := if q.held.length + 1 ≥ 32 then true else q.off }
    some (touchUnit s u)
  else if (s.unit u).plane.arrival.length < 32 then some (s.modPlane u fun q => { q with arrival := q.arrival ++ [f] })
  else none

end Sys2Proof.Machine
end

