-- ==== Sys2Proof/Machine/Operands.lean ====
section
/-! DEFINITION. Operand values and results (R24, R108, R126), and the integer operations of R121-R125 on them. -/

namespace Sys2Proof.Machine

/-- opval of a payload (R108): its low w bits, signed under a signed integer type. -/
def opval (ty : Ty) (p : Word) : Int :=
  if ty.signed then signedOf ty.width p.toNat else (p.toNat % 2 ^ ty.width : Nat)

/-- IMM23 as a 64-bit payload (R108): sign-extended. -/
def immPay (imm : BitVec 23) : Word := imm.signExtend 64

/-- Low bits of a payload with bits [63:w] filled under R24. -/
def fillTo (ty : Ty) (v : Nat) : Word :=
  if ty.signed then BitVec.ofInt 64 (signedOf ty.width v) else BitVec.ofNat 64 (v % 2 ^ ty.width)

/-- result(v) (R108). -/
def resultOf (ty : Ty) (v : Int) : Word := fillTo ty (patOf ty.width v)

/-- A payload taken at the type's width (R112): bits [w-1:0], the rest filled. -/
def atWidth (ty : Ty) (p : Word) : Word := fillTo ty p.toNat

/-- The immediate of mov and sel (R111): IMM23 as an integer of the type, or converted to a floating type. -/
def movImm (ty : Ty) (imm : BitVec 23) : Word :=
  match fmtOf ty with
  | some f => BitVec.ofNat 64 (fpOfInt f .rne false 0 imm.toInt).1
  | none => resultOf ty (opval ty (immPay imm))

/-- trunc(a / b), b not 0. -/
def truncDiv (a b : Int) : Int := Int.tdiv a b

/-- div (R121). -/
def intDiv (ty : Ty) (a b : Int) : Int :=
  if b == 0 then -1 else if a == tyMin ty && b == -1 then tyMin ty else truncDiv a b

/-- rem (R121). -/
def intRem (ty : Ty) (a b : Int) : Int :=
  if b == 0 then a else if a == tyMin ty && b == -1 then 0 else a - b * truncDiv a b

/-- A bitwise operation on w-bit patterns (R121). -/
def bitwiseOf (ty : Ty) (op : Nat → Nat → Nat) (a b : Int) : Int :=
  (op (patOf ty.width a) (patOf ty.width b) : Nat)

/-- a AND (NOT b) on w bits. -/
def andNot (w a b : Nat) : Nat := a &&& (2 ^ w - 1 - b % 2 ^ w)

/-- The shift amount: b modulo w (R122). -/
def shiftAmt (ty : Ty) (b : Int) : Nat := patOf ty.width b % ty.width

/-- shl, shr, rot (R122). -/
def intShl (ty : Ty) (a b : Int) : Int := a * (2 ^ shiftAmt ty b : Nat)
def intShr (ty : Ty) (a b : Int) : Int := a.fdiv (2 ^ shiftAmt ty b : Nat)
def intRot (ty : Ty) (a b : Int) : Int :=
  let k := shiftAmt ty b
  let p := patOf ty.width a
  (p * 2 ^ k % 2 ^ ty.width + p / 2 ^ (ty.width - k) : Nat)

/-- clz and popc (R121). -/
def intClz (ty : Ty) (a : Int) : Int := (ty.width - bitLen (patOf ty.width a) : Nat)
def countOnes : Nat → Nat → Nat
  | 0, _ => 0
  | k + 1, n => n % 2 + countOnes k (n / 2)
def intPopc (ty : Ty) (a : Int) : Int := (countOnes ty.width (patOf ty.width a) : Nat)

/-- bit(p) of bfx (R123): past the width, the sign under a signed type, else 0. -/
def bfxBit (ty : Ty) (a : Nat) (p : Nat) : Nat :=
  if p < ty.width then a / 2 ^ p % 2 else if ty.signed then a / 2 ^ (ty.width - 1) % 2 else 0

/-- The sum of n bits of bfx from bit p up. -/
def bfxSum (ty : Ty) (a : Nat) : Nat → Nat → Nat
  | 0, _ => 0
  | n + 1, p => bfxBit ty a p + 2 * bfxSum ty a n (p + 1)

/-- bfx (R123). -/
def intBfx (ty : Ty) (a : Int) (ctl : Nat) : Int :=
  let width := min (bits ctl 14 8) ty.width
  let f := bfxSum ty (patOf ty.width a) width (bits ctl 5 0)
  if ty.signed && width > 0 && f / 2 ^ (width - 1) % 2 == 1 then (f : Int) - (2 ^ width : Nat) else f

/-- bfi (R123): bits [lsb + width - 1 : lsb] replaced, those at or above w dropped. -/
def intBfi (ty : Ty) (a b : Int) (ctl : Nat) : Int :=
  let lsb := bits ctl 5 0
  let width := min (min (bits ctl 14 8) ty.width) (ty.width - lsb)
  let p := patOf ty.width a
  (p - bits p (lsb + width - 1) lsb * (if width == 0 then 0 else 2 ^ lsb)
    + patOf ty.width b % 2 ^ width * 2 ^ lsb : Nat)

/-- cmp (R124): COND 0-5 of R59. -/
def intCmp (cond : Nat) (a b : Int) : Bool :=
  match cond with
  | 0 => a == b
  | 1 => a != b
  | 2 => a < b
  | 3 => a ≤ b
  | 4 => a > b
  | _ => a ≥ b

/-- cvti (R125). -/
def intCvt (src ty : Ty) (sat : Bool) (p : Word) : Int :=
  let a := opval src p
  if sat then clampInt a (tyMin ty) (tyMax ty) else a

/-- movk (R111): bits [16H+15:16H] of the payload replaced. -/
def movkPay (ty : Ty) (p : Word) (h k : Nat) : Word := atWidth ty (wput p (16 * h + 15) (16 * h) k)

/-- brc (R116): the block a condition payload names. -/
def brcBlock (imm : Nat) (taken : Bool) : Nat := if taken then bits imm 5 0 else bits imm 11 6

end Sys2Proof.Machine
end

