-- ==== Sys2Proof/Machine/Flags.lean ====
section
/-! DEFINITION. The flags, tag and dependency set of result tokens (R56, R57, R98, R139, R156, R251). -/

namespace Sys2Proof.Machine

/-- What an issuing instruction has read: its firing and slot, its token operands in order, its guard, and the
firing's tag. `ops` holds AR tokens. -/
structure Issue where
  f    : FireRef := {}
  slot : Nat := 0
  fi   : Firing := {}
  ops  : List Token := []
  g    : Token := {}
  deriving DecidableEq, Repr, Inhabited

/-- The operands by position (R54): l, r, x. -/
def Issue.l (i : Issue) : Token := i.ops.getD 0 {}
def Issue.r (i : Issue) : Token := i.ops.getD 1 {}
def Issue.x (i : Issue) : Token := i.ops.getD 2 {}

/-- The OR of the operands' X and of their P (R57). -/
def Issue.xs (i : Issue) : Bool := i.ops.any (·.x)
def Issue.ps (i : Issue) : Bool := i.ops.any (·.p)
def Issue.ns (i : Issue) : Bool := i.ops.any (·.n)

/-- The union of the dependency sets of the operands and the guard (R251). -/
def Issue.deps (i : Issue) : List Nat := i.ops.foldl (fun d t => setUnion d t.deps) i.g.deps

/-- A token with the tag and SEQ of a result (R98): those of l, or the firing's tag and SEQ 0. -/
def Issue.tok (i : Issue) (pay : Word) : Token :=
  match i.ops with
  | [] => { pay := pay, lreg := i.fi.lreg, iter := i.fi.iter, sq := 0 }
  | l :: _ => { pay := pay, lreg := l.lreg, iter := l.iter, sq := l.sq }

/-- A result token with the flags of R57: X also of the operation's own exception. -/
def Issue.result (i : Issue) (pay : Word) (exc : Bool) : Token := { i.tok pay with x := i.xs || exc, p := i.ps }

/-- A completion token (R156): payload 0, X = P = N = 0. -/
def Issue.completion (i : Issue) : Token := i.tok 0

/-- A null token (R56): payload 0, N = 1, and no other flag (log 17). -/
def Issue.nullTok (i : Issue) : Token := { i.tok 0 with n := true }

/-- The guard's verdict (R56): whether the instruction performs. -/
def guardPasses (g : Guard) (t : Token) : Bool :=
  match g with
  | .always | .order => true
  | .ifTrue => t.pay ≠ 0 && !t.n
  | .ifFalse => t.pay == 0 && !t.n

/-- TAGOP on a token's tag and SEQ (R61), but for 5, whose iteration is granted. -/
def tagOp (op : Nat) (imm : Nat) (t : Token) : Token :=
  match op with
  | 1 => { t with iter := t.iter + 1 }
  | 2 => { t with iter := BitVec.ofNat 12 imm }
  | 3 => { t with sq := BitVec.ofNat 8 imm }
  | 4 => { t with sq := t.sq + 1 }
  | _ => t

end Sys2Proof.Machine
end

