-- ==== Sys2Proof/Machine/Issue.lean ====
section
/-! DEFINITION. Issuing one instruction of a running block (R55-R57, R97, R98, R157): what it reads, whether it performs,
and how it ends: with a result token, null, with a staged side effect, stalled or faulted. -/

namespace Sys2Proof.Machine

/-! ### Blocks as stored (R47, R49) -/

/-- The fields of a block header (R47), from its 128 bits. -/
def bhNI (h : Nat) : Nat := bits h 123 117
def bhNSE (h : Nat) : Nat := bits h 116 110
def bhWMASK (h : Nat) : Nat := bits h 109 78
def bhREP (h : Nat) : Nat := bits h 77 66
def bhZX (h : Nat) : Nat := bits h 65 60
def bhIdem (h : Nat) : Bool := bits h 59 59 == 1
def bhPriv (h : Nat) : Bool := bits h 58 58 == 1
def bhNoSimd (h : Nat) : Bool := bits h 57 57 == 1

/-- The words of a stored block. -/
def wordsOf : Nat → List Byte → List Word
  | 0, _ => []
  | n + 1, bs => BitVec.ofNat 64 (natOfBytes (bs.take 8)) :: wordsOf n (bs.drop 8)
/-- A stored block: its header and words. -/
def blockParts (bs : List Byte) : Nat × List Word :=
  let h := natOfBytes (bs.take 16)
  (h, wordsOf (bhNI h + 1) (bs.drop 16))

/-- The block a firing is at. -/
def blockOf? (s : State) (f : FireRef) : Option (Nat × List Word) :=
  match s.firing? f, opRec? s f.u f.op with
  | some g, some r => (r.blocks[g.block]?).map blockParts
  | _, _ => none
/-- The instructions of a block; every word has passed verification (R68). -/
def instrsOf (ws : List Word) : List Instr := ws.filterMap fun w =>
  match decode w with | .instr i => some i | .refused _ => none

/-! ### Reading operands (R55, R56) -/

/-- What comes of an attempt to issue: nothing to issue, a null instruction, poison consumed by a side effect, or the
instruction performs. -/
inductive Gate where
  | idle
  | null (i : Issue)
  | poison (i : Issue)
  | run (i : Issue)
  deriving DecidableEq, Repr, Inhabited

/-- The tokens of positions lo, lo + 1, … of a slot; none when one has not arrived. -/
def positions (g : Firing) (slot : Nat) : Nat → Nat → Option (List Token)
  | 0, _ => some []
  | n + 1, p =>
    match tabGet? g.pos (slot * 4 + p), positions g slot n (p + 1) with
    | some t, some r => some (t :: r)
    | _, _ => none

/-- What the slot in focus has to issue with (R55): its firing runs, the slot has not fired, and its operands and
guard have arrived. -/
def issueOf (s : State) (h : Hdr) : Option Issue :=
  match s.firing? s.focus with
  | none => none
  | some g =>
    if g.st ≠ .running || !g.started || g.fired.contains s.focusSlot then none
    else
      match positions g s.focusSlot h.ar.toNat 0 with
      | none => none
      | some ops =>
        if h.g == .always then some { f := s.focus, slot := s.focusSlot, fi := g, ops := ops }
        else (tabGet? g.pos (s.focusSlot * 4 + 3)).map fun t =>
          { f := s.focus, slot := s.focusSlot, fi := g, ops := ops, g := t }

/-- Decide what the slot in focus does (R56, R57, R158). `side` marks a side-effect opcode, which raises POISON on a
poisoned guard, and on a poisoned operand unless its own rule carries P onward (`carries`); `ownN` leaves N = 1 of the
operands to the instruction's own rule (sel, brc, null). -/
def gate (s : State) (h : Hdr) (side : Bool) (carries : Bool := false) (ownN : Bool := false) : Gate :=
  match issueOf s h with
  | none => .idle
  | some i =>
    if side && h.g ≠ .always && i.g.p then .poison i
    else if !guardPasses h.g i.g || (!ownN && i.ns) then .null i
    else if side && !carries && i.ps then .poison i
    else .run i

/-! ### Ending an issue -/

/-- The key of an operand position. -/
def posKey (t : Target) : Nat :=
  t.slot.toNat * 4 + (match t.pos with | .l => 0 | .r => 1 | .x => 2 | .g => 3)

/-- The instruction has fired: its result goes to its targets (R54), and depends on all it read (R251). -/
def give (s : State) (i : Issue) (h : Hdr) (t : Token) : State :=
  let t := { t with deps := s.carry (setUnion i.deps t.deps) }
  s.modFiring i.f fun g =>
    { g with
      fired := g.fired ++ [i.slot]
      pos := [h.t0, h.t1].foldl (fun p o => match o with | some k => tabSet p (posKey k) t | none => p) g.pos }

/-- The instruction has fired and yields no result (br, brc, wr, tagfree, call, ret, tcall). -/
def fired (s : State) (i : Issue) : State := s.modFiring i.f fun g => { g with fired := g.fired ++ [i.slot] }

/-- A null instruction performs nothing, counts as produced and yields a null token (R56). -/
def giveNull (s : State) (i : Issue) (h : Hdr) : State := give s i h i.nullTok

/-- Poison consumed (R56, R158). -/
def takePoison (s : State) (i : Issue) : State := blockFault s i.f i.slot fPOISON 0

/-- A fault of the instruction (R99, R158). -/
def takeBlock (s : State) (i : Issue) (code : Nat) (addr : Word) : State := blockFault s i.f i.slot code addr

/-- Stage a side effect (R97): the number it is known by. -/
def stage (s : State) (i : Issue) (e : Eff) : Nat × State :=
  let (k, s) := s.newId
  (k, s.modFiring i.f fun g =>
    { g with staged := g.staged ++ [{ id := k, slot := i.slot, deps := s.carry i.deps, tag := i.l.tag, sq := i.l.sq.toNat, eff := e }] })

/-- Stage a side effect and yield its completion token, which depends on it (R156, R157). -/
def complete (s : State) (i : Issue) (h : Hdr) (e : Eff) : State :=
  let (k, s) := stage s i e
  give s i h { i.completion with deps := [k] }

/-- Yield a token that depends on an operation that performs at issue, and has performed (R157, R251). -/
def performed (s : State) (i : Issue) (h : Hdr) (t : Token) : State := give s i h t

/-- Whether an instruction that performs at issue must wait: some operation it depends on, other than the staged ones
of its own block, has not performed (R157), or a released store that such a staged one follows (note 1 of R260). -/
def mustWait (s : State) (i : Issue) : Bool :=
  ((s.live i.deps).any fun k => !(i.fi.staged.any fun t => t.id == k)) || earlierStores s i.f.u i.f.op i.fi i.deps

/-- The same, with no exception for the own block: what acts outside the block waits for its own stores too. -/
def mustWaitAll (s : State) (i : Issue) : Bool := !(s.live i.deps).isEmpty

/-- A step that changes nothing: the slot cannot issue yet, and stalls (R102). -/
def stall (s : State) : Host.Outcome State Fault Refusal := .next s

/-- The common shape of an instruction without a side effect (R57). -/
def runPlain (s : State) (h : Hdr) (run : Issue → State) : Host.Outcome State Fault Refusal :=
  match gate s h false with
  | .idle => .next s
  | .null i => .next (giveNull s i h)
  | .poison i => .next (takePoison s i)
  | .run i => .next (run i)

/-- The common shape of a side effect (R56, R158). -/
def runSide (s : State) (h : Hdr) (run : Issue → State) (carries : Bool := false) : Host.Outcome State Fault Refusal :=
  match gate s h true carries with
  | .idle => .next s
  | .null i => .next (giveNull s i h)
  | .poison i => .next (takePoison s i)
  | .run i => .next (run i)

/-- In the mirror region of a dual task these instructions are null (R355). -/
def inMirror (s : State) (u : Nat) : Bool := !isCore u && (s.region (s.regOf u)).isMirror

/-- A side effect that a mirror region does not perform (R355). -/
def runSideDual (s : State) (h : Hdr) (run : Issue → State) (carries : Bool := false) : Host.Outcome State Fault Refusal :=
  match gate s h true carries with
  | .idle => .next s
  | .null i => .next (giveNull s i h)
  | .poison i => .next (takePoison s i)
  | .run i => if inMirror s i.f.u then .next (giveNull s i h) else .next (run i)

/-- Whether an instruction is ordered after a ctx.tlbi write that is not complete (R374): it translates only then. -/
def waitsInv (s : State) (i : Issue) : Bool :=
  (s.live i.deps).any fun k => (s.invs.any fun v => v.opId == some k) || s.pend.any fun p =>
    p.id == k && (match p.eff with | .swr n _ => n == 0x00B | _ => false)

/-- The work of an address: a walk asked for and the slot stalled, a fault taken, or the rest (R155, R372). -/
def withAddr (s : State) (i : Issue) (kind : Nat) (a : Addr) (run : Loc → Nat → Nat → State) : State :=
  match a with
  | .ok loc cls pol => if waitsInv s i then s else run loc cls pol
  | .miss va => askWalk s (unitDie i.f.u) (s.ctxOf i.f.u) va kind (.fire i.f)
  | .fault c ad => takeBlock s i c ad

/-- The operator number of R39 and the stochastic rounding bits of an element (R39, R138). -/
def fireDraw (s : State) (i : Issue) (elem : Nat) : Nat :=
  let num := ((opRec? s i.f.u i.f.op).map (·.num)).getD 0
  srDraw (s.ctxReg (s.ctxOf i.f.u) 2) num i.fi.tag i.slot i.fi.rep elem

end Sys2Proof.Machine
end

