-- ==== Sys2Proof/Machine/Verify.lean ====
section
/-! DEFINITION. Reading a kernel image out of memory, its structure checks (R83, R84, R261, R263) and the load-time
verification of its blocks (R48, R54, R55, R61, R67, R96, R196, R412). -/

namespace Sys2Proof.Machine

/-! ### Facts of a word (R53, R66) -/

def wOp (w : Word) : Nat := wbits w 63 56
def wG (w : Word) : Nat := wbits w 51 50
def wAR (w : Word) : Nat := wbits w 49 48

/-- Side-effect opcodes (R66). -/
def sideOp (op : Nat) : Bool :=
  op == 0x05 || op == 0x61 || (0x63 ≤ op && op ≤ 0x6B) || op == 0x81 || op == 0x82 || op == 0x8E
  || (0x90 ≤ op && op ≤ 0x97) || (0xA0 ≤ op && op ≤ 0xA9) || (0xB0 ≤ op && op ≤ 0xBD) || (0xC0 ≤ op && op ≤ 0xC8)
def isBranch (op : Nat) : Bool := op == 0x09 || op == 0x0A
def isAtomic (op : Nat) : Bool := 0x63 ≤ op && op ≤ 0x65
def isCallRet (op : Nat) : Bool := op == 0xB0 || op == 0xB1 || op == 0xB2
def isTile (op : Nat) : Bool := 0x80 ≤ op && op ≤ 0x8E
def isPriv (op : Nat) : Bool := 0xC5 ≤ op && op ≤ 0xC8
/-- Opcodes a system core refuses at load (R412), a frame access being the other case. -/
def coreRefused (w : Word) : Bool :=
  let op := wOp w
  isTile op || (0x90 ≤ op && op ≤ 0x97) || op == 0xA0 || op == 0xA1 || op == 0xA2 || op == 0xA8 || op == 0xA9
  || (0xB0 ≤ op && op ≤ 0xB4) || op == 0xB8 || op == 0xB9
  || ((0x60 ≤ op && op ≤ 0x6B) && wbits w 27 25 == 2)

/-- What the verifier knows of the operator around a block. -/
structure Around where
  core   : Bool := false
  node   : Bool := false
  ncl    : Nat := 1
  nblk   : Nat := 1
  chans  : List ChanRec := []
  slots  : List (Nat × List ChanRec) := []
  deriving DecidableEq, Repr, Inhabited

/-! ### Headers (R48) -/

/-- The state registers that a block's wr instructions name. -/
def wrRegs (ws : List Word) : List Nat := (ws.filter fun w => wOp w == 0x07 && wbits w 27 16 < 32).map fun w => wbits w 27 16

/-- Whether a list of numbers has a repeat. -/
def hasRepeat : List Nat → Bool
  | [] => false
  | a :: r => r.contains a || hasRepeat r

/-- The first condition of R48 that a header breaks. -/
def headerFault (a : Around) (h : Nat) (ws : List Word) : Option Nat :=
  let wm := (wrRegs ws).foldl (fun m n => m ||| 2 ^ n) 0
  if bits h 127 124 ≠ 0xB then some 2
  else if bits h 56 0 ≠ 0 then some 2
  else if bhNSE h ≠ (ws.filter fun w => sideOp (wOp w)).length then some 2
  else if bhWMASK h ≠ wm || hasRepeat ((ws.filter fun w => wOp w == 0x07).map fun w => wbits w 27 16) then some 2
  else if (ws.filter fun w => isBranch (wOp w)).length ≠ 1 then some 2
  else if bhREP h ≠ 0 && bhZX h ≠ 0 then some 2
  else if bhZX h ≠ 63 && bhZX h ≥ a.nblk then some 4
  else if bhPriv h && !a.core then some 3
  else if !bhPriv h && ws.any (fun w => isPriv (wOp w)) then some 3
  else none

/-! ### Slots (R67) -/

/-- The targets of a word that are in use: slot and position. -/
def wTargets (w : Word) : List (Nat × Nat) :=
  let t := fun hi lo => if wbits w hi hi == 1 then [(wbits w (lo + 6) lo, wbits w (lo + 8) (lo + 7))] else []
  t 47 38 ++ t 37 28

/-- The positions that a word reads: l, r, x below AR, and g when G ≠ 00. -/
def wReads (w : Word) : List Nat := upFrom 0 (wAR w) ++ (if wG w ≠ 0 then [3] else [])

/-- The words before a slot that satisfy a test, counted. -/
def countBefore (p : Nat → Bool) (ws : List Word) (n : Nat) : Nat := ((ws.take n).filter fun w => p (wOp w)).length

/-- The fields step's conditions on the block and the region (R67, R154, R241, R266). -/
def blockFields (a : Around) (ws : List Word) (n : Nat) (w : Word) : Bool :=
  let op := wOp w
  !(isAtomic op && countBefore isAtomic ws n ≥ 4) && !(isCallRet op && countBefore isCallRet ws n ≥ 1)
  && !((op == 0xA0 || op == 0xA1 || op == 0xA2 || op == 0xA8 || op == 0xA9) && wbits w 26 21 ≥ a.ncl)

/-- The placement step (R67, R62, R410, R412). -/
def placementOk (a : Around) (w : Word) : Bool :=
  if a.core then !coreRefused w else (!isTile (wOp w) || a.node) && !isPriv (wOp w)

/-- Whether a channel is declared in a direction. -/
def declared (cs : List ChanRec) (c : Nat) (out : Bool) : Bool := cs.any fun k => k.ch == c && k.out == out

/-- The targets step (R54, R55, R61, R116, R118, R154, R275, R322). -/
def targetsFault (a : Around) (ws : List Word) (n : Nat) (w : Word) : Bool :=
  let op := wOp w
  let ts := wTargets w
  let badTarget := ts.any fun t =>
    t.1 ≤ n || t.1 ≥ ws.length || !((ws[t.1]?).any fun c => (wReads c).contains t.2)
  let named := fun p => (ws.map fun v => ((wTargets v).filter fun t => t.1 == n && t.2 == p).length).sum
  let badRead := (wReads w).any fun p => named p ≠ 1
  let blk := fun b => b ≠ 63 && b ≥ a.nblk
  let badOwn :=
    (op == 0x04 && !declared a.chans (wbits w 27 24) false)
    || (op == 0x05 && !declared a.chans (wbits w 27 24) true)
    || (op == 0x09 && blk (wbits w 5 0)) || (op == 0x0A && (blk (wbits w 5 0) || blk (wbits w 11 6)))
    || (op == 0x62 && !declared a.chans (wbits w 21 18) true)
    || ((op == 0x0D || op == 0xB7 || isCallRet op) && !ts.isEmpty)
    || (op == 0xB0 && wbits w 27 27 == 0 &&
        !((a.slots.find? fun s => s.1 == wbits w 23 21).any fun s => declared s.2 (wbits w 19 16) false))
  badTarget || badRead || badOwn

/-- The first step a slot breaks (R67). -/
def slotFault (a : Around) (ws : List Word) (n : Nat) (w : Word) : Option Nat :=
  match decode w with
  | .refused c => some (if c == 5 && !blockFields a ws n w then 2 else c)
  | .instr i =>
    match Instr.check i with
    | some 2 => some 2
    | c =>
      if !blockFields a ws n w then some 2
      else if c.isSome then some 5
      else if !placementOk a w then some 3
      else if targetsFault a ws n w then some 4
      else none

/-- The tile registers that a node instruction names static (R196). -/
def staticRegs : Instr → List Nat
  | .tcfg _ f | .tld _ f | .tst _ f | .tcvt _ f => [f.a.toNat]
  | .tread _ f | .twrite _ f => if f.per.toNat / 8192 == 0 then [f.a.toNat] else []
  | .tzero _ f => if f.per.toNat % 2 == 1 then [f.a.toNat] else []
  | .tamax _ f => if f.per.toNat % 2 == 0 then [f.a.toNat] else []
  | .tfree h f => if f.per.toNat % 2 == 0 && h.ar == 0 then [f.a.toNat] else []
  | .ttrans _ f | .mma _ f => [f.a.toNat, f.b.toNat]
  | .mmasp _ f => [f.a.toNat, f.b.toNat, (f.b.toNat + 1) % 16, f.per.toNat / 1024]
  | _ => []

/-- Where verification failed: code, block, slot. -/
structure VFault where
  code  : Nat := 0
  oper  : OpRec := {}
  block : Nat := 0
  slot  : Nat := 0
  chan  : Nat := 0
  deriving DecidableEq, Repr, Inhabited

/-- Verify the slots of a block from one on; `lim` asks for the static limit, `st` are the registers static so far. -/
def slotsFrom (a : Around) (lim : Bool) (ws : List Word) : Nat → List Word → List Nat → Except (Nat × Nat) (List Nat)
  | _, [], st => .ok st
  | n, w :: r, st =>
    match slotFault a ws n w with
    | some c => .error (c, n)
    | none =>
      let st := match decode w with | .instr i => setUnion st (staticRegs i) | .refused _ => st
      if lim && st.length > 13 then .error (4, n) else slotsFrom a lim ws (n + 1) r st

/-- Verify the blocks of an operator in index order. -/
def blocksFrom (a : Around) (lim : Bool) : Nat → List (List Byte) → List Nat → Except (Nat × Nat × Nat) (List Nat)
  | _, [], st => .ok st
  | b, bs :: r, st =>
    let (h, ws) := blockParts bs
    match headerFault a h ws with
    | some c => .error (c, b, 0x7F)
    | none =>
      match slotsFrom a lim ws 0 ws st with
      | .error (c, n) => .error (c, b, n)
      | .ok st => blocksFrom a lim (b + 1) r st

/-- What surrounds an operator's blocks. -/
def aroundOf (img : Image) (core : Bool) (ncl : Nat) (r : OpRec) : Around :=
  { core := core, node := r.tarn == 16, ncl := ncl, nblk := r.blocks.length, chans := r.chans
    slots := (img.opers.filter fun q => q.cl == r.cl && q.tarn == r.tarn).map fun q => (q.slot, q.chans) }

/-- Verify the operators in descriptor order; `sts` are the static registers of each node by cluster. -/
def opersFrom (img : Image) (core : Bool) (ncl : Nat) : List OpRec → Tab (List Nat) → Except VFault (Tab (List Nat))
  | [], sts => .ok sts
  | r :: rest, sts =>
    let lim := r.tarn == 16 && img.ports.any fun p => p.cl == r.cl && (p.port == 16 || p.port == 17)
    match blocksFrom (aroundOf img core ncl r) lim 0 r.blocks ((tabGet? sts r.cl).getD []) with
    | .error (c, b, n) => .error { code := c, oper := r, block := b, slot := n }
    | .ok st => opersFrom img core ncl rest (tabSet sts r.cl st)

/-! ### Routes (R64, R96) -/

/-- A DEST with ND = 1 and a nonzero TARN or DK is refused with CFG_ROUTE (R64). -/
def destBad (d : Nat) : Bool := d / 2 ^ 31 % 2 == 0 && bits d 18 18 == 1 && bits d 11 7 ≠ 0

/-- Region-relative cluster of a DEST and whether it names a channel. -/
def destKey (d : Nat) : Nat × Nat × Nat × Nat :=
  (bits d 17 12, if bits d 18 18 == 1 then 16 else bits d 11 8, bits d 6 4, bits d 3 0)

/-- Hops between two region-relative clusters of a region of a width. -/
def relHops (w a b : Nat) : Nat :=
  let dist := fun x y => if x ≤ y then y - x else x - y
  dist (a / max w 1) (b / max w 1) + dist (a % max w 1) (b % max w 1)

/-- The OFF threshold of an input channel of an image, for a region of a width (R96). -/
def imageOff (img : Image) (w : Nat) (r : OpRec) (k : ChanRec) : Nat :=
  let unit := img.opers.filter fun q => q.cl == r.cl && q.tarn == r.tarn
  let me := (r.cl, r.tarn, r.slot, k.ch)
  let isMe := fun (d : Nat) => d / 2 ^ 31 % 2 == 0 && (bits d 7 7 == 0 || bits d 18 18 == 1) && destKey d == me
  let from1 := img.opers.flatMap fun q => (outChans q).filterMap fun c => if isMe c.dest then some q.cl else none
  let from2 := img.ports.filterMap fun p => if springPort p.port && isMe p.dest then some p.cl else none
  let rt := 2 * (((from1 ++ from2).map fun c => relHops w c r.cl).foldl max 0 + 2)
  chanShare unit - rt

/-- The routes' conditions on an operator's channels: CFG_ROUTE with the channel. -/
def routeFault (img : Image) (w : Nat) (r : OpRec) : Option VFault :=
  (r.chans.find? fun k => (k.out && destBad k.dest) || (!k.out && imageOff img w r k < k.rate)).map fun k =>
    { code := 4, oper := r, chan := k.ch }

/-- The verification of an image for a region of a width and cluster count, or for a core (R67, R96, R412). DESIGN CHOICE:
the checks of channel and port records stand after every operator's slots, with BLOCK and SLOT 0, and a port record's names
cluster 0, tarn 0, slot 0 (log 93). -/
def verifyImage (img : Image) (core : Bool) (w ncl : Nat) : Option VFault :=
  match opersFrom img core ncl img.opers [] with
  | .error e => some e
  | .ok _ =>
    match img.opers.findSome? (routeFault img w) with
    | some e => some e
    | none => (img.ports.find? fun p => destBad p.dest).map fun _ => { code := 4, oper := {} }

/-! ### Reading the image (R83, R84, R263) -/

/-- Little-endian field of a record. -/
def fld (bs : List Byte) (off n : Nat) : Nat := natOfBytes ((bs.drop off).take n)
/-- Whether bytes are all zero. -/
def zeros (bs : List Byte) (off n : Nat) : Bool := ((bs.drop off).take n).all (· == 0)

/-- The largest image (R263). -/
def imageMax : Nat := 8 * 1024 * 1024

/-- How a read for staging ends. -/
inductive ImgFault where
  | fault (code : Nat) (addr : Word)
  deriving DecidableEq, Repr, Inhabited

/-- Read part of an image: `at_` is the record that fails when the page is no image page (R263, R368). -/
def imgRead (s : State) (d x base off n : Nat) : Except ImgFault (List Byte) × State :=
  match readV s d x true (base + off) n with
  | (.ok bs bad, s) => (if bad then .error (.fault fPOISON (xAddr (base + off) kOther 3)) else .ok bs, s)
  | (.fault c va l, s) =>
    (.error (.fault c (if c == fNOKERNEL then BitVec.ofNat 64 (base + off) else xAddr va kOther l)), s)

/-- The structure failed at a record. -/
def badAt (base off : Nat) : ImgFault := .fault fNOKERNEL (BitVec.ofNat 64 (base + off))

/-- Cut the blocks out of an operator's block bytes (R49); none unless they fill them exactly (R263). -/
def cutBlocks : Nat → List Byte → Option (List (List Byte))
  | 0, bs => if bs.isEmpty then some [] else none
  | n + 1, bs =>
    let size := 16 + 8 * (bhNI (natOfBytes (bs.take 16)) + 1)
    if bs.length < size then none else (cutBlocks n (bs.drop size)).map fun r => bs.take size :: r

/-- A channel record (R84); none when its zero fields or codes are wrong (log 92). -/
def chanOf (b : List Byte) : Option ChanRec :=
  let k : ChanRec := { ch := fld b 0 1, out := fld b 1 1 == 1, rate := fld b 2 1, kind := fld b 3 1, dest := fld b 4 4 }
  let dOk := if fld b 1 1 == 0 then k.dest == 0
    else if isRemote k.dest then bits k.dest 30 6 == 0
    else bits k.dest 30 19 == 0 && !(bits k.dest 18 18 == 0 && bits k.dest 7 7 == 1 && bits k.dest 6 5 ≠ 0)
  if k.ch < 16 && fld b 1 1 ≤ 1 && k.kind ≤ 2 && (k.out || (1 ≤ k.rate && k.rate ≤ 8)) && dOk then some k else none

/-- The channel records of an operator, one after another; the offset of a bad one. -/
def chansOf : Nat → Nat → List Byte → Except Nat (List ChanRec)
  | 0, _, _ => .ok []
  | n + 1, off, bs =>
    match chanOf (bs.take 8) with
    | none => .error off
    | some k => match chansOf n (off + 8) (bs.drop 8) with | .ok r => .ok (k :: r) | .error e => .error e

/-- Read one operator descriptor with its channels and blocks (R84, R263; log 92). -/
def readOper (s : State) (d x base off num w kw kh : Nat) (core : Bool) : Except ImgFault OpRec × State :=
  match imgRead s d x base off 32 with
  | (.error e, s) => (.error e, s)
  | (.ok b, s) =>
    let nblk := fld b 3 1
    let nch := fld b 4 1
    let choff := fld b 8 4
    let blkoff := fld b 12 4
    let size := fld b 16 4
    let tarn := fld b 1 1
    let fits := if core then fld b 0 1 == 0 && tarn == 0xFE
      else fld b 0 1 % max w 1 < kw && fld b 0 1 / max w 1 < kh && (tarn < 16 || tarn == 0xFF)
    if nblk == 0 || nblk > 63 || nch > 16 || !zeros b 5 3 || !zeros b 20 12 || fld b 2 1 > 7 || !fits
      || choff + 8 * nch > imageMax || blkoff + size > imageMax then (.error (badAt base off), s)
    else
      match imgRead s d x base choff (8 * nch) with
      | (.error e, s) => (.error e, s)
      | (.ok cb, s) =>
        match chansOf nch choff cb with
        | .error o => (.error (badAt base o), s)
        | .ok chans =>
          match imgRead s d x base blkoff size with
          | (.error e, s) => (.error e, s)
          | (.ok bb, s) =>
            match cutBlocks nblk bb with
            | none => (.error (badAt base off), s)
            | some blocks =>
              (.ok { num := num, cl := fld b 0 1, tarn := if tarn == 0xFF then 16 else tarn, slot := fld b 2 1
                     chans := chans, blocks := blocks, off := off }, s)

/-- Read the descriptors in order. -/
def readOpers (s : State) (d x base : Nat) (w kw kh : Nat) (core : Bool) : Nat → Nat → Nat → Except ImgFault (List OpRec) × State
  | 0, _, _ => (.ok [], s)
  | n + 1, off, num =>
    match readOper s d x base off num w kw kh core with
    | (.error e, s) => (.error e, s)
    | (.ok r, s) =>
      match readOpers s d x base w kw kh core n (off + 32) (num + 1) with
      | (.error e, s) => (.error e, s)
      | (.ok rs, s) => (.ok (r :: rs), s)

/-- A port record (R84; log 92). -/
def portOf (w kw kh : Nat) (b : List Byte) : Option PortRec :=
  let p := fld b 1 1
  let pat := fld b 4 4
  let cl := fld b 0 1
  let d := fld b 8 4
  let outlet := (8 ≤ p && p ≤ 15) || p == 18
  if zeros b 2 2 && zeros b 12 4 && p ≤ 18 && cl % max w 1 < kw && cl / max w 1 < kh && bits d 31 19 == 0 && !(outlet && d ≠ 0) then
    some { cl := cl, port := p, pat := if pat == 0xFFFFFFFF then none else some pat, dest := d }
  else none

/-- A pool record (R84). -/
def poolRecOf (b : List Byte) : Option PoolRec :=
  if fld b 11 1 == 0 && zeros b 24 8 then
    some { id := fld b 0 2, op := fld b 2 1, ty := fld b 3 1, len := fld b 4 2, width := fld b 6 2, expect := fld b 8 2
           chk := fld b 10 1, deadline := fld b 12 4, init := BitVec.ofNat 64 (fld b 16 8) }
  else none

/-- Records of a size read one after another; the offset of a bad one. -/
def recsOf {α : Type} (size : Nat) (f : List Byte → Option α) : Nat → Nat → List Byte → Except Nat (List α)
  | 0, _, _ => .ok []
  | n + 1, off, bs =>
    match f (bs.take size) with
    | none => .error off
    | some k => match recsOf size f n (off + size) (bs.drop size) with | .ok r => .ok (k :: r) | .error e => .error e

/-- The bytes a unit's configuration takes (R263): descriptors, channel records and blocks, and on tarn 0 the port
records of its cluster. -/
def configSize (img : Image) (cl tarn : Nat) : Nat :=
  ((img.opers.filter fun r => r.cl == cl && r.tarn == tarn).map fun r =>
    32 + 8 * r.chans.length + (r.blocks.map (·.length)).sum).sum
  + (if tarn == 0 then 16 * (img.ports.filter fun p => p.cl == cl).length else 0)

/-- Whether two operators share a place or two port records a port: DESIGN CHOICE, such an image is refused (log 92). -/
def twice (img : Image) : Bool :=
  hasRepeat (img.opers.map fun r => r.cl * 4096 + r.tarn * 16 + r.slot) || hasRepeat (img.ports.map fun p => p.cl * 32 + p.port)

/-- Read an image and check its structure (R83, R84, R261, R263): the region's width and height are given; a core
takes one cluster (R412). DESIGN CHOICE: an ENTRY_OPER at or past NOPER other than 0xFFFF is refused too (log 92). -/
def readImage (s : State) (d x base w h : Nat) (core : Bool) : Except ImgFault Image × State :=
  match imgRead s d x base 0 32 with
  | (.error e, s) => (.error e, s)
  | (.ok b, s) =>
    let nop := fld b 2 2
    let kw := fld b 4 1
    let kh := fld b 5 1
    let nport := fld b 6 2
    let npool := fld b 8 2
    let eop := fld b 10 2
    let opoff := fld b 20 4
    let poff := fld b 24 4
    let qoff := fld b 28 4
    if fld b 0 2 ≠ 0x4B || !zeros b 13 3 || kw > w || kh > h || (core && (kw ≠ 1 || kh ≠ 1)) || (eop ≠ 0xFFFF && eop ≥ nop)
      || opoff + 32 * nop > imageMax || poff + 16 * nport > imageMax || qoff + 32 * npool > imageMax then
      (.error (badAt base 0), s)
    else
      match readOpers s d x base w kw kh core nop opoff 0 with
      | (.error e, s) => (.error e, s)
      | (.ok ops, s) =>
        match imgRead s d x base poff (16 * nport) with
        | (.error e, s) => (.error e, s)
        | (.ok pb, s) =>
          match recsOf 16 (portOf w kw kh) nport poff pb with
          | .error o => (.error (badAt base o), s)
          | .ok ports =>
            match imgRead s d x base qoff (32 * npool) with
            | (.error e, s) => (.error e, s)
            | (.ok qb, s) =>
              match recsOf 32 poolRecOf npool qoff qb with
              | .error o => (.error (badAt base o), s)
              | .ok pools =>
                let img : Image :=
                  { ctx := x, addr := base, width := kw, height := kh, entryOp := if eop == 0xFFFF then none else some eop
                    entryCh := fld b 12 1, frame := fld b 16 4, opers := ops
                    ports := ports.zipIdx.map fun p => { p.1 with off := poff + 16 * p.2 }, pools := pools }
                let size := max (max (opoff + 32 * nop) (poff + 16 * nport)) (qoff + 32 * npool)
                let size := size + (ops.map fun r => 8 * r.chans.length + (r.blocks.map (·.length)).sum).sum
                if twice img || img.opers.any (fun r => configSize img r.cl r.tarn > 24576)
                  || img.ports.any (fun p => configSize img p.cl 0 > 24576) then (.error (badAt base 0), s)
                else (.ok { img with size := size }, s)

end Sys2Proof.Machine
end

