-- ==== Sys2Proof/Machine/Dataflow.lean ====
section
/-! DEFINITION. The dataflow and control instructions, opcodes 0x01-0x11 (R108-R119). -/

namespace Sys2Proof.Machine

/-! ### Iteration grants (R117) -/

/-- The first iteration at or after a number, modulo 4,096, that is not live. -/
def firstFree (live : List Nat) : Nat → Nat → Nat
  | 0, c => c % 4096
  | n + 1, c => if live.contains (c % 4096) then firstFree live n (c + 1) else c % 4096

/-- A grant from a list: the iteration, and the list with it live and the cursor past it. -/
def grantOf (l : FreeList) : Nat × FreeList :=
  let n := firstFree l.live 64 l.cursor
  (n, { l with cursor := (n + 1) % 4096, live := l.live ++ [n], since := l.since ++ [n] })

/-- Whether a list can grant: fewer than 64 iterations are live. -/
def canGrant (l : FreeList) : Bool := l.live.length < 64

/-- Whether an earlier lane of the same gathered issue has yet to fire this slot; lanes are granted in lane order. -/
def laneBefore (s : State) (i : Issue) : Bool :=
  match s.op? i.f.u i.f.op with
  | none => false
  | some q => q.firings.any fun g =>
      g.st == .running && g.issue == i.fi.issue && g.started && g.num.getD 0 < i.fi.num.getD 0 && !g.fired.contains i.slot

/-- Ask for an iteration of a loop region: the grant and the state with it taken, or the state in which the request
waits (R117). -/
def askIteration (s : State) (i : Issue) (lreg : Nat) : Option Nat × State :=
  let k := s.regOf i.f.u
  let r := s.region k
  let mine := r.tagReqs.find? fun q => q.f == i.f && q.slot == i.slot
  let keep := fun (s : State) (n : Nat) => s.modFiring i.f fun g => { g with grants := g.grants ++ [(lreg, n)] }
  match mine with
  | some q =>
    match q.grant with
    | none => (none, s)
    | some n => (some n, keep (s.modRegion k fun r => { r with tagReqs := r.tagReqs.filter fun p => !(p.f == i.f && p.slot == i.slot) }) n)
  | none =>
    if laneBefore s i then (none, s)
    else
      let l := tabGet r.lists lreg
      if canGrant l && !(r.tagReqs.any fun q => q.lreg == lreg && q.grant.isNone) then
        let (n, l') := grantOf l
        (some n, keep (s.modRegion k fun r => { r with lists := tabSet r.lists lreg l' }) n)
      else (none, s.modRegion k fun r => { r with tagReqs := r.tagReqs ++ [{ f := i.f, slot := i.slot, lreg := lreg }] })

/-- TAGOP on a token (R61): TAGOP 5 takes an iteration of the token's own loop region and waits for it. -/
def withTagOp (s : State) (i : Issue) (op : BitVec 4) (imm : BitVec 20) (t : Token) (run : State → Token → State) : State :=
  if op.toNat == 5 then
    match askIteration s i t.lreg.toNat with
    | (none, s) => s
    | (some n, s) => run s { t with iter := BitVec.ofNat 12 n }
  else run s (tagOp op.toNat imm.toNat t)

/-! ### Moving values -/

/-- mov (R111). -/
def execMov (h : Hdr) (f : FormA) (s : State) : Host.Outcome State Fault Refusal :=
  runPlain s h fun i => give s i h (i.result (if f.i then movImm h.ty f.imm else atWidth h.ty i.l.pay) false)

/-- movi (R111). -/
def execMovi (h : Hdr) (f : FormA) (s : State) : Host.Outcome State Fault Refusal :=
  runPlain s h fun i => give s i h (i.result (resultOf h.ty (opval h.ty (immPay f.imm))) false)

/-- movk (R111): H in MODE[1:0], K16 in IMM23[15:0]. -/
def execMovk (h : Hdr) (f : FormA) (s : State) : Host.Outcome State Fault Refusal :=
  runPlain s h fun i =>
    give s i h (i.result (movkPay h.ty i.l.pay (f.mode.toNat % 4) (f.imm.toNat % 65536)) false)

/-- The words before a slot that are in instructions of a channel. -/
def insBefore (ws : List Word) (n c : Nat) : Nat :=
  ((ws.take n).filter fun w => wOp w == 0x04 && wbits w 27 24 == c).length

/-- The token that an in receives (R92): the k-th of its channel, in the order of the blocks as the firing runs them
(log 97), then of slots, then of repetitions. -/
def inToken (s : State) (i : Issue) (c : Nat) : Option Token :=
  let ws := ((blockOf? s i.f).map Prod.snd).getD []
  (tabGet i.fi.toks c)[tabGet i.fi.insBase c + insBefore ws i.slot c * max i.fi.nrep 1 + i.fi.rep]?

/-- in (R92, R112). -/
def execInTok (h : Hdr) (f : FormC) (s : State) : Host.Outcome State Fault Refusal :=
  runPlain s h fun i =>
    match inToken s i f.ch.toNat with
    | none => give s i h i.nullTok
    | some t => withTagOp s i f.tagop f.imm { t with pay := atWidth h.ty t.pay } fun s t => give s i h t

/-- out (R112): a send is staged; a null out sends nothing. -/
def execOutTok (h : Hdr) (f : FormC) (s : State) : Host.Outcome State Fault Refusal :=
  runSide s h (fun i =>
    withTagOp s i f.tagop f.imm { i.l with pay := atWidth h.ty i.l.pay, deps := s.carry i.deps } fun s t =>
      complete s i h (.send f.ch.toNat t false)) true

/-- rd (R113): the value last committed. -/
def execRd (h : Hdr) (f : FormS) (s : State) : Host.Outcome State Fault Refusal :=
  runPlain s h fun i =>
    let r := tabGet ((s.op? i.f.u i.f.op).getD {}).sregs f.id.toNat
    give s i h { i.tok (atWidth h.ty r.val) with x := r.x, p := r.p, deps := r.deps }

/-- wr (R113): recorded for the commit; a null wr leaves the register unchanged and counts as produced. -/
def execWr (h : Hdr) (f : FormS) (s : State) : Host.Outcome State Fault Refusal :=
  runPlain s h fun i =>
    (fired s i).modFiring i.f fun g =>
      { g with wrs := tabSet g.wrs f.id.toNat
                 { val := atWidth h.ty i.l.pay, x := i.l.x, p := i.l.p, deps := s.carry i.deps } }

/-- sel (R115). -/
def execSel (h : Hdr) (f : FormA) (s : State) : Host.Outcome State Fault Refusal :=
  match gate s h false false true with
  | .idle => .next s
  | .null i => .next (giveNull s i h)
  | .poison i => .next (takePoison s i)
  | .run i =>
    let v : Token := if i.l.pay ≠ 0 then i.r else if f.i then { pay := movImm h.ty f.imm } else i.x
    if i.l.n || v.n then .next (giveNull s i h)
    else .next (give s i h { i.tok (atWidth h.ty v.pay) with x := i.l.x || v.x, p := i.l.p || v.p })

/-- null (R115). -/
def execNull (h : Hdr) (_f : FormA) (s : State) : Host.Outcome State Fault Refusal :=
  match gate s h false false true with
  | .idle => .next s
  | .null i | .poison i | .run i => .next (giveNull s i h)

/-! ### Branches (R116) -/

/-- The firing's branch is known. -/
def setBranch (s : State) (i : Issue) (b : Nat) : State := (fired s i).modFiring i.f fun g => { g with branch := some b }

/-- br. -/
def execBr (h : Hdr) (f : FormA) (s : State) : Host.Outcome State Fault Refusal :=
  runPlain s h fun i => setBranch s i (f.imm.toNat % 64)

/-- brc: N = 1 takes the second block, P = 1 raises POISON. -/
def execBrc (h : Hdr) (f : FormA) (s : State) : Host.Outcome State Fault Refusal :=
  match gate s h false false true with
  | .idle => .next s
  | .null i | .poison i | .run i =>
    if i.l.p then .next (takePoison s i)
    else .next (setBranch s i (brcBlock f.imm.toNat (i.l.pay ≠ 0 && !i.l.n)))

/-! ### Tags (R117-R119) -/

/-- The gettag layout of a tag and SEQ (R118). -/
def tagPay (t : Token) : Word := BitVec.ofNat 64 (t.sq.toNat * 65536 + t.tag)

/-- tagnew (R118). -/
def execTagnew (h : Hdr) (f : FormC) (s : State) : Host.Outcome State Fault Refusal :=
  runPlain s h fun i =>
    let l := f.imm.toNat % 16
    match askIteration s i l with
    | (none, s) => s
    | (some n, s) =>
      let t : Token := { lreg := BitVec.ofNat 4 l, iter := BitVec.ofNat 12 n }
      give s i h { t with pay := tagPay t }

/-- tagfree (R118): the iteration leaves the live set at commit; no result. -/
def execTagfree (h : Hdr) (_f : FormC) (s : State) : Host.Outcome State Fault Refusal :=
  runPlain s h fun i =>
    (fired s i).modFiring i.f fun g => { g with tagfrees := g.tagfrees ++ [(i.l.lreg.toNat, i.l.iter.toNat)] }

/-- tagset (R118). -/
def execTagset (h : Hdr) (f : FormC) (s : State) : Host.Outcome State Fault Refusal :=
  runPlain s h fun i =>
    let t := i.result (atWidth h.ty i.l.pay) false
    if h.ar == 2 then
      give s i h { t with lreg := BitVec.ofNat 4 (wbits i.r.pay 15 12), iter := BitVec.ofNat 12 (wbits i.r.pay 11 0)
                          sq := BitVec.ofNat 8 (wbits i.r.pay 23 16) }
    else withTagOp s i f.tagop f.imm t fun s t => give s i h t

/-- gettag (R118). -/
def execGettag (h : Hdr) (_f : FormC) (s : State) : Host.Outcome State Fault Refusal :=
  runPlain s h fun i => give s i h (i.result (tagPay i.l) false)

/-- count (R119). -/
def execCount (h : Hdr) (f : FormA) (s : State) : Host.Outcome State Fault Refusal :=
  runPlain s h fun i =>
    let n := i.fi.num.getD 0
    give s i h (i.result (BitVec.ofNat 64 (if f.i then n % f.imm.toNat else n)) false)

/-- rix (R119). -/
def execRix (h : Hdr) (_f : FormA) (s : State) : Host.Outcome State Fault Refusal :=
  runPlain s h fun i => give s i h (i.result (BitVec.ofNat 64 i.fi.rep) false)

end Sys2Proof.Machine
end

