-- ==== Sys2Proof/Machine/Integer.lean ====
section
/-! DEFINITION. The integer instructions, opcodes 0x20-0x39 (R108, R109, R120-R125). -/

namespace Sys2Proof.Machine

/-- The operands in order (R108, R120): the tokens, then the immediate. -/
def intArgs (h : Hdr) (f : FormA) (i : Issue) : List Int :=
  (i.ops.map fun t => opval h.ty t.pay) ++ (if f.i then [opval h.ty (immPay f.imm)] else [])
def argA (l : List Int) : Int := l.getD 0 0
def argB (l : List Int) : Int := l.getD 1 0
def argC (l : List Int) : Int := l.getD 2 0

/-- The last operand whole (R123). -/
def lastPay (f : FormA) (i : Issue) : Nat := (if f.i then immPay f.imm else (i.ops.getLast?.map (·.pay)).getD 0).toNat

/-- An integer instruction of its operands (R108, R109, R121). -/
def runInt (h : Hdr) (f : FormA) (s : State) (v : List Int → Int) : Host.Outcome State Fault Refusal :=
  runPlain s h fun i => give s i h (i.result (resultOf h.ty (v (intArgs h f i))) false)

/-- add (R121). -/
def execAdd (h : Hdr) (f : FormA) (s : State) : Host.Outcome State Fault Refusal :=
  runInt h f s fun a => argA a + argB a

/-- sub (R121). -/
def execSub (h : Hdr) (f : FormA) (s : State) : Host.Outcome State Fault Refusal :=
  runInt h f s fun a => argA a - argB a

/-- mul (R121). -/
def execMul (h : Hdr) (f : FormA) (s : State) : Host.Outcome State Fault Refusal :=
  runInt h f s fun a => argA a * argB a

/-- mulh (R121). -/
def execMulh (h : Hdr) (f : FormA) (s : State) : Host.Outcome State Fault Refusal :=
  runInt h f s fun a => (argA a * argB a).fdiv (2 ^ h.ty.width : Nat)

/-- div (R121). -/
def execDiv (h : Hdr) (f : FormA) (s : State) : Host.Outcome State Fault Refusal :=
  runInt h f s fun a => intDiv h.ty (argA a) (argB a)

/-- rem (R121). -/
def execRem (h : Hdr) (f : FormA) (s : State) : Host.Outcome State Fault Refusal :=
  runInt h f s fun a => intRem h.ty (argA a) (argB a)

/-- min (R121). -/
def execMin (h : Hdr) (f : FormA) (s : State) : Host.Outcome State Fault Refusal :=
  runInt h f s fun a => if argA a ≤ argB a then argA a else argB a

/-- max (R121). -/
def execMax (h : Hdr) (f : FormA) (s : State) : Host.Outcome State Fault Refusal :=
  runInt h f s fun a => if argA a ≥ argB a then argA a else argB a

/-- abs (R121). -/
def execAbs (h : Hdr) (f : FormA) (s : State) : Host.Outcome State Fault Refusal :=
  runInt h f s fun a => if argA a < 0 then -argA a else argA a

/-- neg (R121). -/
def execNeg (h : Hdr) (f : FormA) (s : State) : Host.Outcome State Fault Refusal :=
  runInt h f s fun a => -argA a

/-- adds (R121). -/
def execAdds (h : Hdr) (f : FormA) (s : State) : Host.Outcome State Fault Refusal :=
  runInt h f s fun a => clampInt (argA a + argB a) (tyMin h.ty) (tyMax h.ty)

/-- subs (R121). -/
def execSubs (h : Hdr) (f : FormA) (s : State) : Host.Outcome State Fault Refusal :=
  runInt h f s fun a => clampInt (argA a - argB a) (tyMin h.ty) (tyMax h.ty)

/-- and (R121). -/
def execAnd (h : Hdr) (f : FormA) (s : State) : Host.Outcome State Fault Refusal :=
  runInt h f s fun a => bitwiseOf h.ty (· &&& ·) (argA a) (argB a)

/-- or (R121). -/
def execOr (h : Hdr) (f : FormA) (s : State) : Host.Outcome State Fault Refusal :=
  runInt h f s fun a => bitwiseOf h.ty (· ||| ·) (argA a) (argB a)

/-- xor (R121). -/
def execXor (h : Hdr) (f : FormA) (s : State) : Host.Outcome State Fault Refusal :=
  runInt h f s fun a => bitwiseOf h.ty (· ^^^ ·) (argA a) (argB a)

/-- andn (R121). -/
def execAndn (h : Hdr) (f : FormA) (s : State) : Host.Outcome State Fault Refusal :=
  runInt h f s fun a => bitwiseOf h.ty (andNot h.ty.width) (argA a) (argB a)

/-- shl (R122). -/
def execShl (h : Hdr) (f : FormA) (s : State) : Host.Outcome State Fault Refusal :=
  runInt h f s fun a => intShl h.ty (argA a) (argB a)

/-- shr (R122). -/
def execShr (h : Hdr) (f : FormA) (s : State) : Host.Outcome State Fault Refusal :=
  runInt h f s fun a => intShr h.ty (argA a) (argB a)

/-- rot (R122). -/
def execRot (h : Hdr) (f : FormA) (s : State) : Host.Outcome State Fault Refusal :=
  runInt h f s fun a => intRot h.ty (argA a) (argB a)

/-- clz (R121). -/
def execClz (h : Hdr) (f : FormA) (s : State) : Host.Outcome State Fault Refusal :=
  runInt h f s fun a => intClz h.ty (argA a)

/-- popc (R121). -/
def execPopc (h : Hdr) (f : FormA) (s : State) : Host.Outcome State Fault Refusal :=
  runInt h f s fun a => intPopc h.ty (argA a)

/-- bfx (R123): the control is the last operand whole. -/
def execBfx (h : Hdr) (f : FormA) (s : State) : Host.Outcome State Fault Refusal :=
  runPlain s h fun i => give s i h (i.result (resultOf h.ty (intBfx h.ty (argA (intArgs h f i)) (lastPay f i))) false)

/-- bfi (R123). -/
def execBfi (h : Hdr) (f : FormA) (s : State) : Host.Outcome State Fault Refusal :=
  runPlain s h fun i =>
    let a := intArgs h f i
    give s i h (i.result (resultOf h.ty (intBfi h.ty (argA a) (argB a) (lastPay f i))) false)

/-- cmp (R124): COND in MODE; 1 or 0 in all 64 bits. -/
def execCmp (h : Hdr) (f : FormA) (s : State) : Host.Outcome State Fault Refusal :=
  runPlain s h fun i =>
    let a := intArgs h f i
    give s i h (i.result (if intCmp f.mode.toNat (argA a) (argB a) then 1 else 0) false)

/-- cvti (R125): FLAG in MODE[3], SRC in MODE[2:0]. -/
def execCvti (h : Hdr) (f : FormA) (s : State) : Host.Outcome State Fault Refusal :=
  runPlain s h fun i =>
    give s i h (i.result (resultOf h.ty (intCvt (Ty.ofCode (f.mode.toNat % 8)) h.ty (f.mode.toNat / 8 == 1) i.l.pay)) false)

/-- mad (R121). -/
def execMad (h : Hdr) (f : FormA) (s : State) : Host.Outcome State Fault Refusal :=
  runInt h f s fun a => argA a * argB a + argC a

end Sys2Proof.Machine
end

