-- ==== Sys2Proof/Machine/Float.lean ====
section
/-! DEFINITION. The floating-point instructions, opcodes 0x40-0x53 (R126-R138). -/

namespace Sys2Proof.Machine

/-- The format of a type (R23, R126); the verifier passes only types that are one. -/
def fmtOf! (ty : Ty) : Fmt := (fmtOf ty).getD .f32
/-- RND of MODE[2:0] and FLAG of MODE[3] (R127). -/
def rndOf (f : FormA) : RMode := rmodeOf (f.mode.toNat % 8)
def flagOf (f : FormA) : Bool := f.mode.toNat / 8 == 1
/-- The source type of a conversion (R127). -/
def srcOf (f : FormA) : Ty := Ty.ofCode (f.imm.toNat % 16)
/-- The low bits of a payload that hold an element of a format (R24, R126). -/
def fpBits (m : Fmt) (p : Word) : Nat := p.toNat % 2 ^ m.width

/-- The operands in order (R126): the tokens, then the immediate converted exactly. -/
def fpArgs (h : Hdr) (f : FormA) (i : Issue) : List Nat :=
  (i.ops.map fun t => fpBits (fmtOf! h.ty) t.pay)
    ++ (if f.i then [fpBits (fmtOf! h.ty) (movImm h.ty f.imm)] else [])
def fpA (l : List Nat) : Nat := l.getD 0 0
def fpB (l : List Nat) : Nat := l.getD 1 0
def fpC (l : List Nat) : Nat := l.getD 2 0

/-- A rounding instruction of its operands (R128, R138): the code, and X. -/
def runFp (h : Hdr) (f : FormA) (s : State) (v : Fmt → RMode → Nat → List Nat → Nat × Bool) :
    Host.Outcome State Fault Refusal :=
  runPlain s h fun i =>
    let r := v (fmtOf! h.ty) (rndOf f) (fireDraw s i 0) (fpArgs h f i)
    give s i h (i.result (BitVec.ofNat 64 r.1) r.2)

/-- An instruction that never rounds and raises no X of its own (R131-R133). -/
def runFpBits (h : Hdr) (f : FormA) (s : State) (v : Fmt → List Nat → Nat) : Host.Outcome State Fault Refusal :=
  runPlain s h fun i => give s i h (i.result (BitVec.ofNat 64 (v (fmtOf! h.ty) (fpArgs h f i))) false)

/-- fadd (R128, R129). -/
def execFadd (h : Hdr) (f : FormA) (s : State) : Host.Outcome State Fault Refusal :=
  runFp h f s fun m rm d a => fpAdd m rm d (fpA a) (fpB a)

/-- fsub (R128, R129). -/
def execFsub (h : Hdr) (f : FormA) (s : State) : Host.Outcome State Fault Refusal :=
  runFp h f s fun m rm d a => fpSub m rm d (fpA a) (fpB a)

/-- fmul (R128, R129). -/
def execFmul (h : Hdr) (f : FormA) (s : State) : Host.Outcome State Fault Refusal :=
  runFp h f s fun m rm d a => fpMul m rm d (fpA a) (fpB a)

/-- fdiv (R128, R129). -/
def execFdiv (h : Hdr) (f : FormA) (s : State) : Host.Outcome State Fault Refusal :=
  runFp h f s fun m rm d a => fpDiv m rm d (fpA a) (fpB a)

/-- fma (R128, R129): one rounding. -/
def execFma (h : Hdr) (f : FormA) (s : State) : Host.Outcome State Fault Refusal :=
  runFp h f s fun m rm d a => fpFma m rm d (fpA a) (fpB a) (fpC a)

/-- sqrt (R134). -/
def execSqrt (h : Hdr) (f : FormA) (s : State) : Host.Outcome State Fault Refusal :=
  runFp h f s fun _ rm d a => fpSqrt rm d (fpA a)

/-- rcp (R134). -/
def execRcp (h : Hdr) (f : FormA) (s : State) : Host.Outcome State Fault Refusal :=
  runFp h f s fun _ rm d a => fpRcp rm d (fpA a)

/-- rsq (R134). -/
def execRsq (h : Hdr) (f : FormA) (s : State) : Host.Outcome State Fault Refusal :=
  runFp h f s fun _ rm d a => fpRsq rm d (fpA a)

/-- ex2 (R134). -/
def execEx2 (h : Hdr) (f : FormA) (s : State) : Host.Outcome State Fault Refusal :=
  runFp h f s fun _ rm d a => fpEx2 rm d (fpA a)

/-- lg2 (R134). -/
def execLg2 (h : Hdr) (f : FormA) (s : State) : Host.Outcome State Fault Refusal :=
  runFp h f s fun _ rm d a => fpLg2 rm d (fpA a)

/-- fmin (R131, R42). -/
def execFmin (h : Hdr) (f : FormA) (s : State) : Host.Outcome State Fault Refusal :=
  runFpBits h f s fun m a => fpMinMax m false (flagOf f) (fpA a) (fpB a)

/-- fmax (R131, R42). -/
def execFmax (h : Hdr) (f : FormA) (s : State) : Host.Outcome State Fault Refusal :=
  runFpBits h f s fun m a => fpMinMax m true (flagOf f) (fpA a) (fpB a)

/-- fabs (R131). -/
def execFabs (h : Hdr) (f : FormA) (s : State) : Host.Outcome State Fault Refusal :=
  runFpBits h f s fun m a => fpAbs m (fpA a)

/-- fneg (R131). -/
def execFneg (h : Hdr) (f : FormA) (s : State) : Host.Outcome State Fault Refusal :=
  runFpBits h f s fun m a => fpNeg m (fpA a)

/-- fcmp (R132): 1 or 0 in all 64 bits. -/
def execFcmp (h : Hdr) (f : FormA) (s : State) : Host.Outcome State Fault Refusal :=
  runFpBits h f s fun m a => if fpCmp m f.mode.toNat (fpA a) (fpB a) then 1 else 0

/-- fclass (R133). -/
def execFclass (h : Hdr) (f : FormA) (s : State) : Host.Outcome State Fault Refusal :=
  runFpBits h f s fun m a => fpClass m (fpA a)

/-- cvtf (R135). -/
def execCvtf (h : Hdr) (f : FormA) (s : State) : Host.Outcome State Fault Refusal :=
  runPlain s h fun i =>
    let m := fmtOf! (srcOf f)
    let r := fpCvt m (fmtOf! h.ty) (rndOf f) (flagOf f) (fireDraw s i 0) (fpBits m i.l.pay)
    give s i h (i.result (BitVec.ofNat 64 r.1) r.2)

/-- cvtfi (R136). -/
def execCvtfi (h : Hdr) (f : FormA) (s : State) : Host.Outcome State Fault Refusal :=
  runPlain s h fun i =>
    let m := fmtOf! (srcOf f)
    let r := fpToInt m h.ty (rndOf f) (flagOf f) (fireDraw s i 0) (fpBits m i.l.pay)
    give s i h (i.result (resultOf h.ty r.1) r.2)

/-- cvtif (R137). -/
def execCvtif (h : Hdr) (f : FormA) (s : State) : Host.Outcome State Fault Refusal :=
  runPlain s h fun i =>
    let r := fpOfInt (fmtOf! h.ty) (rndOf f) (flagOf f) (fireDraw s i 0) (opval (srcOf f) i.l.pay)
    give s i h (i.result (BitVec.ofNat 64 r.1) r.2)

/-- fscale (R130): the exponent is bits [31:0] of r, signed, whatever the type. -/
def execFscale (h : Hdr) (f : FormA) (s : State) : Host.Outcome State Fault Refusal :=
  runPlain s h fun i =>
    let m := fmtOf! h.ty
    let r := fpScale m (rndOf f) (fireDraw s i 0) (fpBits m i.l.pay) (signedOf 32 i.r.pay.toNat)
    give s i h (i.result (BitVec.ofNat 64 r.1) r.2)

end Sys2Proof.Machine
end

