-- ==== Sys2Proof/Machine/Memory.lean ====
section
/-! DEFINITION. The memory instructions, opcodes 0x60-0x6B (R144-R166). -/

namespace Sys2Proof.Machine

/-- OFF18, sign-extended (R155). -/
def offPay (f : FormM) : Word := f.off.signExtend 64
/-- Loaded bytes as a payload (R156). -/
def loadPay (ty : Ty) (bs : List Byte) : Word := fillTo ty (natOfBytes bs)

/-! ### Addresses (R155) -/

/-- The address of ld by its operand count. -/
def ldAddr (h : Hdr) (f : FormM) (i : Issue) : Word :=
  match h.ar.toNat with
  | 0 => offPay f
  | 1 => i.l.pay + offPay f
  | _ => i.l.pay + i.r.pay * BitVec.ofNat 64 (tySize h.ty) + offPay f

/-- The address of st by its operand count. -/
def stAddr (h : Hdr) (f : FormM) (i : Issue) : Word :=
  match h.ar.toNat with
  | 0 | 1 => offPay f
  | 2 => i.l.pay + offPay f
  | _ => i.l.pay + i.r.pay * BitVec.ofNat 64 (tySize h.ty) + offPay f

/-- The data operand of st by its operand count. -/
def stData (h : Hdr) (i : Issue) : Token :=
  match h.ar.toNat with
  | 0 | 1 => i.l
  | 2 => i.r
  | _ => i.x

/-- base + OFF18. -/
def baseAddr (f : FormM) (i : Issue) : Word := i.l.pay + offPay f

/-! ### The register space (R14, R298) -/

/-- The place in the register space that an instruction of a system core is about to reach, unless it is one of the
queues' registers and `block` says that the instruction may reach those: the spec gives nothing else there. -/
def regSpaceStop (s : State) (h : Hdr) (side block : Bool) (addr : Issue → Addr) : Option Nat :=
  match gate s h side with
  | .run i =>
    match addr i with
    | .ok (.mem pa) _ _ =>
      if isCore i.f.u && inRegSpace pa && !(block && (queueBlock pa).isSome) then some pa else none
    | _ => none
  | _ => none

/-! ### ld, st and ldl -/

/-- Whether a load through L1 meets a word there with a two-bit error (R100). The copy is gone after 4,096 cycles, when its
lease is over (R254). -/
def l1Bad (s : State) (u asp : Nat) (loc : Loc) (n : Nat) : Bool :=
  match loc with
  | .mem pa => asp == 0 && (s.unit u).l1bad.any fun w => w.1 < pa + n && pa < w.1 + 8 && s.clk < w.2 + 4096
  | _ => false

/-- ld (R156-R158): it performs at issue, once what it depends on outside its block has performed, and waits while
another agent holds its line. -/
def execLd (h : Hdr) (f : FormM) (s : State) : Host.Outcome State Fault Refusal :=
  let addr := fun (i : Issue) => unitAddr s i.f.u f.as.toNat (ldAddr h f i) (tySize h.ty) kLoad
  match regSpaceStop s h false true addr with
  | some pa => .refused (.registerSpace pa)
  | none =>
    runPlain s h fun i =>
      if mustWait s i then s
      else
        withAddr s i kLoad (addr i) fun loc _ _ =>
          if heldAt s i.f loc (plainPlaces (unitDie i.f.u)) then s
          else
            let (bs, bad, ids, s) := fireRead s i.f i.fi i.deps false loc (tySize h.ty)
            let t := i.result (loadPay h.ty bs) false
            performed s i h { t with p := t.p || bad || l1Bad s i.f.u f.as.toNat loc (tySize h.ty), deps := ids }

/-- st (R156, R157): staged. -/
def execSt (h : Hdr) (f : FormM) (s : State) : Host.Outcome State Fault Refusal :=
  let addr := fun (i : Issue) => unitAddr s i.f.u f.as.toNat (stAddr h f i) (tySize h.ty) kWrite
  match regSpaceStop s h true true addr with
  | some pa => .refused (.registerSpace pa)
  | none =>
    runSideDual s h fun i =>
      withAddr s i kWrite (addr i) fun loc cls _ =>
        complete s i h (.store loc (bytesOf (tySize h.ty) (stData h i).pay.toNat) f.scope.toNat cls)

/-- How a traversal of ldl stands: at its end, or stopped by a wait or a fault in the state it leaves. -/
inductive Walked where
  | done (p : Word) (bad : Bool) (out : List (Word × Bool)) (ids : List Nat) (s : State)
  | stop (s : State)
  deriving Repr

/-- The traversal of ldl (R160): at most `n` nodes from p on. A node that is not 64-byte aligned faults before anything else
of its address is looked at. -/
def ldlWalk (h : Hdr) (f : FormM) (i : Issue) : Nat → State → Word → Bool → List (Word × Bool) → List Nat → Walked
  | 0, s, p, bad, out, ids => .done p bad out ids s
  | n + 1, s, p, _, out, ids =>
    match if p.toNat % 64 ≠ 0 then Addr.fault fALIGN p else unitAddr s i.f.u f.as.toNat p 64 kLoad with
    | .miss va => .stop (askWalk s (unitDie i.f.u) (s.ctxOf i.f.u) va kLoad (.fire i.f))
    | .fault c a => .stop (takeBlock s i c a)
    | .ok loc _ _ =>
      if heldAt s i.f loc (plainPlaces (unitDie i.f.u)) then .stop s
      else
        let (bs, bad, k, s) := fireRead s i.f i.fi i.deps false loc 64
        let link := BitVec.ofNat 64 (natOfBytes (bs.take 8))
        let out := out ++ [(loadPay h.ty ((bs.drop f.off.toNat).take (tySize h.ty)), bad)]
        if link == 0 || bad then .done link bad out (ids ++ k) s else ldlWalk h f i n s link bad out (ids ++ k)

/-- The nodes that ldl may read (R160). -/
def ldlCount (h : Hdr) (i : Issue) : Nat := if h.ar == 2 then min i.r.pay.toNat 64 else 64

/-- Stage the tokens that ldl emits, in order (R160); they depend on its reads. -/
def stageEmits (i : Issue) (ch : Nat) (ids : List Nat) : Nat → List (Word × Bool) → State → State
  | _, [], s => s
  | k, (v, bad) :: r, s =>
    let t : Token := { pay := v, lreg := i.l.lreg, iter := i.l.iter, sq := BitVec.ofNat 8 k, p := bad, deps := s.carry (setUnion i.deps ids) }
    stageEmits i ch ids (k + 1) r (stage s i (.send ch t true)).2

/-- ldl (R160): the emitted tokens are staged; the result is the last link. -/
def execLdl (h : Hdr) (f : FormM) (s : State) : Host.Outcome State Fault Refusal :=
  match regSpaceStop s h false false fun i => unitAddr s i.f.u f.as.toNat i.l.pay 64 kLoad with
  | some pa => .refused (.registerSpace pa)
  | none =>
  runPlain s h fun i =>
    if mustWait s i then s
    else
      match ldlWalk h f i (ldlCount h i) s i.l.pay i.ps [] [] with
      | .stop s => s
      | .done p bad out ids s =>
        give (stageEmits i f.sub.toNat ids 0 out s) i h
          { i.tok p with sq := 0, x := i.xs, p := bad, deps := ids }

/-! ### Atomics (R161-R163) -/

/-- The result of an atomic operation and its exception (R161). -/
def atomicOp (ty : Ty) (sub m v : Nat) : Nat × Bool :=
  let w := ty.width
  if sub == 6 then (v % 2 ^ w, false)
  else if ty == .f32 then
    match sub with
    | 0 => fpAdd .f32 .rne 0 m v
    | 1 => (fpMinMax .f32 false false m v, false)
    | _ => (fpMinMax .f32 true false m v, false)
  else
    let a := opval ty (BitVec.ofNat 64 m)
    let b := opval ty (BitVec.ofNat 64 v)
    (match sub with
      | 0 => (m + v) % 2 ^ w
      | 1 => patOf w (min a b)
      | 2 => patOf w (max a b)
      | 3 => m &&& v
      | 4 => m ||| v
      | _ => m ^^^ v, false)

/-- An atomic performs (R162): its line is held for the block from now on, with the bytes that the commit will write,
and it yields the word it read. The obligation is met at the commit. -/
def holdLine (s : State) (i : Issue) (h : Hdr) (loc : Loc) (place cls : Nat) (ws : List (Nat × List Byte)) (t : Token) : State :=
  let (k, s) := s.newKey
  let s := { s with holds := s.holds ++ [{ id := k, f := i.f, since := s.clk, loc := loc, place := place, cls := cls, writes := ws }] }
  let (d, s) := stage s i (.hold k)
  give (s.follows d s.mpos) i h { t with deps := [d] }

/-- The offset of a place in its line. -/
def Loc.inLine : Loc → Nat
  | .mem a => a % 64
  | .host _ a => a % 64
  | .scratch _ a => a % 64

/-- The flags of an atomic's token (R161): X of r and x and of the operation. -/
def atomicTok (i : Issue) (ty : Ty) (bs : List Byte) (exc : Bool) : Token :=
  { i.tok (loadPay ty bs) with x := i.r.x || i.x.x || exc }

/-- The common shape of amo, cas and oamo: the place read under no other hold, poison refused (R161, R162). -/
def runAtomic (h : Hdr) (f : FormM) (s : State) (align n : Nat)
    (run : Issue → Loc → Nat → Nat → List Byte → State → State) : Host.Outcome State Fault Refusal :=
  let addr := fun (i : Issue) => unitAddr s i.f.u f.as.toNat (baseAddr f i) align kAtomic
  match regSpaceStop s h true false addr with
  | some pa => .refused (.registerSpace pa)
  | none =>
    runSideDual s h fun i =>
      if mustWait s i then s
      else
        withAddr s i kAtomic (addr i) fun loc cls pol =>
          let place := atomicPlace i.f.u loc f.scope.toNat pol
          if heldAt s i.f loc [place] then s
          else
            let (bs, bad, _, s) := fireRead s i.f i.fi i.deps true loc n
            if bad then takeBlock s i fPOISON (baseAddr f i) else run i loc cls place bs s

/-- amo (R161, R162). -/
def execAmo (h : Hdr) (f : FormM) (s : State) : Host.Outcome State Fault Refusal :=
  let n := tySize h.ty
  runAtomic h f s n n fun i loc cls place bs s =>
    let r := atomicOp h.ty f.sub.toNat (natOfBytes bs) (i.r.pay.toNat % 2 ^ h.ty.width)
    holdLine s i h loc place cls [(loc.inLine, bytesOf n r.1)] (atomicTok i h.ty bs r.2)

/-- cas (R161, R162): stores only when the word equals r bit for bit. -/
def execCas (h : Hdr) (f : FormM) (s : State) : Host.Outcome State Fault Refusal :=
  let n := tySize h.ty
  runAtomic h f s n n fun i loc cls place bs s =>
    let ws := if bs == bytesOf n i.r.pay.toNat then [(loc.inLine, bytesOf n i.x.pay.toNat)] else []
    holdLine s i h loc place cls ws (atomicTok i h.ty bs false)

/-- Whether an ordered atomic of a firing's slot is buffered. -/
def oaBuffered (s : State) (f : FireRef) (slot : Nat) : Bool := s.oaWaits.any fun w => w.f == f && w.slot == slot
def oaDrop (s : State) (f : FireRef) (slot : Nat) : State :=
  { s with oaWaits := s.oaWaits.filter fun w => !(w.f == f && w.slot == slot) }

/-- A request above the due number arrives at its place (R163): it takes one of the 31 shared entries; when they are
full the place refuses the request of the same word with the highest number, the arriving one among them. -/
def oaArrive (s : State) (w : OaWait) : State :=
  if oaBuffered s w.f w.slot then s
  else
    let here := s.oaWaits.filter fun v => v.place == w.place
    if here.length < 31 then { s with oaWaits := s.oaWaits ++ [w] }
    else
      let top := (here.filter fun v => v.loc == w.loc).foldl (fun (m : OaWait) v => if v.seq > m.seq then v else m) w
      if top == w then s else { oaDrop s top.f top.slot with oaWaits := (oaDrop s top.f top.slot).oaWaits ++ [w] }

/-- oamo (R163): the word and its due number; performed when due, buffered when early, null when late. -/
def execOamo (h : Hdr) (f : FormM) (s : State) : Host.Outcome State Fault Refusal :=
  let n := tySize h.ty
  runAtomic h f s 16 16 fun i loc cls place bs s =>
    let due := natOfBytes (bs.drop 8)
    let q := i.x.pay.toNat
    if q < due then giveNull (oaDrop s i.f i.slot) i h
    else if q > due then oaArrive s { f := i.f, slot := i.slot, loc := loc, place := oaPlace loc place, seq := q }
    else
      let r := atomicOp h.ty f.sub.toNat (natOfBytes (bs.take n)) (i.r.pay.toNat % 2 ^ h.ty.width)
      holdLine (oaDrop s i.f i.slot) i h loc place cls
        [(loc.inLine, bytesOf n r.1), (loc.inLine + 8, bytesOf 8 (due + 1))] (atomicTok i h.ty (bs.take n) r.2)

/-! ### pref, cwb, cinv and ojoin (R164, R165) -/

/-- pref: a page that translates is filled at its level; of that only a decoded view line at the home bank shows
(R152). It raises nothing. -/
def prefLines (s : State) (u scope va : Nat) : Nat → State
  | 0 => s
  | n + 1 =>
    let s := prefLines s u scope va n
    let a := va + 64 * n
    if scope < 3 || a ≥ 2 ^ 56 then s
    else
      match xlateNow s (unitDie u) (s.ctxOf u) a kLoad (!isCore u) with
      | (.ok pa _, s) => if physFault s pa kLoad then s else fillView s pa
      | (_, s) => s

/-- pref (R164): the completion token at issue. -/
def execPref (h : Hdr) (f : FormM) (s : State) : Host.Outcome State Fault Refusal :=
  runSide s h fun i =>
    if mustWait s i then s
    else
      let a := (baseAddr f i).toNat
      performed (prefLines s i.f.u f.scope.toNat (lineOf a) (f.sub.toNat + 1)) i h i.completion

/-- The physical lines of SUB + 1 lines from the line of an address, or the first that misses or faults. -/
def linesFrom (s : State) (u kind : Nat) : Nat → Nat → Except Addr (List Nat)
  | 0, _ => .ok []
  | n + 1, va =>
    match globalAddr s u va kLoad with
    | .ok (.mem pa) _ _ =>
      if physFault s pa kind then .error (.fault fPERM (BitVec.ofNat 64 va))
      else
        match linesFrom s u kind n (va + 64) with
        | .ok l => .ok (lineOf pa :: l)
        | .error e => .error e
    | .ok _ _ _ => .ok []
    | a => .error a

/-- cwb and cinv: staged over their lines; the address is one of 8 bytes (R155, type none). -/
def runLines (h : Hdr) (f : FormM) (s : State) (kind : Nat) (mk : List Nat → Eff) : Host.Outcome State Fault Refusal :=
  runSide s h fun i =>
    let a := (baseAddr f i).toNat
    if a < 2 ^ 56 && a % 8 ≠ 0 then takeBlock s i fALIGN (baseAddr f i)
    else
      match linesFrom s i.f.u kind (f.sub.toNat + 1) (lineOf a) with
      | .ok ls => complete s i h (mk ls)
      | .error a => withAddr s i kLoad a fun _ _ _ => s

/-- cwb (R164): a view address faults as a store to it does (R152). -/
def execCwb (h : Hdr) (f : FormM) (s : State) : Host.Outcome State Fault Refusal :=
  runLines h f s kWrite fun ls => .cwb ls f.scope.toNat

/-- cinv (R164). -/
def execCinv (h : Hdr) (f : FormM) (s : State) : Host.Outcome State Fault Refusal :=
  runLines h f s kLoad fun ls => .cinv ls f.scope.toNat

/-- ojoin (R165): one completion token with every obligation of its operands. -/
def execOjoin (h : Hdr) (_f : FormM) (s : State) : Host.Outcome State Fault Refusal :=
  runSide s h fun i => give s i h i.completion

/-- Write back the lines that are dirty at their home banks (R164). -/
def cleanLines (s : State) (ls : List Nat) : State := { s with dirty := s.dirty.filter fun l => !ls.contains l }

/-- cwb performs (R164). -/
def performCwb (s : State) (ls : List Nat) (scope : Nat) : State := if scope ≥ 5 then cleanLines s ls else s

/-- A unit's L1 loses its copies of some lines. -/
def dropL1 (s : State) (u : Nat) (ls : List Nat) : State :=
  if (s.unit u).l1bad.isEmpty then s
  else s.modUnit u fun v => { v with l1bad := v.l1bad.filter fun w => !ls.contains (lineOf w.1) }

/-- cinv performs (R153, R164): the tarn's L1 drops the lines; at scope 3 and wider the home banks write dirty lines back and
drop them, a view line among them. -/
def performCinv (s : State) (u : Nat) (ls : List Nat) (scope : Nat) : State :=
  let s := dropL1 s u ls
  if scope ≥ 3 then { cleanLines s ls with views := s.views.filter fun v => !ls.contains v.1 } else s

/-! ### Frames (R147, R166) -/

/-- falloc (R166): at issue; nothing is reserved past the frame limit. -/
def execFalloc (h : Hdr) (f : FormM) (s : State) : Host.Outcome State Fault Refusal :=
  runSide s h fun i =>
    if mustWait s i then s
    else
      let m := memUnit i.f.u
      let p := (s.unit m).plane
      let b := if h.ar == 0 then f.off.toNat else i.l.pay.toNat
      let b := (b + 63) / 64 * 64
      if p.top + b > p.limit then give s i h (i.result (BitVec.allOnes 64) false)
      else if b == 0 then give s i h (i.result (BitVec.ofNat 64 (p.top - p.base)) false)
      else
        let s := s.modPlane m fun p => { p with top := p.top + b }
        let s := s.modFiring i.f fun g => { g with frees := (p.top + b, p.top) :: g.frees }
        give (noteUsed s (s.ctxOf i.f.u)) i h (i.result (BitVec.ofNat 64 (p.top - p.base)) false)

/-- Whether a frame offset may be freed to (R166). -/
def freeOk (p : Plane) (l : Nat) : Bool := l == 0 || (p.frame ≤ l && l ≤ p.top - p.base)

/-- ffree (R166): staged; an offset below FRAME or past the top raises PERM. -/
def execFfree (h : Hdr) (_f : FormM) (s : State) : Host.Outcome State Fault Refusal :=
  runSide s h fun i =>
    if freeOk (s.unit (memUnit i.f.u)).plane i.l.pay.toNat then complete s i h (.ffree i.l.pay.toNat)
    else takeBlock s i fPERM i.l.pay

/-- ffree takes effect at commit (R166). -/
def performFfree (s : State) (u off : Nat) : State :=
  if off == 0 then s else noteUsed (s.modPlane (memUnit u) fun p => { p with top := p.base + off }) (s.ctxOf u)

end Sys2Proof.Machine
end

