-- ==== Sys2Proof/Machine/Flows.lean ====
section
/-! DEFINITION. Sending packets to other devices (R378, R379, R382-R384, R393): flows, links toward a device, answers. -/

namespace Sys2Proof.Machine

/-- Usable links (R381). -/
def linkUsable (s : State) (n : Nat) : Bool := (s.link n).st == .up || (s.link n).st == .degraded

/-- The links toward a device by the routing table (R383); none while the table is off. -/
def routeLinks (s : State) (dev : Nat) : Nat :=
  let r := s.devReg 0x312
  if wbit r 0 then memNat s.mem (wbits r 51 12 * 4096 + 4 * dev) 4 % 2 ^ 18 else 0

/-- The first-hop link toward a device: the lowest-numbered usable one a route allows (R382, R383). -/
def firstHop (s : State) (dev links : Nat) : Option Nat :=
  (upFrom 0 18).find? fun n =>
    linkUsable s n && routeLinks s dev / 2 ^ n % 2 == 1 && (links == 0 || links / 2 ^ n % 2 == 1)

/-- A multicast group's entry (R384); 0 while the table is off. -/
def groupEntry (s : State) (g : Nat) : Nat :=
  let r := s.devReg 0x310
  if wbit r 0 then memNat s.mem (wbits r 51 12 * 4096 + 8 * g) 8 else 0

/-- The OUT links of a group's entry, its LOCAL bit and its IN link. -/
def mcOut (e : Nat) : List Nat := (upFrom 0 18).filter fun n => e / 2 ^ n % 2 == 1
def mcLocal (e : Nat) : Bool := e / 2 ^ 18 % 2 == 1
def mcIn (e : Nat) : Nat := bits e 23 19

/-- The UNIT field of a packet's header from a contributor record's parts (R172, R378). -/
def unitField (c : Contrib) : Nat := c.unit + c.die * 2 ^ 16 + c.kind * 2 ^ 19

/-- The parts of a contributor record that name a sender (R172). -/
def agentContrib (s : State) (a : Agent) : Contrib :=
  match a with
  | .oper u o => { unitContrib s u with oper := o }
  | .port d c _ => unitContrib s (tarn0 d c)
  | .engine d e => { dev := s.devId, kind := 2, die := d, unit := e }
  | .shore v u => { dev := v, kind := 3, unit := u }
  | .link n => { dev := s.devId, kind := 3, unit := n }
  | _ => { dev := s.devId }

/-- The flits of a packet (R378). -/
def packetFlits (p : Packet) : Nat := 1 + (p.data.length + 63) / 64

/-- A link has moved some flits: a run of 2^20 ends, and its retransmissions count from 0 again (R380). -/
def countFlits (l : Link) (k : Nat) : Link :=
  if l.flits + k ≥ 1048576 then { l with flits := l.flits + k - 1048576, window := 0 } else { l with flits := l.flits + k }

/-- Put a packet on a link. -/
def onLink (s : State) (n : Nat) (p : Packet) : State :=
  { s.modLink n (fun l => countFlits l (packetFlits p)) with sentPkts := s.sentPkts ++ [(n, p)] }

/-- A packet for this device itself waits at its shore. -/
def toShore (s : State) (p : Packet) : State := { s with shore := s.shore ++ [{ link := 31, pkt := p }] }

/-- Whether a flow's packets have a way under some allowed links: a first hop; for a group any OUT link or local
delivery. -/
def hasWay (s : State) (f : Flow) (links : Nat) : Bool := f.mc || f.dev == s.devId || (firstHop s f.dev links).isSome

/-- Whether everything a flow has not had acknowledged has a way. -/
def flowWay (s : State) (f : Flow) : Bool := f.unacked.all fun x => hasWay s f x.links

/-- Whether a collection of ACKs is that of a packet's. -/
def mcFor (a : McAck) (src unit ctx flow group : Nat) : Bool :=
  a.src == src && a.unit == unit && a.ctx == ctx && a.flow == flow && a.group == group

/-- Send copies of a group's packet to the links that a collection still waits for, this device's own among them. -/
def mcCopies (s : State) (a : McAck) (p : Packet) : State :=
  a.want.foldl (fun s n => if n == 31 then toShore s p else onLink s n p) s

/-- The collection of ACKs that a group's packet needs here. -/
def mcNeed (s : State) (p : Packet) (from_ : Nat) : McAck :=
  let e := groupEntry s p.dst
  { src := p.src, unit := p.unit, ctx := p.ctx, flow := p.flow, group := p.dst, from_ := from_
    want := mcOut e ++ (if mcLocal e then [31] else []) }

/-- Put a flow's packet on its way: the first hop, or one copy on each OUT link of the group and one for this device,
which waits at the shore (R384). A copy sent again goes only where its ACK is missing. -/
def sendVia (s : State) (f : Flow) (x : Sent) : State :=
  let p := x.pkt
  if f.mc then
    match s.mcAcks.find? fun a => mcFor a p.src p.unit p.ctx p.flow p.dst with
    | some a => mcCopies s a p
    | none =>
      let a := mcNeed s p 31
      mcCopies { s with mcAcks := s.mcAcks ++ [a] } a p
  else if f.dev == s.devId then toShore s p
  else
    match firstHop s f.dev x.links with
    | some n => onLink s n p
    | none => s

/-- Cut data into pieces of at most 2,048 bytes (R378); no data is one piece. -/
def pieces : Nat → List Byte → List (List Byte)
  | 0, bs => [bs]
  | n + 1, bs => if bs.length ≤ 2048 then [bs] else bs.take 2048 :: pieces n (bs.drop 2048)

/-- A sender's flow to a device and context (R379), made when it is new. -/
def flowOf (s : State) (a : Agent) (dev : Nat) (mc : Bool) (ctx : Nat) : Flow × State :=
  let u := unitField (agentContrib s a)
  match s.flows.find? fun f => f.unit == u && f.dev == dev && f.mc == mc && f.ctx == ctx with
  | some f => (f, s)
  | none =>
    let (k, s) := s.newKey
    let f : Flow := { id := k, unit := u, dev := dev, mc := mc, ctx := ctx }
    (f, { s with flows := s.flows ++ [f] })

/-- Send a message on a flow (R378, R379): split, numbered, remembered until acknowledged, and put on its way; a flow
without a usable link waits (R393). The answer is the FLOW number of its last packet. -/
def flowSend (s : State) (a : Agent) (src dev : Nat) (mc : Bool) (ctx links : Nat) (p : Packet) : Nat × State :=
  let (f, s) := flowOf s a dev mc ctx
  let parts := pieces (p.data.length / 2048) p.data
  let ps : List Sent := parts.zipIdx.map fun d =>
    { pkt := { p with src := s.devId, dst := dev, mc := mc, ctx := ctx, unit := f.unit, flow := f.next + d.2, data := d.1 }
      who := a, src := some src, links := links }
  let way := hasWay s f links
  let f' := { f with
    next := f.next + ps.length, unacked := f.unacked ++ ps
    stuck := if way then f.stuck else (match f.stuck with | some t => some t | none => some s.clk) }
  let s := { s with flows := listMod (fun g => g.id == f.id) (fun _ => f') s.flows }
  (f.next + ps.length - 1, if way && f.stuck.isNone then ps.foldl (fun s x => sendVia s f' x) s else s)

/-- Whether a flow may take another token: it is not off (R379). -/
def flowOpen (s : State) (a : Agent) (dev : Nat) (mc : Bool) (ctx : Nat) : Bool :=
  let u := unitField (agentContrib s a)
  !(s.flows.any fun f => f.unit == u && f.dev == dev && f.mc == mc && f.ctx == ctx && f.off)

/-- Send again every packet a flow has not had acknowledged (R393): its FLOW numbers stay. -/
def resendFlow (s : State) (f : Flow) : State :=
  let s := { s with flows := listMod (fun g => g.id == f.id) (fun g => { g with stuck := none, told := false }) s.flows }
  f.unacked.foldl (fun s x => sendVia s f x) s

/-- Flows that wait and have a way again go on; flows without one begin to wait (R393). -/
def reviewFlows (s : State) : State :=
  s.flows.foldl (fun s f =>
    if flowWay s f then (if f.stuck.isSome then resendFlow s f else s)
    else if f.unacked.isEmpty || f.stuck.isSome then s
    else { s with flows := listMod (fun g => g.id == f.id) (fun g => { g with stuck := some s.clk }) s.flows }) s

/-- Answer a packet toward its device: by the routing table, else on the link it came by. -/
def answer (s : State) (n dev : Nat) (p : Packet) : State :=
  onLink s ((firstHop s dev 0).getD n) { p with src := s.devId, dst := dev }

/-- An ACK of a flow's packet (R378). -/
def ackOf (p : Packet) (status : Nat) : Packet :=
  { typ := pkACK, ctx := p.ctx, unit := p.unit, body := bytesOf 4 p.flow ++ bytesOf 4 status }

/-- A dependency set that every store performed so far is in, and the state that knows it: for what acquires elements or
intervals (R235, R247, R257), and for what another device sends, whose set has performed (R251, note 8 of R260; log 102). -/
def linkDeps (s : State) : List Nat × State :=
  let (k, s) := s.newKey
  ([k], s.follows k s.mpos)

/-- Bytes of a firing's virtual range, a line at a time, as AS 0 loads (R155, R157): the bytes, whether any is poisoned, and
what follows depends on, or the state the stop leaves. -/
inductive Range where
  | ok (bs : List Byte) (bad : Bool) (ids : List Nat) (s : State)
  | stop (s : State)
  deriving Repr

def fireRange (i : Issue) : List (Nat × Nat) → State → List Byte → Bool → List Nat → Range
  | [], s, bs, bad, ids => .ok bs bad ids s
  | (va, n) :: r, s, bs, bad, ids =>
    match globalAddr s i.f.u va kLoad with
    | .miss v => .stop (askWalk s (unitDie i.f.u) (s.ctxOf i.f.u) v kLoad (.fire i.f))
    | .fault c a => .stop (takeBlock s i c a)
    | .ok loc _ _ =>
      if heldAt s i.f loc (plainPlaces (unitDie i.f.u)) then .stop s
      else
        let (b, p, k, s) := fireRead s i.f i.fi i.deps false loc n
        fireRange i r s (bs ++ b) (bad || p) (ids ++ k)

/-- Read n bytes at an address of an issuing instruction. -/
def readRange (s : State) (i : Issue) (va n : Nat) : Range := fireRange i (vCuts (n / 64 + 2) va n) s [] false []

end Sys2Proof.Machine
end

