-- ==== Sys2Proof/Machine/Pool.lean ====
section
/-! DEFINITION. Pooled registers (R167-R187): declarations, contributions, waits, settles, global pools (R385-R389). -/

namespace Sys2Proof.Machine

/-! ### Declarations (R167-R171) -/

/-- The element type of a record. -/
def poolTy (r : PoolRec) : Ty := Ty.ofCode r.ty
/-- Element size in bytes, and B = LEN × size (R171). -/
def poolSize (r : PoolRec) : Nat := tySize (poolTy r)
def poolBytes (r : PoolRec) : Nat := r.len * poolSize r

/-- The operators and the types they take (R168). -/
def poolOpTy (op ty : Nat) : Bool :=
  if op ≤ 3 then ty == 2 || ty == 3 || ty == 0xA
  else if op == 4 then ty == 0xA
  else op ≤ 8 && (ty == 2 || ty == 3)

/-- Whether a number is a power of two from 1 to 4,096. -/
def widthOk (w : Nat) : Bool := (upFrom 0 13).any fun k => w == 2 ^ k

/-- The fields a declaration must meet (R167, R168). -/
def poolRecOk (r : PoolRec) : Bool :=
  poolOpTy r.op r.ty && 1 ≤ r.len && r.len ≤ 1024 && poolBytes r ≤ 4096 && widthOk r.width && r.expect ≤ r.width
    && r.chk ≤ 1 && (r.op ≠ 4 || (r.len ≥ 2 && r.init == 0))

/-- The initial base (R167, R180). -/
def poolInit (r : PoolRec) : List Word :=
  if r.op == 4 then 0xFF800000 :: List.replicate (r.len - 1) 0
  else List.replicate r.len (atWidth (poolTy r) r.init)

/-- The bytes of backing a declaration reserves, in 64-byte units (R171). -/
def poolUnits (r : PoolRec) : Nat :=
  let b := poolBytes r
  1 + (b + 63) / 64 + r.width * ((b + 16 + 63) / 64)

/-- The home tarn of pool n of a region (R170). -/
def poolHome (r : Region) (n : Nat) : Nat :=
  let c := max (r.width * r.height) 1
  unitKey r.die (r.cluster (n % c)) (n / c % 16)

/-- The global-pool table's entry of a pool and its rank map (R385): none when the pool is local, and an error when the
declaration fails. -/
def globalEntry (s : State) (d x n : Nat) (r : PoolRec) : Except Unit (Option (Nat × Nat × List Nat)) × State :=
  let g := s.ctxReg x 0x24
  if !wbit g 0 then (.ok none, s)
  else
    match readV s d x false (wbits g 55 12 * 4096 + 32 * n) 32 with
    | (.fault _ _ _, s) => (.error (), s)
    | (.ok bs _, s) =>
      let b := fun o k => natOfBytes ((bs.drop o).take k)
      if b 8 1 ≠ 1 then (.ok none, s)
      else
        match readV s d x false (b 0 8) (2 * r.width) with
        | (.fault _ _ _, s) => (.error (), s)
        | (.ok m _, s) =>
          let map := (upFrom 0 r.width).map fun i => natOfBytes ((m.drop (2 * i)).take 2) % 4096
          let fmtOk := b 9 1 == 0 || (b 9 1 ≤ 2 && r.op ≤ 1 && r.ty == 0xA && r.len % 32 == 0)
          if !fmtOk || !map.contains s.devId || b 10 1 ≠ x then (.error (), s) else (.ok (some (b 9 1, b 10 1, map)), s)

/-- Reserve backing in ctx.pblim (R171). -/
def setUsed (s : State) (x n u : Nat) : State := s.setCtx x n (wput (s.ctxReg x n) 63 32 u)
def usedOf (s : State) (x n : Nat) : Nat := wbits (s.ctxReg x n) 63 32

/-- The context's area has room for u units from off on: no other reservation lies there (R171). -/
def backFree (s : State) (x off u : Nat) : Bool :=
  off + u ≤ wbits (s.ctxReg x 0x15) 31 0 &&
    !(s.pools.any fun p => p.1 / 512 == x && p.2.off < off + u && off < p.2.off + p.2.resv)
/-- Where a reservation of u units goes: the lowest place that holds it (log 100). -/
def backPlace (s : State) (x u : Nat) : Option Nat :=
  (sortBy (fun a b => a < b) (0 :: (s.pools.filter fun p => p.1 / 512 == x).map fun p => p.2.off + p.2.resv)).find? fun o => backFree s x o u
/-- The virtual address of unit k of a pool's reservation. -/
def backVA (s : State) (x : Nat) (p : Pool) (k : Nat) : Nat := (wbits (s.ctxReg x 0x14) 55 6 + p.off + k) * 64

/-- Write bytes of the backing area (R171): a store of an interval at the class of its page. Where a page does not
translate, the bytes stay with the home alone (log 100). -/
def backPut (s : State) (x d va : Nat) (bs : List Byte) (own : Owner) : State :=
  ((vCuts (bs.length / 64 + 2) va bs.length).foldl (fun (a : State × List Byte) c =>
    match xlateNow a.1 d x c.1 kWrite false with
    | (.ok pa leaf, s) =>
      (if physFault s pa kWrite then s else performStore s (.mem pa) (a.2.take c.2) own (pteClass leaf), a.2.drop c.2)
    | (_, s) => (s, a.2.drop c.2)) (s, bs)).1

/-- The base line group of a pool (R171; log 100): generation, late count and X bit, then the base. -/
def baseBytes (p : Pool) : List Byte :=
  bytesOf 8 p.gen ++ bytesOf 1 p.late ++ bytesOf 1 (if p.baseX then 1 else 0) ++ bytesOf 54 0
    ++ p.base.flatMap fun w => bytesOf (poolSize p.decl) w.toNat
def putBase (s : State) (x : Nat) (p : Pool) (own : Owner) : State := backPut s x (unitDie p.home) (backVA s x p 0) (baseBytes p) own

/-- The backing slot of an index (R171, R172): the contributor record and the data. -/
def putSlot (s : State) (x : Nat) (p : Pool) (q : Partial) (own : Owner) : State :=
  let b := poolBytes p.decl
  backPut s x (unitDie p.home) (backVA s x p (1 + (b + 63) / 64 + q.idx * ((b + 16 + 63) / 64)))
    (contribBytes q.who ++ q.data.flatMap fun w => bytesOf (poolSize p.decl) w.toNat) own

/-- The owner of what a home writes for a context: its present task's interval (R338). -/
def homeOwner (s : State) (x : Nat) : Owner := { ctx := x, iv := (s.ctxReg x 1).toNat }

/-- Declare a pool (R167-R171, R186, R385): the state with it, or none for POOL_TYPE. -/
def declarePool (s : State) (x n reg : Nat) (r : PoolRec) (byRec : Bool) (task : Nat) : Option State × State :=
  let r := { r with id := n }
  match s.pool? x n with
  | some p => if p.decl == r then (some s, s) else (none, s)
  | none =>
    let u := poolUnits r
    if !poolRecOk r || usedOf s x 0x15 + u > wbits (s.ctxReg x 0x15) 31 0 then (none, s)
    else
      match backPlace s x u with
      | none => (none, s)
      | some off =>
        match globalEntry s (s.region reg).die x n r with
        | (.error _, s) => (none, s)
        | (.ok g, s) =>
          let p : Pool := { decl := r, home := poolHome (s.region reg) n, byRec := byRec, task := task, base := poolInit r, resv := u
                            off := off, opened := s.clk }
          let p := match g with
            | none => p
            | some (f, c, m) => { p with glob := true, fmt := f, gctx := c, map := m }
          let s' := putBase s x p (homeOwner s x)
          (some ((setUsed s' x 0x15 (usedOf s' x 0x15 + u)).setPool x n p), s)

/-! ### Values (R168, R178, R180) -/

/-- A value with its X bit, and its bytes in an MX format, codes before scales (R388). -/
structure PVal where
  v : List Word := []
  x : Bool := false
  enc : List Byte := []
  deriving DecidableEq, Repr, Inhabited

/-- The f32 operations of pools, rounded to nearest even. -/
def f32Add (a b : Word) : Word × Bool := let r := fpAdd .f32 .rne 0 (fpBits .f32 a) (fpBits .f32 b); (BitVec.ofNat 64 r.1, r.2)
def f32Sub (a b : Word) : Word × Bool := let r := fpSub .f32 .rne 0 (fpBits .f32 a) (fpBits .f32 b); (BitVec.ofNat 64 r.1, r.2)
def f32Mul (a b : Word) : Word × Bool := let r := fpMul .f32 .rne 0 (fpBits .f32 a) (fpBits .f32 b); (BitVec.ofNat 64 r.1, r.2)
def f32Fma (a b c : Word) : Word × Bool :=
  let r := fpFma .f32 .rne 0 (fpBits .f32 a) (fpBits .f32 b) (fpBits .f32 c); (BitVec.ofNat 64 r.1, r.2)
def f32Ex2 (a : Word) : Word × Bool := let r := fpEx2 .rne 0 (fpBits .f32 a); (BitVec.ofNat 64 r.1, r.2)
def f32Max (mx : Bool) (a b : Word) : Word := BitVec.ofNat 64 (fpMinMax .f32 mx false (fpBits .f32 a) (fpBits .f32 b))

/-- The node of one element, left first (R168). -/
def elemNode (op : Nat) (ty : Ty) (a b : Word) : Word × Bool :=
  let i := opval ty a
  let j := opval ty b
  match op with
  | 0 | 1 => if ty == .f32 then f32Add a b else (resultOf ty (clampInt (i + j) (tyMin ty) (tyMax ty)), false)
  | 2 => (if ty == .f32 then f32Max true a b else resultOf ty (max i j), false)
  | 3 => (if ty == .f32 then f32Max false a b else resultOf ty (min i j), false)
  | 5 => (a &&& b, false)
  | 6 => (a ||| b, false)
  | 7 => (atWidth ty (a ^^^ b), false)
  | _ => (resultOf ty (i + j), false)

/-- The softmax merge (R180), left first; every operation is rounded. -/
def smxNode (a b : PVal) : PVal :=
  let m1 := a.v.getD 0 0
  let m2 := b.v.getD 0 0
  let m := f32Max true m1 m2
  let eq := fun (k : Word) => fpCmp .f32 0 (fpBits .f32 k) (fpBits .f32 m)
  let scale := fun (k : Word) => if eq k then ((0x3F800000 : Word), false) else
    let d := f32Sub k m
    let e := f32Ex2 d.1
    (e.1, d.2 || e.2)
  let a1 := scale m1
  let a2 := scale m2
  let rest := ((a.v.drop 1).zip (b.v.drop 1)).map fun p =>
    let t := f32Mul a2.1 p.2
    let r := f32Fma a1.1 p.1 t.1
    (r.1, t.2 || r.2)
  { v := m :: rest.map Prod.fst, x := a.x || b.x || a1.2 || a2.2 || rest.any Prod.snd }

/-- A node of the tree (R168). -/
def poolNode (r : PoolRec) (a b : PVal) : PVal :=
  if r.op == 4 then smxNode a b
  else
    let es := (a.v.zip b.v).map fun p => elemNode r.op (poolTy r) p.1 p.2
    { v := es.map Prod.fst, x := a.x || b.x || es.any Prod.snd }

/-- The tree of R44 over 2^depth leaves from lo on. -/
def treeAt (comb : PVal → PVal → PVal) (leaf : Nat → Option PVal) : Nat → Nat → Option PVal
  | 0, lo => leaf lo
  | d + 1, lo =>
    match treeAt comb leaf d lo, treeAt comb leaf d (lo + 2 ^ d) with
    | some a, some b => some (comb a b)
    | some a, none => some a
    | none, b => b

/-- combine(base, T) (R178), with n partials in T. -/
def poolCombine (r : PoolRec) (base : PVal) (t : Option PVal) (n : Nat) : PVal :=
  match t with
  | none => base
  | some t =>
    if r.op == 1 then
      let ty := poolTy r
      let es := (base.v.zip t.v).map fun p =>
        if ty == .f32 then
          let q := fpDiv .f32 .rne 0 (fpBits .f32 p.2) (fpOfInt .f32 .rne false 0 n).1
          let s := f32Add p.1 (BitVec.ofNat 64 q.1)
          (s.1, q.2 || s.2)
        else (resultOf ty (clampInt (opval ty p.1 + truncDiv (opval ty p.2) n) (tyMin ty) (tyMax ty)), false)
      { v := es.map Prod.fst, x := base.x || t.x || es.any Prod.snd }
    else poolNode r base t

/-- The checksum of a partial's data (R175). -/
def csumOf (ty : Ty) (v : List Word) : Nat :=
  (v.foldl (fun n w => n + w.toNat % 2 ^ 32 + (if ty.width == 64 then w.toNat / 2 ^ 32 else 0)) 0) % 2 ^ 32

/-- Whether a partial fails its check or is poisoned (R175, R176, R179). -/
def partBad (r : PoolRec) (q : Partial) : Bool :=
  q.p || q.failed || (r.chk == 1 && q.csum ≠ csumOf (poolTy r) q.data)

/-! ### MX leaves and nodes of global pools (R388) -/

/-- Cut a list into blocks of 32. -/
def blocks32 {α : Type} : Nat → List α → List (List α)
  | 0, _ => []
  | n + 1, l => l.take 32 :: blocks32 n (l.drop 32)

/-- Encode FP32 elements as MXFP8 blocks and decode them exactly (R29, R43): scales, codes, values, saturation. -/
def mxRound (fmt : Nat) (v : List Word) : List Nat × List Nat × List Word × Bool :=
  let f := if fmt == 2 then Fmt.e5m2 else Fmt.e4m3
  let bs := (blocks32 (v.length / 32) v).map fun b => mxEncode f (b.map fun w => Fmt.decode .f32 (fpBits .f32 w))
  (bs.map Prod.fst, bs.flatMap fun b => b.2.map Prod.fst,
   bs.flatMap fun b => b.2.map fun c => BitVec.ofNat 64 (encodeNum .f32 .rne false 0 (mxNum f b.1 c.1)).1,
   bs.any fun b => b.2.any Prod.snd)

/-- A value as its pool's format keeps it. -/
def gRound (fmt : Nat) (v : PVal) : PVal :=
  if fmt == 0 then v
  else
    let r := mxRound fmt v.v
    { v := r.2.2.1, x := v.x || r.2.2.2, enc := (r.2.1 ++ r.1).map fun c => BitVec.ofNat 8 c }

/-! ### The set of a read (R177-R179, R385-R387) -/

/-- What a device knows of a node: present leaves, those that are bad, the value over the good ones, the records. -/
structure GNode where
  mask : List Nat := []
  bad  : List Nat := []
  val  : Option PVal := none
  recs : List (Nat × Contrib) := []
  deps : List Nat := []
  iv   : Nat := 0
  deriving DecidableEq, Repr, Inhabited

/-- The partial at an index in a generation. -/
def partAt (p : Pool) (g i : Nat) : Option Partial := p.parts.find? fun q => q.gen == g && q.idx == i

/-- One leaf held here. -/
def leafNode (p : Pool) (g i : Nat) : GNode :=
  match partAt p g i with
  | none => {}
  | some q =>
    let bad := partBad p.decl q
    { mask := [i], bad := if bad then [i] else [], val := if bad then none else some { v := q.data, x := q.x, enc := q.enc }
      recs := [(i, q.who)], deps := q.deps, iv := q.iv }

/-- A node received from another device. -/
def remoteNode (p : Pool) (g lo cnt : Nat) : GNode :=
  match p.remotes.find? fun r => r.lo == lo && r.cnt == cnt && r.gen == g with
  | none => {}
  | some r =>
    let mask := (upFrom lo cnt).filter fun i => r.mask.getD (i - lo) false
    { mask := mask, bad := r.bad, val := if mask.all r.bad.contains then none else some { v := r.value, x := r.x, enc := r.enc }
      recs := mask.zip r.recs, deps := r.deps, iv := r.iv }

/-- Two nodes joined. -/
def joinNodes (comb : PVal → PVal → PVal) (a b : GNode) : GNode :=
  { mask := a.mask ++ b.mask, bad := a.bad ++ b.bad, recs := a.recs ++ b.recs, deps := setUnion a.deps b.deps, iv := max a.iv b.iv
    val := match a.val, b.val with
      | some x, some y => some (comb x y)
      | some x, none => some x
      | none, y => y }

/-- Node(lo, lo + 2^depth) as this device evaluates it (R386, R388); the root stays in FP32. -/
def nodeAt (p : Pool) (me g : Nat) : Nat → Nat → GNode
  | 0, lo => if !p.glob || p.map.getD lo 0 == me then leafNode p g lo else remoteNode p g lo 1
  | d + 1, lo =>
    if p.glob && p.map.getD lo 0 ≠ me then remoteNode p g lo (2 ^ (d + 1))
    else
      let root := 2 ^ (d + 1) == p.decl.width
      joinNodes (fun a b => if root then poolNode p.decl a b else gRound p.fmt (poolNode p.decl a b))
        (nodeAt p me g d lo) (nodeAt p me g d (lo + 2 ^ d))

/-- The root node of the open generation. -/
def rootNode (s : State) (p : Pool) : GNode := nodeAt p s.devId p.gen (treeDepth p.decl.width) 0

/-- Whether this device holds the pool's home (R386). -/
def isHome (s : State) (p : Pool) : Bool := !p.glob || p.map.getD 0 0 == s.devId

/-- Whether a wait from a start has ended (R177). -/
def waitEnded (s : State) (p : Pool) (start : Nat) : Bool :=
  p.decl.expect == 0 || (rootNode s p).mask.length ≥ p.decl.expect
    || (p.decl.deadline ≠ 0 && s.clk ≥ start + p.decl.deadline)

/-- A read's value over a set, or the failure of a strict one (R178, R179). -/
def readValue (s : State) (p : Pool) (tol : Bool) : WaitRes :=
  let n := rootNode s p
  let low := n.bad.foldl min 0x1FFF
  if !tol && !n.bad.isEmpty then .fault 0x32 low (((n.recs.find? fun r => r.1 == low).map Prod.snd).getD {})
  else
    let v := poolCombine p.decl { v := p.base, x := p.baseX } n.val (n.mask.length - n.bad.length)
    .value v.v v.x (setUnion p.deps n.deps)

/-- The status word (R185). -/
def statWord (s : State) (p : Pool) : Word :=
  let n := rootNode s p
  let w := p.decl.width
  let low := fun (l : List Nat) => l.foldl min 0x1FFF
  let xs := (n.recs.filter fun r => r.2.x).map Prod.fst
  let miss := (upFrom 0 8).filter fun k =>
    if w < 8 then k < w && !n.mask.contains k
    else (upFrom (k * w / 8) (w / 8)).any fun i => !n.mask.contains i
  BitVec.ofNat 64 (satAt 255 p.late * 2 ^ 56 + low n.bad * 2 ^ 43 + low xs * 2 ^ 30 + n.mask.length * 2 ^ 17
    + (miss.map fun k => 2 ^ k).sum * 2 ^ 9 + p.gen % 512)

/-! ### Waits and settles (R177, R181, R186, R192) -/

/-- Settles and status requests in the home's order: not aside, not answered. -/
def inQueue (w : Wait) : Bool := (w.kind == .pset || w.kind == .pswap || w.kind == .pstat) && !w.aside && w.res.isNone && !w.remote
/-- Reads that wait. -/
def isRead (w : Wait) : Bool := (w.kind == .prd || w.kind == .pexp) && w.res.isNone && !w.remote

def setRes (p : Pool) (id : Nat) (r : WaitRes) : Pool :=
  { p with waits := listMod (fun w => w.id == id) (fun w => { w with res := some r }) p.waits }

/-- Close the open generation with a value (R181). -/
def closePool (s : State) (p : Pool) (head : Wait) (v : List Word) (x : Bool) (deps : List Nat) : Pool :=
  let g := p.gen
  let p := setRes p head.id (if head.kind == .pswap then .value v x deps else .value [] false deps)
  let p := { p with waits := p.waits.map fun (w : Wait) =>
    if w.res.isNone && !w.remote && !w.aside && w.gen == g && (isRead w || (w.kind == WaitKind.pswap && !w.cur && w.start.isSome))
    then { w with res := some (.value v x deps) } else w }
  let moved := (p.waits.filter fun (w : Wait) => w.aside && w.gen == g + 1).map fun (w : Wait) => { w with aside := false, start := some s.clk }
  let kept := (p.waits.filter fun (w : Wait) => !(w.aside && w.gen == g + 1)).map fun (w : Wait) =>
    if isRead w && w.gen == g + 1 then { w with start := some s.clk } else w
  let swap := head.kind == .pswap
  { p with
    gen := g + 1, waits := kept ++ moved, opened := s.clk
    parts := p.parts.filter (fun q => q.gen > g), remotes := p.remotes.filter (fun r => r.gen ≥ g)
    base := if swap then poolInit p.decl else v, baseX := if swap then false else x, deps := if swap then [] else deps }

/-- One answer that the pool can give now: a read whose wait has ended, or the head of the settle queue. -/
def poolStep (s : State) (p : Pool) : Option Pool :=
  match p.waits.find? fun w => isRead w && w.gen == p.gen && (w.start.map (waitEnded s p)).getD false with
  | some w => some (setRes p w.id (readValue s p w.tol))
  | none =>
    match p.waits.find? inQueue with
    | none => none
    | some w =>
      if w.kind == .pstat then some (setRes p w.id (.value [statWord s p] false []))
      else
        match w.start with
        | none =>
          let begin_ := fun (v : Wait) => { v with gen := if v.cur then p.gen else v.gen, start := some (max v.since p.opened) }
          some { p with waits := listMod (fun v => v.id == w.id) begin_ p.waits }
        | some t =>
          if w.gen < p.gen then some (setRes p w.id (.fault 0x31 0 {}))
          else if waitEnded s p t then
            match readValue s p w.tol with
            | .value v x d => some (closePool s p w v x d)
            | r => some (setRes p w.id r)
          else none

/-- Answer what can be answered. -/
def poolLoop : Nat → State → Pool → Pool
  | 0, _, p => p
  | n + 1, s, p =>
    match poolStep s p with
    | some q => poolLoop n s q
    | none => p

/-- ADDR of a pool fault's record (R291). -/
def poolAddr (n idx gen : Nat) : Word := BitVec.ofNat 64 (n % 512 + idx % 4096 * 2 ^ 9 + gen % 4 * 2 ^ 21)

/-- The result of a pool operation as a VALUE packet (R378, R387): the elements, or a fault code. A status word (`stat`)
takes 8 bytes. -/
def valuePacket (p : Pool) (stat : Bool) (flow unit ctx : Nat) (r : WaitRes) : Packet :=
  match r with
  | .value v x deps =>
    { typ := pkVALUE, unit := unit, ctx := ctx, x := x, deps := deps, body := bytesOf 4 flow ++ bytesOf 4 0
      data := v.flatMap fun w => bytesOf (if stat then 8 else poolSize p.decl) w.toNat }
  | .fault c _ src =>
    { typ := pkVALUE, unit := unit, ctx := ctx, body := bytesOf 4 flow ++ bytesOf 4 c, data := contribBytes src }

/-- The place of a fault against the unit of a released operation. -/
def pendSite (p : Pend) : FaultRec :=
  let r : FaultRec := { block := p.block, slot := p.slot, tag := p.tag, sq := p.sq, attempt := p.own.attempt, iv := p.own.iv }
  match p.who with
  | .oper u o => { r with die := unitDie u, cl := unitCl u, tarn := if isCore u then 0xFE else if isNode u then 0xFF else unitTarn u, oper := o }
  | .port d c _ => { r with die := d, cl := c }
  | .engine d _ => { r with die := d, tarn := 0xFE }
  | _ => r

/-- The unit of an agent, for a fault of the firmware. -/
def agentUnit : Agent → Nat
  | .oper u _ => u
  | .port d c _ => tarn0 d c
  | _ => 0

/-- Forget a released operation whose obligation is met. -/
def dropPend (s : State) (k : Nat) : State := { (s.meet k) with pend := s.pend.filter fun p => p.id ≠ k }

/-- Deliver the answers of a pool (R181, R192, R387): a settle's obligation is met, a failed operation faults, a remote
device gets a VALUE. What a firing asked for waits for its instruction, and an export for its stores. -/
def deliverWaits (s : State) (x n : Nat) : State :=
  match s.pool? x n with
  | none => s
  | some p =>
    let done := p.waits.filter fun w => w.res.isSome
    done.foldl (fun s w =>
      let drop := fun (s : State) =>
        match s.pool? x n with
        | some q => s.setPool x n { q with waits := q.waits.filter fun v => v.id ≠ w.id }
        | none => s
      match w.asker, w.res with
      | .fire _ _, _ => s
      | .gone, some _ => drop s
      | .remote dev unit flow ctx, some r => answer (drop s) 0 dev (valuePacket p (w.kind == .pstat) flow unit ctx r)
      | .pend k, some (.fault c i src) =>
        let e := (s.pend.find? fun q => q.id == k).getD {}
        takeFault (dropPend (drop s) k) x (agentUnit e.who) c
          { pendSite e with addr := poolAddr n i w.gen, source := if c == 0x32 then contribBytes src else [] }
      | .pend k, some (.value _ _ _) => if w.kind == .pset then dropPend (drop s) k else s
      | _, none => s) s

/-- Whether a context's waits stand still, saved with their elapsed cycles (R187). -/
def waitsSaved (s : State) (x : Nat) : Bool := (s.ctx x).st == .saved || (s.ctx x).st == .resuming

/-- The partials that a generation's opening registers (R181, R183): their obligations are met. -/
def registerHeld (s : State) (x n : Nat) (p : Pool) : State :=
  let now := fun (q : Partial) => q.gen ≤ p.gen
  let s := (p.parts.filter now).foldl (fun s q => match q.op with | some k => s.meet k | none => s) s
  s.setPool x n { p with parts := p.parts.map fun q => if now q then { q with op := none } else q }

/-- Run a pool after a change: give every answer it can, register what an opened generation takes, and deliver. -/
def runPool (s : State) (x n : Nat) : State :=
  match s.pool? x n with
  | none => s
  | some p =>
    if !isHome s p || waitsSaved s x then s
    else
      let q := poolLoop (2 * p.waits.length + 4) s p
      let s := if q.gen == p.gen then s.setPool x n q else registerHeld (putBase s x q (homeOwner s x)) x n q
      deliverWaits s x n

/-- A read, settle or status request reaches the home (R177, R181). -/
def poolArrive (s : State) (x n : Nat) (w : Wait) (c : Nat) : State :=
  let s := runPool s x n
  let w := { w with since := s.clk }
  match s.pool? x n with
  | none => s
  | some p =>
    let d := (c + 4 - p.gen % 4) % 4
    let settle := w.kind == .pset || w.kind == .pswap
    let w := if w.kind == .pstat then w
      else if w.cur then (if settle then w else { w with gen := p.gen, start := some s.clk })
      else if d == 3 then { w with gen := c, res := some (.fault 0x31 0 {}) }
      else if d == 0 then { w with gen := p.gen, start := some s.clk }
      else { w with gen := p.gen + d, aside := settle }
    runPool (s.setPool x n { p with waits := p.waits ++ [w] }) x n

/-! ### Contributions (R173-R176) -/

/-- What comes of a contribution at its home: registered or dropped, held for a later generation, or a fault against its contributor. -/
inductive Contributed where
  | ok (s : State)
  | held (s : State)
  | fault (s : State) (code : Nat)
  | differs (s : State)
  | wait
  deriving Repr

/-- A notice of a late contribution goes to its contributor (R173). -/
def lateNotice (s : State) (x n : Nat) (site : FaultRec) (idx gen : Nat) : State :=
  takeNotice s x 0x31 { site with addr := poolAddr n idx gen }

/-- The PART data of a node's value (R378, R388, R389): the value in the pool's format, scales last, the presence mask,
and a record for each present leaf, its FLAGS with P for a leaf that is bad. -/
def partData (p : Pool) (lo cnt : Nat) (g : GNode) : List Byte :=
  let v := (g.val.map (·.v)).getD (List.replicate p.decl.len 0)
  let body := if p.fmt == 0 then v.flatMap fun w => bytesOf (poolSize p.decl) w.toNat
    else match g.val with
      | some a => a.enc
      | none => (gRound p.fmt { v := v }).enc
  let mask := (upFrom 0 ((cnt + 7) / 8)).map fun k =>
    BitVec.ofNat 8 (((upFrom 0 8).filter fun j => g.mask.contains (lo + 8 * k + j)).map fun j => 2 ^ j).sum
  body ++ mask ++ g.recs.flatMap fun r =>
    contribBytes { r.2 with p := g.bad.contains r.1 }

/-- The checksum of bytes as 32-bit words (R175, R389). -/
def csumBytes (bs : List Byte) : Nat :=
  ((upFrom 0 ((bs.length + 3) / 4)).map fun k => natOfBytes ((bs.drop (4 * k)).take 4)).sum % 2 ^ 32

/-- The right-child nodes of a global pool that this device sends (R386): those it evaluates whose parent is another
device's, as first leaf and depth. -/
def sentNodes (p : Pool) (me : Nat) : List (Nat × Nat) :=
  (upFrom 0 (treeDepth p.decl.width)).flatMap fun d =>
    ((upFrom 0 (p.decl.width / 2 ^ (d + 1))).map fun k => (2 * k + 1) * 2 ^ d).filterMap fun mid =>
      if p.map.getD mid 0 == me && p.map.getD (mid - 2 ^ d) 0 ≠ me then some (mid, d) else none

/-- Send every node of a generation that has gained leaves (R386). -/
def sendParts (s : State) (x n g : Nat) : State :=
  match s.pool? x n with
  | none => s
  | some p =>
    if !p.glob then s
    else
      (sentNodes p s.devId).foldl (fun s m =>
        let (mid, d) := m
        let cnt := 2 ^ d
        let node := nodeAt p s.devId g d mid
        let mask := (upFrom mid cnt).map node.mask.contains
        let was := p.sent.any fun r => r.lo == mid && r.cnt == cnt && r.gen == g && r.mask == mask
        if node.mask.isEmpty || was then s
        else
          let data := partData p mid cnt node
          let csum := if p.decl.chk == 1 then csumBytes data else 0
          let pkt : Packet := { typ := pkPART, p := cnt == 1 && !node.bad.isEmpty, x := (node.val.map (·.x)).getD false, deps := node.deps, data := data, iv := node.iv
                                body := bytesOf 4 (n + g % 4 * 512) ++ bytesOf 4 csum ++ bytesOf 2 mid ++ bytesOf 2 cnt }
          let others := fun (l : List RemoteNode) => l.filter fun r => !(r.lo == mid && r.cnt == cnt)
          let s := match s.pool? x n with
            | some q => s.setPool x n { q with sent := { lo := mid, cnt := cnt, gen := g, mask := mask } :: others q.sent }
            | none => s
          (flowSend s (.oper p.home 8) x (p.map.getD (mid - cnt) 0) false p.gctx 0 pkt).2) s

/-- The full generation that a 2-bit number names at this device. Away from the home of a global pool the fourth one
shows that the first is past, and takes its place (log 18). -/
def genOf (s : State) (p : Pool) (c : Nat) : Option Nat × Pool :=
  let d := (c + 4 - p.gen % 4) % 4
  if d == 3 then
    if isHome s p then (none, p)
    else (some (p.gen + 3), { p with gen := p.gen + 1, parts := p.parts.filter fun q => q.gen > p.gen
                                     remotes := p.remotes.filter fun r => r.gen > p.gen })
  else (some (p.gen + d), p)

/-- Whether a partial's holder has room for it beside those it holds (R146, R170): the writer's carve-out, or the 8 of a
matrix node. What an L2 slice holds for an engine has no bound that a rule states. -/
def holderFits (s : State) (p : Pool) (q : Partial) : Bool :=
  let mine := s.pools.flatMap fun o => (o.2.parts.filter fun r =>
    r.who.dev == q.who.dev && r.who.kind == q.who.kind && r.who.die == q.who.die && r.who.unit == q.who.unit && !r.inSlot).map fun _ => poolBytes o.2.decl + 16
  let u := unitKey q.who.die (q.who.unit / 16 % 64) (q.who.unit % 16)
  if q.who.kind == 0 then mine.sum + poolBytes p.decl + 16 ≤ wbits (s.unit u).split 31 24 * 1024
  else q.who.kind ≠ 1 || mine.length < 8

/-- A partial as it is kept: at its generation, in the pool's format, its record filled (R172, R175, R388), and in its
backing slot when its holder has no room (R170). `op` is the operation that registration meets later. -/
def keptPartial (s : State) (p : Pool) (g : Nat) (q : Partial) (op : Option Nat) : Partial :=
  let v := gRound p.fmt { v := q.data, x := q.x }
  let c := if p.decl.chk == 1 then csumOf (poolTy p.decl) v.v else 0
  { q with gen := g, data := v.v, x := v.x, enc := v.enc, csum := c, op := op, inSlot := !holderFits s p q
           who := { q.who with x := v.x, p := q.p, gen := g % 4, csum := c } }

/-- Keep a partial, in the place of an earlier one or beside the others. -/
def keepPartial (s : State) (x n : Nat) (p : Pool) (q : Partial) (own : Owner) : State :=
  let s := if q.inSlot then putSlot s x p q own else s
  let same := fun (r : Partial) => r.gen == q.gen && r.idx == q.idx
  s.setPool x n { p with parts := if p.parts.any same then p.parts.map fun r => if same r then q else r else p.parts ++ [q] }

/-- A contribution at its home (R173-R176, R184, R355, R385): `site` is its contributor's place, `op` the operation. A wait
that has ended fixes its set first (R177). -/
def contribute (s : State) (x n : Nat) (q : Partial) (mirror : Bool) (site : FaultRec) (op : Nat) : Contributed :=
  let s := runPool s x n
  match s.pool? x n with
  | none => .fault s 0x33
  | some p =>
    if q.ty ≠ p.decl.ty || q.idx ≥ p.decl.width || q.data.length ≠ p.decl.len
      || (p.glob && p.map.getD q.idx 0 ≠ s.devId) then .fault s 0x34
    else
      match genOf s p q.gen with
      | (none, _) =>
        .ok (lateNotice (s.setPool x n { p with late := satAt 255 (p.late + 1) }) x n site q.idx q.gen)
      | (some g, p) =>
        let later := isHome s p && g > p.gen
        let own : Owner := { ctx := x, task := q.task, iv := q.iv }
        let q := keptPartial s p g q (if later then some op else none)
        let end_ := fun (s : State) => if later then Contributed.held s else .ok (sendParts (runPool s x n) x n g)
        match partAt p g q.idx with
        | some o =>
          if mirror then (if o.data == q.data && o.x == q.x && o.p == q.p then .ok s else .differs s)
          else if o.task == q.task && q.who.attempt > o.who.attempt then
            end_ (keepPartial (match o.op with | some k => s.meet k | none => s) x n p q own)
          else if o.task == q.task && q.who.attempt < o.who.attempt then
            .ok (s.setPool x n { p with late := satAt 255 (p.late + 1) })
          else .fault s 0x30
        | none =>
          if mirror then .wait
          else end_ (keepPartial s x n p q own)

/-- A pool's carve-out and node partials go to their backing slots at a pre-emption (R187). -/
def spillPartials (s : State) (x n : Nat) : State :=
  match s.pool? x n with
  | none => s
  | some p =>
    let out := fun (q : Partial) => !q.inSlot && q.who.kind ≤ 1 && q.who.dev == s.devId
    let s := (p.parts.filter out).foldl (fun s q => putSlot s x p q { ctx := x }) s
    (putBase s x p { ctx := x }).setPool x n { p with parts := p.parts.map fun q => if out q then { q with inSlot := true } else q }

/-! ### Drops (R169, R186) -/

/-- Drop a pool: partials go and held ones with them, waiting operations fail with POOL_UNDECL, those already answered keep
their answers, backing returns. -/
def dropPool (s : State) (x n : Nat) : State :=
  match s.pool? x n with
  | none => s
  | some p =>
    let s := setUsed { s with pools := tabDel s.pools (poolKey x n) } x 0x15 (usedOf s x 0x15 - p.resv)
    let s := p.parts.foldl (fun s q => match q.op with | some k => s.meet k | none => s) s
    p.waits.foldl (fun s w =>
      match w.asker, w.res with
      | .fire _ _, some _ | .pend _, some _ => { s with poolLeft := s.poolLeft ++ [(poolKey x n, p.decl, w)] }
      | .fire f slot, none => blockFault s f slot 0x33 (poolAddr n 0 w.gen)
      | .pend k, none =>
        let e := (s.pend.find? fun q => q.id == k).getD {}
        takeFault (dropPend s k) x (agentUnit e.who) 0x33 { pendSite e with addr := poolAddr n 0 w.gen }
      | .remote dev unit flow ctx, _ => answer s 0 dev (valuePacket p false flow unit ctx (.fault 0x33 0 {}))
      | .gone, _ => s) s

/-- The pools that the kernels of a task declared are dropped when it completes (R169). -/
def dropTaskPools (s : State) (x task : Nat) : State :=
  ((s.pools.filter fun p => p.1 / 512 == x && p.2.byRec && p.2.task == task).map fun p => p.1 % 512).foldl
    (fun s n => dropPool s x n) s

end Sys2Proof.Machine
end

