-- ==== Sys2Proof/Machine/PoolOps.lean ====
section
/-! DEFINITION. The pool instructions, opcodes 0x90-0x97 (R188-R192), and their arrival at a pool's home (R173, R177). -/

namespace Sys2Proof.Machine

/-- IMM16 of reads and settles (R188): ELEM, TOL, CUR, GEN. -/
def immElem (f : FormS) : Nat := bits f.imm.toNat 15 4
def immTol (f : FormS) : Bool := f.imm.toNat / 8 % 2 == 1
def immCur (f : FormS) : Bool := f.imm.toNat / 4 % 2 == 1
def immGen (f : FormS) : Nat := f.imm.toNat % 4

/-- The pool a released effect acts on. -/
def effPool : Eff → Option Nat
  | .pdecl n _ | .contrib n _ | .pset n _ _ _ | .pexp n _ _ _ _ _ | .pdrop n => some n
  | _ => none

/-- Whether an operator's earlier pool operations on a pool have yet to reach its home (R182). -/
def poolBehind (s : State) (who : Agent) (n : Nat) : Bool :=
  s.pend.any fun p => p.who == who && p.step == 0 && effPool p.eff == some n

/-- A fault of a pool operation against its issuer, its block aborting (R184). -/
def poolBlockFault (s : State) (i : Issue) (code n idx gen : Nat) (src : Option Contrib) : State :=
  let x := s.ctxOf i.f.u
  let site := { firingSite s i.f i.slot with addr := poolAddr n idx gen, source := (src.map contribBytes).getD [] }
  abortFiring (takeFault s x i.f.u code site) i.f .rollback

/-- pdecl (R189): the record is read at issue, the declaration released at commit. The address is one of the instruction's
type, as a load's (R155; log 101). -/
def execPdecl (h : Hdr) (f : FormS) (s : State) : Host.Outcome State Fault Refusal :=
  runSide s h fun i =>
    if mustWait s i then s
    else if i.l.pay.toNat < 2 ^ 56 && i.l.pay.toNat % tySize h.ty ≠ 0 then takeBlock s i fALIGN i.l.pay
    else
      match readRange s i i.l.pay.toNat 32 with
      | .stop s => s
      | .ok bs bad _ s =>
        if bad then takePoison s i
        else
          match poolRecOf bs with
          | some r =>
            if r.ty == h.ty.code then complete s i h (.pdecl f.id.toNat r) else poolBlockFault s i 0x34 f.id.toNat 0 0 none
          | none => poolBlockFault s i 0x34 f.id.toNat 0 0 none

/-- A poisoned operand other than the data raises POISON (R176); the data operand of pcon carries P onward. -/
def pconData (f : FormS) (i : Issue) : Token := if f.imm.toNat / 2 ^ 15 == 1 then i.r else i.l

/-- Elements of a byte list. -/
def elemsOf (ty : Ty) : Nat → List Byte → List Word
  | 0, _ => []
  | n + 1, bs => loadPay ty (bs.take (tySize ty)) :: elemsOf ty n (bs.drop (tySize ty))

/-- The partial of a contribution by an operator (R172, R175). -/
def partialOf (s : State) (i : Issue) (ty : Ty) (idx gen : Nat) (v : List Word) (x p : Bool) : Partial :=
  let own := ownerOf s i.f.u
  { idx := idx, gen := gen, ty := ty.code, data := v, x := x, p := p, task := own.task, iv := own.iv, deps := s.carry i.deps
    who := { unitContrib s i.f.u with oper := i.f.op, tag := i.l.tag, attempt := own.attempt } }

/-- pcon (R190). -/
def execPcon (h : Hdr) (f : FormS) (s : State) : Host.Outcome State Fault Refusal :=
  runSide s h (fun i =>
    let dyn := f.imm.toNat / 2 ^ 15 == 1
    let d := pconData f i
    let sel := if dyn then i.l.pay.toNat else f.imm.toNat
    let idx := sel % 4096
    let gen := bits sel 13 12
    if dyn && i.l.p then takePoison s i
    else if f.imm.toNat / 2 ^ 14 % 2 == 0 then
      complete s i h (.contrib f.id.toNat (partialOf s i h.ty idx gen [atWidth h.ty d.pay] d.x d.p))
    else if mustWait s i then s
    else
      match s.pool? (s.ctxOf i.f.u) f.id.toNat with
      | none => poolBlockFault s i 0x33 f.id.toNat idx gen none
      | some p =>
        let n := p.decl.len * tySize h.ty
        if d.pay.toNat % tySize h.ty ≠ 0 then takeBlock s i fALIGN d.pay
        else if d.pay.toNat + n > sharedSize s i.f.u then takeBlock s i fPERM d.pay
        else
          let (bs, bad, _, s) := fireRead s i.f i.fi i.deps false (.scratch (memUnit i.f.u) d.pay.toNat) n
          complete s i h (.contrib f.id.toNat (partialOf s i h.ty idx gen (elemsOf h.ty p.decl.len bs) d.x (d.p || bad)))) true

/-- The POOLOP of a request to the root of a global pool (R378, R387): opcode, IMM16, requester, and the pool (log 19). -/
def poolopPacket (s : State) (op imm n : Nat) (a : Agent) : Packet :=
  { typ := pkPOOLOP, body := bytesOf 1 op ++ bytesOf 2 imm ++ bytesOf 1 0 ++ bytesOf 4 (unitField (agentContrib s a)) ++ bytesOf 2 n }

/-- Put a request to a pool: to its home here, or on its way to the root (R177, R387). -/
def poolAsk (s : State) (x n op imm : Nat) (a : Agent) (w : Wait) : State :=
  match s.pool? x n with
  | none => s
  | some p =>
    let (k, s) := s.newKey
    let w := { w with id := k }
    if isHome s p then poolArrive s x n w (imm % 4)
    else
      let (fl, s) := flowSend s a x (p.map.getD 0 0) false p.gctx 0 (poolopPacket s op imm n a)
      s.setPool x n { p with waits := p.waits ++ [{ w with remote := true, flow := fl }] }

/-- The wait of a firing's slot. -/
def fireWait (p : Pool) (i : Issue) : Option Wait := p.waits.find? fun w => w.asker == .fire i.f i.slot

/-- The answer that a firing's slot was given by a pool that is gone since (R186). -/
def leftWait (s : State) (x n : Nat) (i : Issue) : Option (PoolRec × Wait) :=
  (s.poolLeft.find? fun w => w.1 == poolKey x n && w.2.2.asker == .fire i.f i.slot).map Prod.snd
def dropLeft (s : State) (id : Nat) : State := { s with poolLeft := s.poolLeft.filter fun w => w.2.2.id ≠ id }

/-- Whether a home takes one more waiting read or settle: it holds 16 for each pool (R287). -/
def poolTakes (p : Pool) : Bool := p.waits.length < 16

/-- prd, pswap and pstat at issue: ask once, wait, and take the answer (R191, R192). -/
def runPoolRead (h : Hdr) (f : FormS) (s : State) (i : Issue) (op : Nat) (kind : WaitKind)
    (take : State → List Word → Bool → List Nat → State) : State :=
  let x := s.ctxOf i.f.u
  let n := f.id.toNat
  if mustWait s i || poolBehind s (.oper i.f.u i.f.op) n then s
  else
    match s.pool? x n, leftWait s x n i with
    | _, some (_, w) =>
      let s := dropLeft s w.id
      match w.res with
      | some (.value v xb deps) => take s v xb deps
      | some (.fault c idx src) => poolBlockFault s i c n idx w.gen (if c == 0x32 then some src else none)
      | none => s
    | none, none => poolBlockFault s i 0x33 n 0 (immGen f) none
    | some p, none =>
      if kind ≠ .pstat && h.ty.code ≠ p.decl.ty then poolBlockFault s i 0x34 n 0 (immGen f) none
      else
        let ask := (fireWait p i).isNone && poolTakes p
        let s := if ask then poolAsk s x n op f.imm.toNat (.oper i.f.u i.f.op)
            { kind := kind, tol := immTol f, cur := immCur f, asker := .fire i.f i.slot } else s
        match s.pool? x n with
        | none => s
        | some p =>
          match fireWait p i with
          | none => s
          | some w =>
            let s' := s.setPool x n { p with waits := p.waits.filter fun v => v.id ≠ w.id }
            match w.res with
            | none => s
            | some (.fault c idx src) => poolBlockFault s' i c n idx w.gen (if c == 0x32 then some src else none)
            | some (.value v xb deps) => take s' v xb deps

/-- The element a read yields (R191). -/
def readElem (h : Hdr) (f : FormS) (i : Issue) : Nat := if h.ar == 1 then i.l.pay.toNat % 2 ^ 32 else immElem f

/-- Whether a read's element lies outside the pool's values (R184). -/
def elemPast (s : State) (h : Hdr) (f : FormS) (i : Issue) : Bool :=
  let x := s.ctxOf i.f.u
  match leftWait s x f.id.toNat i, s.pool? x f.id.toNat with
  | some (r, _), _ => readElem h f i ≥ r.len
  | none, some p => readElem h f i ≥ p.decl.len
  | none, none => false

/-- prd and pswap. -/
def runPoolValue (h : Hdr) (f : FormS) (s : State) (i : Issue) (op : Nat) (kind : WaitKind) : State :=
  if elemPast s h f i then poolBlockFault s i 0x34 f.id.toNat 0 (immGen f) none
  else
    runPoolRead h f s i op kind fun s v x deps =>
      give s i h { i.tok (v.getD (readElem h f i) 0) with x := x, deps := deps }

/-- prd (R191). -/
def execPrd (h : Hdr) (f : FormS) (s : State) : Host.Outcome State Fault Refusal :=
  runSide s h fun i => runPoolValue h f s i 0x92 .prd

/-- pswap (R181, R191). -/
def execPswap (h : Hdr) (f : FormS) (s : State) : Host.Outcome State Fault Refusal :=
  runSideDual s h fun i => runPoolValue h f s i 0x94 .pswap

/-- pstat (R185, R192). -/
def execPstat (h : Hdr) (f : FormS) (s : State) : Host.Outcome State Fault Refusal :=
  runSide s h fun i =>
    runPoolRead h f s i 0x96 .pstat fun s v _ _ => give s i h (i.tok (v.getD 0 0))

/-- pset (R192): released at commit; its completion token is met at close. -/
def execPset (h : Hdr) (f : FormS) (s : State) : Host.Outcome State Fault Refusal :=
  runSideDual s h fun i => complete s i h (.pset f.id.toNat (immGen f) (immTol f) (immCur f))

/-- The places of n bytes from a virtual address on, a line at a time, for a store: place, length, interval class. -/
def segsFrom (s : State) (u : Nat) : List (Nat × Nat) → Except Addr (List (Loc × Nat × Nat))
  | [] => .ok []
  | (va, n) :: r =>
    match globalAddr s u va kWrite with
    | .ok loc cls _ =>
      match segsFrom s u r with
      | .ok l => .ok ((loc, n, cls) :: l)
      | .error e => .error e
    | a => .error a

/-- pexp (R191): the address is translated at issue when the pool is declared then, else once its value is known; the read is
performed after commit. -/
def execPexp (h : Hdr) (f : FormS) (s : State) : Host.Outcome State Fault Refusal :=
  runSideDual s h fun i =>
    let put := fun segs => complete s i h (.pexp f.id.toNat (immGen f) (immTol f) (immCur f) i.l.pay.toNat segs)
    match s.pool? (s.ctxOf i.f.u) f.id.toNat with
    | none => put []
    | some p =>
      if i.l.pay.toNat < 2 ^ 56 && i.l.pay.toNat % poolSize p.decl ≠ 0 then takeBlock s i fALIGN i.l.pay
      else
        match segsFrom s i.f.u (vCuts (poolBytes p.decl / 64 + 2) i.l.pay.toNat (poolBytes p.decl)) with
        | .ok segs => put segs
        | .error a => withAddr s i kWrite a fun _ _ _ => s

/-- pdrop (R192): released at commit. -/
def execPdrop (h : Hdr) (f : FormS) (s : State) : Host.Outcome State Fault Refusal :=
  runSide s h fun i => complete s i h (.pdrop f.id.toNat)

/-! ### At the home -/

/-- A tier-2 fault of a region (R353): its replay is the next thing that happens. -/
def raiseReplay (s : State) (x reg code : Nat) : State :=
  { s with agenda := .event (.regionReplay x reg code) :: s.agenda }

/-- A comparison of a dual task fails (R355): both regions replay. -/
def raiseCompare (s : State) (x reg : Nat) : State :=
  let s := raiseReplay s x reg fCOMPARE
  match (s.region reg).mirror with
  | some m => raiseReplay s x m fCOMPARE
  | none => s

/-- A fault of a released pool operation (R184). -/
def pendFault (s : State) (p : Pend) (code n idx gen : Nat) : State :=
  takeFault (dropPend s p.id) p.own.ctx (agentUnit p.who) code { pendSite p with addr := poolAddr n idx gen }

/-- A released settle or export reaches the home. -/
def pendAsk (s : State) (p : Pend) (n op : Nat) (kind : WaitKind) (gen : Nat) (tol cur : Bool) : State :=
  match s.pool? p.own.ctx n with
  | none => pendFault s p 0x33 n 0 gen
  | some q =>
    if !poolTakes q then s else
    let s := { s with pend := listMod (fun q => q.id == p.id) (fun q => { q with step := 1 }) s.pend }
    poolAsk s p.own.ctx n op (gen + (if cur then 4 else 0) + (if tol then 8 else 0)) p.who
      { kind := kind, tol := tol, cur := cur, asker := .pend p.id }

/-- POOL_CONTRIB_REGISTER (R173): the released pool operation k reaches its home, after the operations it depends on
(R250, R251) and the earlier ones of its operator or engine on that pool (R182). -/
def execPoolContribRegister (k : Nat) (s : State) : Host.Outcome State Fault Refusal :=
  match s.pend.find? fun p => p.id == k with
  | none => .next s
  | some p =>
    match effPool p.eff with
    | none => .next s
    | some n =>
      let first := s.pend.find? fun q => q.who == p.who && q.step == 0 && effPool q.eff == some n
      if p.step ≠ 0 || first.map (·.id) ≠ some k || !(s.live p.deps).isEmpty then .next s
      else
        let x := p.own.ctx
        match p.eff with
        | .pdecl n r =>
          match declarePool s x n p.own.reg r false p.own.task with
          | (some s, _) => .next (dropPend s k)
          | (none, s) => .next (pendFault s p 0x34 n 0 0)
        | .contrib n q =>
          match contribute s x n q (s.region p.own.reg).isMirror (pendSite p) k with
          | .ok s => .next (touchCtx (dropPend s k) x)
          | .held s => .next (touchCtx { s with pend := s.pend.filter fun q => q.id ≠ k } x)
          | .fault s c => .next (pendFault s p c n q.idx q.gen)
          | .differs s => .next (raiseCompare (dropPend s k) x p.own.reg)
          | .wait => .next s
        | .pset n g t c => .next (pendAsk s p n 0x93 .pset g t c)
        | .pexp n g t c _ _ => .next (pendAsk s p n 0x95 .pexp g t c)
        | .pdrop n =>
          match s.pool? x n with
          | none => .next (pendFault s p 0x33 n 0 0)
          | some _ => .next (dropPend (dropPool s x n) k)
        | _ => .next s

/-- POOL_DEADLINE_EXPIRY (R177): a wait that has ended is answered; its set is fixed now. -/
def execPoolDeadlineExpiry (ctx pool wait : Nat) (s : State) : Host.Outcome State Fault Refusal :=
  match s.pool? ctx pool with
  | none => .next s
  | some p => .next (if p.waits.any (fun w => w.id == wait && w.res.isNone) then runPool s ctx pool else s)

/-- The evaluation that a released export has been given, with its pool's record. -/
def exportWait (s : State) (p : Pend) : Option (PoolRec × Wait) :=
  match p.eff with
  | .pexp n _ _ _ _ _ =>
    let here := (s.pool? p.own.ctx n).bind fun q => (q.waits.find? fun w => w.asker == .pend p.id && w.res.isSome).map fun w => (q.decl, w)
    let left := (s.poolLeft.find? fun w => w.1 == poolKey p.own.ctx n && w.2.2.asker == .pend p.id).map Prod.snd
    match here with
    | some r => some r
    | none => left
  | _ => none

/-- Forget a wait. -/
def dropWait (s : State) (id : Nat) : State :=
  { dropLeft s id with pools := s.pools.map fun p => (p.1, { p.2 with waits := p.2.waits.filter fun w => w.id ≠ id }) }

/-- The bytes an export writes: all elements of one evaluation, little-endian. -/
def exportBytes (r : PoolRec) (w : Wait) : List Byte :=
  match w.res with
  | some (.value v _ _) => v.flatMap fun e => bytesOf (poolSize r) e.toNat
  | _ => []

/-- An export performs at its places (R191): the elements are stored at package scope. -/
def performExport (s : State) (p : Pend) (w : Wait) (bs : List Byte) (segs : List (Loc × Nat × Nat)) : State :=
  dropPend (segs.foldl (fun (a : State × List Byte) g =>
    (performStore a.1 g.1 (a.2.take g.2.1) p.own g.2.2, a.2.drop g.2.1)) (dropWait s w.id, bs)).1 p.id

end Sys2Proof.Machine
end

