-- ==== Sys2Proof/Machine/Power.lean ====
section
/-! DEFINITION. Leave of the power governors and the DRAM temperature (R207, R230, R326, R404, R405). -/

namespace Sys2Proof.Machine

/-- The die budget a governor reads (R404), in watts × 255 so that 290 × TALLOW ÷ 255 stays exact. -/
def dieBudget (s : State) (d : Nat) : Nat :=
  if s.powerHost then wbits (s.dieReg d 0x282) 15 0 * 255 else 290 * wbits (s.dieReg d 0x281) 7 0

/-- A requester's leave entry on a die; a leave instruction that has yielded has none, and one that comes again asks
again (R326). -/
def leaveOf (s : State) (d : Nat) (who : LeaveFor) : Option Leave := (s.die d).leaves.find? fun l => l.who == who && !l.taken
/-- Whether it has been granted. -/
def hasLeave (s : State) (d : Nat) (who : LeaveFor) : Bool := (leaveOf s d who).any fun l => l.until_.isSome
/-- Ask for leave, once. -/
def askLeave (s : State) (d : Nat) (who : LeaveFor) (len : Nat) : State :=
  if (leaveOf s d who).isSome then s
  else s.modDie d fun x => { x with leaves := x.leaves ++ [{ who := who, since := s.clk, len := len }] }
/-- The work under a grant, or a request, has ended. -/
def endLeave (s : State) (d : Nat) (who : LeaveFor) : State :=
  s.modDie d fun x => { x with leaves := x.leaves.filter fun l => l.who ≠ who }

/-- The grants of some units' accumulator sequences end with their planes (R207). -/
def endSequences (s : State) (d : Nat) (us : List Nat) : State :=
  s.modDie d fun x => { x with leaves := x.leaves.filter fun l =>
    match l.who with | .kseq u _ => !us.contains u | _ => true }
/-- A leave instruction has yielded on its grant. -/
def takeLeave (s : State) (d : Nat) (who : LeaveFor) : State :=
  s.modDie d fun x => { x with leaves := x.leaves.map fun l => if l.who == who then { l with taken := true } else l }

/-- The cluster whose governor a request goes to. -/
def leaveCl : LeaveFor → Nat
  | .kseq u _ => unitCl u
  | .mmaOne f _ => unitCl f.u
  | .inst f _ => unitCl f.u
  | .stream _ c _ => c
  | .copy _ c _ _ => c
  | .load _ c _ => c

/-- Whether a grant is in progress. -/
def granting (now : Nat) (l : Leave) : Bool :=
  match l.until_ with
  | none => false
  | some t => t == 0 || now < t

/-- Grants of leave instructions that have run out are over. -/
def expireLeaves (s : State) (d : Nat) : State :=
  s.modDie d fun x => { x with leaves := x.leaves.filter fun l => l.until_.isNone || granting s.clk l }

/-- die.leave counts a grant and its delay (R326). -/
def countGrant (s : State) (d delay : Nat) : State :=
  let r := s.dieReg d 0x280
  s.setDie d 0x280 (wput (wput r 62 32 (satAt 0x7FFFFFFF (wbits r 62 32 + 1))) 31 0 (satAt 0xFFFFFFFF (wbits r 31 0 + delay)))

/-- LEAVE_GRANT (R404): the oldest waiting request of a die, when the projected power with it stays within the budget
its governor last read, or no grant of the die is in progress. The projection is free (log 2). -/
def execLeaveGrant (die : Nat) (s : State) : Host.Outcome State Fault Refusal :=
  let s := expireLeaves s die
  match (s.die die).leaves.find? fun l => l.until_.isNone with
  | none => .next s
  | some l =>
    let (k, s) := s.draw
    let budget := (s.cluster die (leaveCl l.who)).budget
    if (s.die die).leaves.any (granting s.clk) && Config.projectedPower k > budget then .next s
    else
      let grant := fun (m : Leave) => { m with until_ := some (if m.len == 0 then 0 else s.clk + m.len) }
      let s := s.modDie die fun x => { x with leaves := listMod (fun m => m.who == l.who && m.until_.isNone) grant x.leaves }
      .next (countGrant s die (s.clk - l.since))

/-- GOVERNOR_PERIOD (R404): every 1,024 cycles. -/
def execGovernorPeriod (die cl : Nat) (s : State) : Host.Outcome State Fault Refusal :=
  let c := s.cluster die cl
  if s.clk < c.period + 1024 then .next s
  else .next (s.modCluster die cl fun c => { c with period := s.clk / 1024 * 1024, budget := dieBudget s die / 255 })

/-- DRAM_OVERTEMP (R405): a layer's new temperature in sixteenths of a degree. -/
def execDramOvertemp (die layer temp : Nat) (s : State) : Host.Outcome State Fault Refusal :=
  if layer > 1 then .next s
  else
    let t := s.dieReg die 0x283
    let s := s.setDie die 0x283 (wput t (16 * layer + 15) (16 * layer) temp)
    let r := s.dieReg die 0x284
    if temp > 85 * 16 && !wbit r layer then
      let s := s.modDie die fun x => { x with hotAt := some s.clk }
      .next (s.setDie die 0x284 (wput (wput r 63 32 (satAt 0xFFFFFFFF (wbits r 63 32 + 1))) layer layer 1))
    else if temp < 82 * 16 then .next (s.setDie die 0x284 (wput r layer layer 0))
    else .next s

/-- leave (R326): a grant of 64 × IMM16 cycles; the token, under the firing's tag, comes when the grant begins. On a
system core no governor stands before it, and the grant begins at once (log 20). -/
def execLeave (h : Hdr) (f : FormS) (s : State) : Host.Outcome State Fault Refusal :=
  runSide s h fun i =>
    let t : Token := { i.tok 0 with lreg := i.fi.lreg, iter := i.fi.iter, sq := 0 }
    if mustWait s i then s
    else if isCore i.f.u then give s i h t
    else
      let who := LeaveFor.inst i.f i.slot
      if hasLeave s (unitDie i.f.u) who then give (takeLeave s (unitDie i.f.u) who) i h t
      else askLeave s (unitDie i.f.u) who (64 * f.imm.toNat)

end Sys2Proof.Machine
end

