-- ==== Sys2Proof/Machine/Tile.lean ====
section
/-! DEFINITION. The tile registers, accumulators and K-steps of a matrix node, opcodes 0x80-0x8E (R193-R219). -/

namespace Sys2Proof.Machine

/-! ### Tile registers (R193, R194) -/

def Tile.rows (t : Tile) : Nat := t.rowsM1 + 1
/-- COLS in bytes. -/
def Tile.cols (t : Tile) : Nat := 4 * (t.colsM1 + 1)
/-- Bits of an element of a tile's format. -/
def fmtBits (fmt mxk : Nat) : Nat :=
  match fmt with
  | 0 | 0xB | 0xC => 8
  | 8 | 9 => 16
  | 0xD => 4
  | 0xE => if mxk == 2 then 4 else 8
  | _ => 32
def Tile.elBits (t : Tile) : Nat := fmtBits t.fmt t.mxk
/-- Elements of a row. -/
def Tile.perRow (t : Tile) : Nat := t.cols * 8 / t.elBits
/-- The control register's value (R193). -/
def Tile.cfg (t : Tile) : Word := BitVec.ofNat 64 (t.fmt * 2 ^ 16 + t.mxk * 2 ^ 10 + t.rowsM1 * 32 + t.colsM1)
/-- A tile with a control register's value. -/
def Tile.setCfg (t : Tile) (v : Nat) : Tile :=
  { t with fmt := bits v 19 16, mxk := bits v 11 10, rowsM1 := bits v 9 5, colsM1 := bits v 4 0 }
/-- The code of element k of row i. -/
def Tile.code (t : Tile) (i k : Nat) : Nat :=
  if t.elBits == 4 then (memGet t.bytes (i * 128 + k / 2)).toNat / (if k % 2 == 0 then 1 else 16) % 16
  else memNat t.bytes (i * 128 + k * (t.elBits / 8)) (t.elBits / 8)
/-- A tile with element k of row i set. -/
def Tile.setCode (t : Tile) (i k v : Nat) : Tile :=
  if t.elBits == 4 then
    let a := i * 128 + k / 2
    let o := (memGet t.bytes a).toNat
    { t with bytes := memSet t.bytes a (BitVec.ofNat 8 (if k % 2 == 0 then o / 16 * 16 + v % 16 else o % 16 + v % 16 * 16)) }
  else { t with bytes := memPut t.bytes (i * 128 + k * (t.elBits / 8)) (bytesOf (t.elBits / 8) v) }
/-- Whether the side bytes hold X bits (R194). -/
def Tile.hasX (t : Tile) : Bool := t.fmt ≠ 0xE && t.fmt ≠ 0xD
/-- The X bit of element k of a row of n elements (R194). -/
def Tile.xIx (t : Tile) (k : Nat) : Nat := if t.perRow ≤ 64 then k else k / 2
def Tile.xBit (t : Tile) (i k : Nat) : Bool :=
  t.hasX && (memGet t.side (i * 8 + t.xIx k / 8)).toNat / 2 ^ (t.xIx k % 8) % 2 == 1
def Tile.setX (t : Tile) (i k : Nat) (x : Bool) : Tile :=
  if !t.hasX then t
  else
    let a := i * 8 + t.xIx k / 8
    let b := 2 ^ (t.xIx k % 8)
    let o := (memGet t.side a).toNat
    { t with side := memSet t.side a (BitVec.ofNat 8 (o - o / b % 2 * b + (if x then b else 0))) }

/-- The MX element format (R193). -/
def mxFmt (k : Nat) : Fmt := if k == 0 then .e4m3 else if k == 1 then .e5m2 else .e2m1
/-- The floating format of a tile's FMT. -/
def tileFmt (fmt : Nat) : Fmt := (fmtOf (Ty.ofCode fmt)).getD .f32
/-- Whether a format is an integer one. -/
def fmtInt (fmt : Nat) : Bool := fmt == 0 || fmt == 2

/-- The signed integer of a code (R203). -/
def Tile.int (t : Tile) (i k : Nat) : Int := signedOf t.elBits (t.code i k)
/-- The value of an element (R203). -/
def Tile.num (t : Tile) (i k : Nat) : Num :=
  if fmtInt t.fmt then numOfInt (t.int i k)
  else if t.fmt == 0xE then mxNum (mxFmt t.mxk) (memGet t.side (i * 8 + k / 32)).toNat (t.code i k)
  else if t.fmt == 0xD then
    Fmt.decode .f32 (q4nBits (memNat t.side (i * 8 + 4) 4) (memGet t.side (i * 8 + k / 64)).toNat (t.code i k))
  else (tileFmt t.fmt).decode (t.code i k)

/-- The elements a K-step takes of a row: those in 96 bytes (R203). -/
def Tile.kA (t : Tile) : Nat := 96 * 8 / t.elBits

/-! ### Accumulators (R195) -/

/-- The bits of an accumulator's element. -/
def Acc.el (a : Acc) (n : Nat) : Nat := ((tabGet? a.els n).getD 0).toNat
/-- An element set; 0 is what an unlisted one holds. -/
def Acc.setEl (a : Acc) (n v : Nat) : Acc :=
  { a with els := if v % 2 ^ 32 == 0 then tabDel a.els n else tabSet a.els n (BitVec.ofNat 32 v) }
def Acc.xOf (a : Acc) (n : Nat) : Bool := a.xs.contains n
def Acc.setXs (a : Acc) (n : Nat) (x : Bool) : Acc :=
  { a with xs := if x then setAdd a.xs n else a.xs.filter (· ≠ n) }
def Acc.int (a : Acc) (n : Nat) : Int := signedOf 32 (a.el n)

def Tiles.tile (t : Tiles) (n : Nat) : Tile := (tabGet? t.tiles n).getD {}
def Tiles.acc (t : Tiles) (n : Nat) : Acc := (tabGet? t.accs n).getD {}
def Tiles.setTile (t : Tiles) (n : Nat) (v : Tile) : Tiles := { t with tiles := tabSet t.tiles n v }
def Tiles.setAcc (t : Tiles) (n : Nat) (v : Acc) : Tiles := { t with accs := tabSet t.accs n v }
/-- Free a spring register (R196, R214, R215); a static one stays. -/
def Tiles.freeTile (t : Tiles) (n : Nat) : Tiles :=
  if t.statics.contains n then t else t.setTile n { t.tile n with st := .free }

/-- The node's tile state of an issue. -/
def nodeOf (s : State) (i : Issue) : Tiles := (s.unit i.f.u).plane.node

/-- The register a handle names (R197). -/
def handleReg (t : Token) (field : Nat) : Nat := if wbit t.pay 4 then wbits t.pay 3 0 else field

/-- Whether a register is being filled (R201). -/
def tileBusy (t : Tiles) (n : Nat) : Bool := (t.tile n).busy || (t.tile n).st == .filling
/-- Whether an accumulator's K-step is in progress (R201). -/
def accBusy (t : Tiles) (n : Nat) : Bool := t.kstep.any fun k => k.acc == n

/-- Whether an issued tst has yet to read a register (R201). -/
def tstWaits (s : State) (u n : Nat) : Bool :=
  let isT := fun (e : Eff) => match e with | .tst t _ _ _ _ => t == n | _ => false
  (s.pend.any fun p => isT p.eff && (match p.who with | .oper v _ => v == u | _ => false))
    || (s.unit u).plane.ops.any fun o => o.2.firings.any fun g => g.staged.any fun t => isT t.eff

/-- The common shape of a tile instruction that performs at issue (R201, R202): it waits for what it depends on, and
for the busy registers and accumulators it names. -/
def runTile (s : State) (h : Hdr) (tiles accs : Issue → List Nat) (run : Issue → State) : Host.Outcome State Fault Refusal :=
  runPlain s h fun i =>
    let t := nodeOf s i
    if mustWaitAll s i || (tiles i).any (tileBusy t) || (accs i).any (accBusy t) then s else run i

def setNode (s : State) (i : Issue) (f : Tiles → Tiles) : State := s.modNode i.f.u f
def regA (f : FormT) : Nat := f.a.toNat
def regB (f : FormT) : Nat := f.b.toNat
def regAcc (f : FormT) : Nat := f.acc.toNat
/-- The bits of per-op. -/
def perBits (f : FormT) (hi lo : Nat) : Nat := bits f.per.toNat hi lo

/-! ### tcfg, tzero, tbind, tfree (R211, R213, R215) -/

/-- tcfg (R210, R211): yields the value in effect after it; an illegal value of a token is null. -/
def execTcfg (h : Hdr) (f : FormT) (s : State) : Host.Outcome State Fault Refusal :=
  runTile s h (fun _ => [regA f]) (fun _ => []) fun i =>
    let v := if h.ar == 1 then wbits i.l.pay 19 0 else regB f * 65536 + perBits f 11 0
    if !tcfgOk v then giveNull s i h
    else
      let s := setNode s i fun t => t.setTile (regA f) ((t.tile (regA f)).setCfg v)
      give s i h (i.result ((nodeOf s i).tile (regA f)).cfg false)

/-- tzero (R213). -/
def execTzero (h : Hdr) (f : FormT) (s : State) : Host.Outcome State Fault Refusal :=
  let tile := perBits f 0 0 == 1
  runTile s h (fun _ => if tile then [regA f] else []) (fun _ => if tile then [] else [regAcc f]) fun i =>
    let s := setNode s i fun t =>
      if tile then t.setTile (regA f) { t.tile (regA f) with bytes := [], side := [], p := false }
      else t.setAcc (regAcc f) { t.acc (regAcc f) with isInt := perBits f 1 1 == 1, els := [], xs := [], p := false }
    give s i h i.completion

/-- Unbind an accumulator and end its leave sequence (R207, R215). -/
def unbindAcc (s : State) (u n : Nat) : State :=
  endLeave (s.modNode u fun t => t.setAcc n { t.acc n with bind := none, leave := false }) (unitDie u) (.kseq u n)

/-- tbind (R215): the newest binding; a tag bound elsewhere moves. -/
def execTbind (h : Hdr) (f : FormT) (s : State) : Host.Outcome State Fault Refusal :=
  runTile s h (fun _ => []) (fun _ => [regAcc f]) fun i =>
    let tag := if h.ar == 1 then i.l.tag else i.fi.tag
    let others := ((nodeOf s i).accs.filter fun a => a.1 ≠ regAcc f && a.2.bind.any fun b => b.1 == tag).map Prod.fst
    let s := others.foldl (fun s n => unbindAcc s i.f.u n) s
    let s := setNode s i fun t =>
      { t.setAcc (regAcc f) { t.acc (regAcc f) with bind := some (tag, perBits f 7 0, t.age) } with age := t.age + 1 }
    matchUnit (give s i h i.completion) i.f.u

/-- tfree (R215): free a spring register, or unbind an accumulator. -/
def execTfree (h : Hdr) (f : FormT) (s : State) : Host.Outcome State Fault Refusal :=
  let u := perBits f 0 0 == 1
  let reg := fun (i : Issue) => if h.ar == 1 then handleReg i.l (regA f) else regA f
  runTile s h (fun i => if u then [] else [reg i]) (fun _ => if u then [regAcc f] else []) fun i =>
    let s := if u then unbindAcc s i.f.u (regAcc f) else setNode s i fun t => t.freeTile (reg i)
    matchUnit (give s i h i.completion) i.f.u

/-! ### K-steps (R203-R207, R214) -/

/-- A leaf or node of a float step: the FP32 code and X. -/
abbrev FLeaf := Nat × Bool

/-- A leaf of a float step (R204): the exact product rounded once. -/
def floatLeaf (a b : Num) : FLeaf := finish .f32 .rne 0 (mulNum a b)
/-- A node of a float step. -/
def floatNode (a b : FLeaf) : FLeaf := let r := fpAdd .f32 .rne 0 a.1 b.1; (r.1, r.2 || a.2 || b.2)
/-- Clamped to INT32. -/
def clamp32 (v : Int) : Int := clampInt v (tyMin .i32) (tyMax .i32)

/-- One dense leaf of a step: the values of A and B and the X bits of the elements read. -/
structure KLeaf where
  an : Num := .zero false
  bn : Num := .zero false
  ai : Int := 0
  bi : Int := 0
  x  : Bool := false
  deriving DecidableEq, Repr, Inhabited

/-- The leaves of element (i, j) of a dense step (R203). -/
def denseLeaves (a b : Tile) (i j : Nat) : List (Option KLeaf) :=
  (upFrom 0 a.kA).map fun k =>
    if i < a.rows && j < b.rows && k < a.perRow && k < b.perRow then
      some { an := a.num i k, bn := b.num j k, ai := a.int i k, bi := b.int j k, x := a.xBit i k || b.xBit j k }
    else none

/-- The kept element of A at a dense position of row i (R206): its storage index, if its group is present. -/
def keptAt (a m : Tile) (i p : Nat) : Option (Option Nat) :=
  let g := p / 4
  if i < a.rows && 2 * g + 1 < a.perRow then
    let nib := (memGet m.bytes (i * 128 + g / 2)).toNat / (if g % 2 == 0 then 1 else 16) % 16
    some (if nib / 4 == p % 4 then some (2 * g + 1) else if nib % 4 == p % 4 then some (2 * g) else none)
  else none

/-- The leaves of element (i, j) of a sparse step (R206): a pruned position of a present group is +0. Row j must lie within
ROWS of B, and the element within COLS of the register it comes from. -/
def sparseLeaves (a m b0 b1 : Tile) (i j : Nat) : List (Option KLeaf) :=
  (upFrom 0 (2 * a.kA)).map fun p =>
    let (b, k) := if p < a.kA then (b0, p) else (b1, p - a.kA)
    match keptAt a m i p with
    | none => none
    | some q =>
      if j < b0.rows && k < b.perRow then
        match q with
        | some e => some { an := a.num i e, bn := b.num j k, ai := a.int i e, bi := b.int j k, x := a.xBit i e || b.xBit j k }
        | none => some { bn := b.num j k, bi := b.int j k, x := b.xBit j k }
      else none

/-- Whether a value is infinite or NaN. -/
def notFinite : Num → Bool
  | .nan | .inf _ => true
  | _ => false

/-- Whether a pruned position of a sparse step meets an infinite or NaN element of B (R206). -/
def slowSparse (a m b0 b1 : Tile) : Bool :=
  (upFrom 0 a.rows).any fun i => (upFrom 0 (2 * a.kA)).any fun p =>
    let (b, k) := if p < a.kA then (b0, p) else (b1, p - a.kA)
    match keptAt a m i p with
    | some none => (upFrom 0 b0.rows).any fun j => k < b.perRow && notFinite (b.num j k)
    | _ => false

/-- What an accumulator's element enters a float step as (R204): its FP32 code, an INT32 one converted. -/
def accFloat (a : Acc) (n : Nat) : Nat := if a.isInt then (fpOfInt .f32 .rne false 0 (a.int n)).1 else a.el n
/-- What it enters an integer step as: an FP32 one rounded and clamped, NaN giving 0. -/
def accInt (a : Acc) (n : Nat) : Int := if a.isInt then a.int n else (fpToInt .f32 .i32 .rne true 0 (a.el n)).1

/-- The new element of an accumulator under a step (R204, R205): its bits and X. -/
def stepElem (isInt za asc : Bool) (g : Nat) (gx : Bool) (acc : Acc) (n : Nat) (ls : List (Option KLeaf)) : Nat × Bool :=
  let xs := gx || (ls.any fun l => l.any (·.x)) || (!za && acc.xOf n)
  if isInt then
    let step := reduce (fun a b => clamp32 (a + b)) (ls.map fun l => l.map fun k => clamp32 (k.ai * k.bi))
    let prev := if za then 0 else if asc then clamp32 (signedOf 32 g * accInt acc n) else accInt acc n
    (patOf 32 (match step with | some v => clamp32 (prev + v) | none => prev), xs)
  else
    let step := reduce floatNode (ls.map fun l => l.map fun k => floatLeaf k.an k.bn)
    let prev : FLeaf := if za then (0, false) else if asc then fpMul .f32 .rne 0 (g % 2 ^ 32) (accFloat acc n) else (accFloat acc n, false)
    match step with
    | some v => let r := floatNode prev v; (r.1, r.2 || xs)
    | none => (prev.1, prev.2 || xs)

/-- The accumulator a step leaves (R204, R205). -/
def stepAcc (isInt za asc : Bool) (g : Nat) (gx p : Bool) (acc : Acc) (leaves : Nat → Nat → List (Option KLeaf)) : Acc :=
  (upFrom 0 1024).foldl (fun (a : Acc) n =>
    let r := stepElem isInt za asc g gx acc n (leaves (n / 32) (n % 32))
    (a.setEl n r.1).setXs n r.2) { acc with isInt := isInt, p := p || (!za && acc.p) }

/-- The leave a K-step needs (R207): that of a bound accumulator's sequence, or one of its own. -/
def stepLeave (t : Tiles) (i : Issue) (n : Nat) : LeaveFor :=
  if (t.acc n).bind.isSome then .kseq i.f.u n else .mmaOne i.f i.slot

/-- Start a K-step (R201, R214): the operands are read and the registers freed now; the accumulator is written when the
step ends. -/
def startStep (s : State) (i : Issue) (f : FormT) (next : Acc) (cycles ra rb : Nat) : State :=
  let n := regAcc f
  let s := setNode s i fun t =>
    let a := t.acc n
    let bind := a.bind.map fun b => (b.1, (b.2.1 + 1) % 256, b.2.2)
    let t := t.setAcc n { a with bind := bind, leave := a.leave || a.bind.isSome }
    let t := { t with kstep := some { acc := n, next := next, ends := s.clk + cycles, f := i.f, slot := i.slot } }
    let t := if perBits f 0 0 == 1 then t.freeTile ra else t
    if perBits f 1 1 == 1 then t.freeTile rb else t
  matchUnit s i.f.u

/-- The common shape of mma and mmasp (R207, R214): the registers it reads beside A and B, the further register of its
operand B, whose P counts as B's (R205, R206; DEDUCED, log 90), whether it is an integer step, its leaves and its cycles. -/
def runStep (h : Hdr) (f : FormT) (s : State) (more bMore : Nat → List Nat) (isInt : Tiles → Nat → Nat → Bool)
    (leaves : Tiles → Nat → Nat → (Nat → Nat → List (Option KLeaf))) (cycles : Tiles → Nat → Nat → Nat)
    : Host.Outcome State Fault Refusal :=
  let ra := fun (i : Issue) => if h.ar.toNat ≥ 2 then handleReg i.l (regA f) else regA f
  let rb := fun (i : Issue) => if h.ar.toNat ≥ 2 then handleReg i.r (regB f) else regB f
  runTile s h (fun i => [ra i, rb i] ++ more (rb i)) (fun _ => [regAcc f]) fun i =>
    let t := nodeOf s i
    let n := regAcc f
    let a := t.tile (ra i)
    let b := t.tile (rb i)
    let who := stepLeave t i n
    let g := if h.ar == 3 then i.x else i.l
    if t.kstep.isSome then s
    else if !((t.acc n).bind.isSome && (t.acc n).leave) && !hasLeave s (unitDie i.f.u) who then askLeave s (unitDie i.f.u) who 0
    else
      let p := a.p || b.p || ((bMore (rb i)).any fun r => (t.tile r).p) || (f.asc && g.p)
      let next := stepAcc (isInt t (ra i) (rb i)) f.za f.asc g.pay.toNat i.xs p (t.acc n) (leaves t (ra i) (rb i))
      startStep s i f next (cycles t (ra i) (rb i)) (ra i) (rb i)

/-- mma (R204, R214). -/
def execMma (h : Hdr) (f : FormT) (s : State) : Host.Outcome State Fault Refusal :=
  runStep h f s (fun _ => []) (fun _ => []) (fun t a b => fmtInt (t.tile a).fmt && fmtInt (t.tile b).fmt)
    (fun t a b => denseLeaves (t.tile a) (t.tile b)) fun _ _ _ => 12

/-- mmasp (R206, R214). It is an integer step when A, B and B + 1 are all of integer formats (DEDUCED, log 90). -/
def execMmasp (h : Hdr) (f : FormT) (s : State) : Host.Outcome State Fault Refusal :=
  let m := perBits f 13 10
  runStep h f s (fun b => [(b + 1) % 16, m]) (fun b => [(b + 1) % 16])
    (fun t a b => fmtInt (t.tile a).fmt && fmtInt (t.tile b).fmt && fmtInt (t.tile ((b + 1) % 16)).fmt)
    (fun t a b => sparseLeaves (t.tile a) (t.tile m) (t.tile b) (t.tile ((b + 1) % 16)))
    fun t a b => if slowSparse (t.tile a) (t.tile m) (t.tile b) (t.tile ((b + 1) % 16)) then 24 else 12

/-- The header of the instruction at a firing's slot. -/
def hdrAt (s : State) (f : FireRef) (slot : Nat) : Option Hdr :=
  match (blockOf? s f).bind fun b => b.2[slot]? with
  | none => none
  | some w =>
    match decode w with
    | .instr i => (wordParts i).map fun p => p.2.1
    | .refused _ => none

/-- KSTEP_END (R201, R204): the accumulator is written, and the instruction yields its completion token. -/
def execKstepEnd (die cl : Nat) (s : State) : Host.Outcome State Fault Refusal :=
  let u := nodeKey die cl
  match (s.node die cl).kstep with
  | none => .next s
  | some k =>
    if s.clk < k.ends then .next s
    else
      let s := s.modNode u fun t =>
        let a := t.acc k.acc
        { t.setAcc k.acc { k.next with bind := a.bind, leave := a.leave } with kstep := none }
      let s := endLeave s die (.mmaOne k.f k.slot)
      if !k.live then .next s
      else
        let s' := { s with focus := k.f, focusSlot := k.slot }
        match hdrAt s k.f k.slot with
        | none => .next s
        | some h =>
          match issueOf s' h with
          | none => .next s
          | some i => .next (give s i h i.completion)

/-! ### Elements (R216-R218) -/

/-- The row and column an element instruction names. -/
def elemAt (f : FormT) (o : Option Token) : Nat × Nat :=
  match o with
  | some t => (wbits t.pay 11 7, wbits t.pay 6 0)
  | none => (perBits f 11 7, perBits f 6 0)

/-- Whether a position lies inside what it names (R216). -/
def elemIn (t : Tiles) (f : FormT) (rc : Nat × Nat) : Bool :=
  let a := t.tile (regA f)
  if perBits f 13 13 == 1 then rc.2 < 32
  else rc.1 < a.rows && rc.2 < (if perBits f 12 12 == 1 then 8 else a.perRow)

/-- tread (R216). -/
def execTread (h : Hdr) (f : FormT) (s : State) : Host.Outcome State Fault Refusal :=
  let src := perBits f 13 13 == 1
  runTile s h (fun _ => if src then [] else [regA f]) (fun _ => if src then [regAcc f] else []) fun i =>
    let t := nodeOf s i
    let rc := elemAt f (if h.ar == 1 then some i.l else none)
    if !elemIn t f rc then giveNull s i h
    else
      let a := t.tile (regA f)
      let c := t.acc (regAcc f)
      let (v, x, p) :=
        if src then (c.el (rc.1 * 32 + rc.2), c.xOf (rc.1 * 32 + rc.2), c.p)
        else if perBits f 12 12 == 1 then ((memGet a.side (rc.1 * 8 + rc.2)).toNat, false, a.p)
        else (a.code rc.1 rc.2, a.xBit rc.1 rc.2, a.p)
      give s i h { i.tok (fillTo h.ty v) with x := x, p := p }

/-- twrite (R216): poison of the data marks what it is written into (log 21). -/
def execTwrite (h : Hdr) (f : FormT) (s : State) : Host.Outcome State Fault Refusal :=
  let src := perBits f 13 13 == 1
  runTile s h (fun _ => if src then [] else [regA f]) (fun _ => if src then [regAcc f] else []) fun i =>
    let rc := elemAt f (if h.ar == 2 then some i.r else none)
    let s := if !elemIn (nodeOf s i) f rc then s
      else setNode s i fun t =>
        let a := t.tile (regA f)
        let c := t.acc (regAcc f)
        if src then
          t.setAcc (regAcc f) { (c.setEl (rc.1 * 32 + rc.2) i.l.pay.toNat).setXs (rc.1 * 32 + rc.2) i.l.x with p := c.p || i.l.p }
        else
          let a' := if perBits f 12 12 == 1 then { a with side := memSet a.side (rc.1 * 8 + rc.2) (BitVec.ofNat 8 i.l.pay.toNat) }
            else (a.setCode rc.1 rc.2 i.l.pay.toNat).setX rc.1 rc.2 i.l.x
          t.setTile (regA f) { a' with p := a.p || i.l.p }
    give s i h i.completion

/-- The rounding mode of per-op (R209). -/
def perRnd (f : FormT) : RMode := rmodeOf (perBits f 2 0)

/-- tscal (R217): poison and X of γ go into what it scales (log 21). -/
def execTscal (h : Hdr) (f : FormT) (s : State) : Host.Outcome State Fault Refusal :=
  runTile s h (fun _ => []) (fun _ => [regAcc f]) fun i =>
    let s := setNode s i fun t =>
      let c := t.acc (regAcc f)
      let g := Fmt.decode .f32 (i.l.pay.toNat % 2 ^ 32)
      let a := (upFrom 0 1024).foldl (fun (a : Acc) n =>
        let v := if c.isInt then numOfInt (c.int n) else Fmt.decode .f32 (c.el n)
        let r := finish .f32 (perRnd f) (fireDraw s i n) (mulNum g v)
        (a.setEl n r.1).setXs n (c.xOf n || r.2 || i.l.x)) { c with isInt := false, p := c.p || i.l.p }
      t.setAcc (regAcc f) a
    give s i h i.completion

/-- An accumulator's row as a tile row of a type (R217): codes, the X bits of its elements' conversions, and the scale of
an mx row. -/
def cvtRow (s : State) (i : Issue) (h : Hdr) (f : FormT) (c : Acc) (row : Nat) : List Nat × List Bool × Nat :=
  let nums := (upFrom (row * 32) 32).map fun n => if c.isInt then numOfInt (c.int n) else Fmt.decode .f32 (c.el n)
  if h.ty == .mx then
    let r := mxEncode (mxFmt (perBits f 5 4)) nums
    (r.2.map Prod.fst, r.2.map Prod.snd, r.1)
  else
    let rs := (nums.zip (upFrom (row * 32) 32)).map fun p =>
      encodeNum (fmtOf! h.ty) (perRnd f) (perBits f 3 3 == 1) (fireDraw s i p.2) p.1
    (rs.map Prod.fst, (rs.zip (upFrom (row * 32) 32)).map fun p => p.1.2 || c.xOf p.2, 0)

/-- The tile that tcvt leaves (R217). -/
def cvtTile (s : State) (i : Issue) (h : Hdr) (f : FormT) (c : Acc) (old : Tile) : Tile :=
  let mxk := if h.ty == .mx then perBits f 5 4 else 0
  let t : Tile := { old with fmt := h.ty.code, mxk := mxk, rowsM1 := 31, colsM1 := fmtBits h.ty.code mxk - 1
                             bytes := [], side := [], p := c.p }
  (upFrom 0 32).foldl (fun (t : Tile) row =>
    let (codes, xs, sc) := cvtRow s i h f c row
    let t := codes.zipIdx.foldl (fun (t : Tile) p => t.setCode row p.2 p.1) t
    let t := xs.zipIdx.foldl (fun (t : Tile) p => t.setX row p.2 p.1) t
    if h.ty == .mx then { t with side := memSet t.side (row * 8) (BitVec.ofNat 8 sc) } else t) t

/-- Whether a conversion into an mx tile saturates, whose side bytes hold no X bits (R43, R194). -/
def cvtSaturates (s : State) (i : Issue) (h : Hdr) (f : FormT) (c : Acc) : Bool :=
  h.ty == .mx && (upFrom 0 32).any fun row => (cvtRow s i h f c row).2.1.any id

/-- tcvt (R217): waits while an issued tst has yet to read the register (R201). Its token carries the X of conversions
into an mx tile that saturate (R40, R43; DEDUCED, log 106). -/
def execTcvt (h : Hdr) (f : FormT) (s : State) : Host.Outcome State Fault Refusal :=
  runTile s h (fun _ => [regA f]) (fun _ => [regAcc f]) fun i =>
    if tstWaits s i.f.u (regA f) then s
    else
      let x := cvtSaturates s i h f ((nodeOf s i).acc (regAcc f))
      let s := setNode s i fun t => t.setTile (regA f) (cvtTile s i h f (t.acc (regAcc f)) (t.tile (regA f)))
      give s i h { i.completion with x := x }

/-- The largest magnitude of float values as FP32 (R218): NaN propagates, and what exceeds FP32 saturates, an infinite
magnitude too (R37; DEDUCED, log 91). -/
def maxMag (ns : List Num) : FLeaf :=
  if ns.any fun v => v == .nan then (Fmt.nan .f32, false)
  else
    ns.foldl (fun (m : FLeaf) v =>
      let v := match v with | .zero _ => Num.zero false | .inf _ => .inf false | .fin _ a e => .fin false a e | .nan => .nan
      let r := encodeNum .f32 .rne true 0 v
      (fpMinMax .f32 true false m.1 r.1, m.2 || r.2)) (0, false)

/-- tamax (R218). -/
def execTamax (h : Hdr) (f : FormT) (s : State) : Host.Outcome State Fault Refusal :=
  let src := perBits f 0 0 == 1
  runTile s h (fun _ => if src then [] else [regA f]) (fun _ => if src then [regAcc f] else []) fun i =>
    let t := nodeOf s i
    let a := t.tile (regA f)
    let c := t.acc (regAcc f)
    let cells := (upFrom 0 a.rows).flatMap fun r => (upFrom 0 a.perRow).map fun k => (r, k)
    let maxInt := fun (l : List Int) => resultOf .i32 (clamp32 (l.foldl (fun m v => max m v.natAbs) 0))
    let (v, x, p) :=
      if src then
        let xs := !c.xs.isEmpty
        if c.isInt then (maxInt ((upFrom 0 1024).map c.int), xs, c.p)
        else let m := maxMag ((upFrom 0 1024).map fun n => Fmt.decode .f32 (c.el n)); (BitVec.ofNat 64 m.1, xs || m.2, c.p)
      else
        let xs := cells.any fun q => a.xBit q.1 q.2
        if fmtInt a.fmt then (maxInt (cells.map fun q => a.int q.1 q.2), xs, a.p)
        else let m := maxMag (cells.map fun q => a.num q.1 q.2); (BitVec.ofNat 64 m.1, xs || m.2, a.p)
    give s i h { i.tok v with x := x, p := p }

/-- The transpose of a tile (R218), or none when it has no legal form. -/
def transTile (a old : Tile) : Option Tile :=
  let n := a.perRow
  let cols := a.rows * (a.elBits / 8)
  if !a.hasX || n > 32 || cols % 4 ≠ 0 then none
  else
    let t : Tile := { old with fmt := a.fmt, mxk := a.mxk, rowsM1 := n - 1, colsM1 := cols / 4 - 1, bytes := [], side := [], p := a.p }
    some (((upFrom 0 a.rows).flatMap fun r => (upFrom 0 n).map fun k => (r, k)).foldl
      (fun (t : Tile) q => (t.setCode q.2 q.1 (a.code q.1 q.2)).setX q.2 q.1 (a.xBit q.1 q.2)) t)

/-- ttrans (R218). -/
def execTtrans (h : Hdr) (f : FormT) (s : State) : Host.Outcome State Fault Refusal :=
  runTile s h (fun _ => [regA f, regB f]) (fun _ => []) fun i =>
    let t := nodeOf s i
    match transTile (t.tile (regA f)) (t.tile (regB f)) with
    | none => giveNull s i h
    | some v => give (setNode s i fun t => t.setTile (regB f) v) i h i.completion

/-! ### Transfers and contributions (R212, R219) -/

/-- The alignment of a transfer's base, stride and side base (R212): the first that fails. -/
def transferBad (i : Issue) (n : Nat) : Option Word :=
  if i.l.pay.toNat % 16 ≠ 0 then some i.l.pay
  else if n ≥ 2 && i.r.pay.toNat % 16 ≠ 0 then some i.r.pay
  else if n ≥ 3 && i.x.pay.toNat % 8 ≠ 0 then some i.x.pay
  else none

/-- The row stride: r, or COLS when AR = 1 (R212). -/
def transferStride (s : State) (i : Issue) (f : FormT) (n : Nat) : Int :=
  if n ≥ 2 then signedOf 64 i.r.pay.toNat else ((nodeOf s i).tile (regA f)).cols

/-- The stride of COLS is checked like a stride given (R212). -/
def strideBad (st : Int) : Bool := st % 16 ≠ 0

/-- tld and tst at issue: checked and staged (R212). -/
def runTransfer (h : Hdr) (f : FormT) (s : State) (dual : Bool) (mk : Nat → Nat → Int → Option Nat → Nat → Eff)
    : Host.Outcome State Fault Refusal :=
  let run := fun (i : Issue) =>
    let n := h.ar.toNat
    let st := transferStride s i f n
    match transferBad i n with
    | some a => takeBlock s i fALIGN a
    | none =>
      if strideBad st then takeBlock s i fALIGN i.l.pay
      else complete s i h (mk (regA f) i.l.pay.toNat st (if n == 3 then some i.x.pay.toNat else none) (perBits f 2 0))
  if dual then runSideDual s h run else runSide s h run

/-- tld (R212). -/
def execTld (h : Hdr) (f : FormT) (s : State) : Host.Outcome State Fault Refusal :=
  runTransfer h f s false fun t b st sd sc => .tld t b st sd sc

/-- tst (R212, R355). -/
def execTst (h : Hdr) (f : FormT) (s : State) : Host.Outcome State Fault Refusal :=
  runTransfer h f s true fun t b st sd sc => .tst t b st sd sc

/-- acon (R219): the accumulator as it stands at issue. -/
def execAcon (h : Hdr) (f : FormT) (s : State) : Host.Outcome State Fault Refusal :=
  runSide s h fun i =>
    let t := nodeOf s i
    if mustWaitAll s i || accBusy t (regAcc f) then s
    else
      let c := t.acc (regAcc f)
      let (pool, idx, gen) := if h.ar == 1 then (wbits i.l.pay 8 0, wbits i.l.pay 20 9, wbits i.l.pay 22 21)
        else (regA f * 16 + regB f, perBits f 11 0, perBits f 13 12)
      let ty := if c.isInt then Ty.i32 else Ty.f32
      let v := (upFrom 0 1024).map fun n => fillTo ty (c.el n)
      complete s i h (.contrib pool (partialOf s i ty idx gen v (!c.xs.isEmpty) c.p))

end Sys2Proof.Machine
end

