-- ==== Sys2Proof/Machine/Barrier.lean ====
section
/-! DEFINITION. Markers and barriers, opcodes 0xB8 and 0xB9 (R327-R337). -/

namespace Sys2Proof.Machine

/-! ### Where a spring sends (R84, R221) -/

/-- The destination of a bound spring: none when its record names none. A DEST of 0 names channel 0 of slot 0 of tarn 0
of cluster 0 when the kernel declares that input channel (log 22). -/
def springDest? (s : State) (d c p : Nat) : Option Dest :=
  let q := s.port d c p
  if !q.bound then none
  else
    match destOf s (tarn0 d c) q.dest with
    | .chan v o k => if q.dest ≠ 0 || (chanRec? s v o k).any (fun r => !r.out) then some (.chan v o k) else none
    | r => some r

/-- Deliver a token or marker straight to its place; none when it does not fit there now. -/
def deliver (s : State) (f : Flight) : Option State :=
  match f.dst with
  | .chan u o c => arriveChan s u o c f
  | .port d c p => arrivePort s d c p f

/-! ### Markers in a region -/

/-- Whether a marker of a barrier is in flight or held in a region's active planes (R332). -/
def hasMark (s : State) (k b : Nat) : Bool :=
  let us := (s.region k).units
  (s.flight.any fun f => isBar b f.item && us.contains (destAt f.dst)) || us.any fun u =>
    let p := (s.unit u).plane
    (p.ops.any fun o => o.2.chans.any fun c => c.2.held.any fun h => isBar b h.item)
      || (p.ports.any fun q => q.2.held.any fun h => isBar b h.item)
      || (p.arrival.any fun f => isBar b f.item) || p.ovf.any fun f => isBar b f.item

/-- Discard a barrier's markers and marker commands in a region's active planes, and match what its merged segments hold
(R334). -/
def dropMarks (s : State) (k b : Nat) : State := (s.region k).units.foldl matchUnit (clearMarks s k b)

/-- A barrier of a region changes. -/
def modBar (s : State) (k b : Nat) (f : Bar → Bar) : State := s.modRegion k fun r => { r with bars := tabMod r.bars b f }
def bar (s : State) (k b : Nat) : Bar := tabGet (s.region k).bars b
/-- The depth of a region's active plane. -/
def depthOf (s : State) (k : Nat) : Nat := ((s.region k).kref.getD {}).depth

/-- A barrier that is armed or propagating fails (R334). -/
def failBarrier (s : State) (k b : Nat) : State :=
  match (bar s k b).st with
  | .armed | .propagating =>
    let s := match (bar s k b).opId with | some n => s.meet n | none => s
    dropMarks (modBar s k b fun c => { failBar c with opId := none }) k b
  | _ => s

/-- Every propagating barrier of the active plane without a marker left completes (R332, R334). -/
def completeBars (s : State) (k : Nat) : State :=
  (s.region k).bars.foldl (fun s b =>
    if b.2.st == .propagating && b.2.depth == depthOf s k && !hasMark s k b.1 then
      modBar s k b.1 fun c => { answerBar c (true, c.deps) with st := .complete }
    else s) s

/-- A barrier returns to idle with a region replay (R334): as a failure, with no barw result. -/
def resetBarrier (s : State) (k b : Nat) : State :=
  let c := bar s k b
  let s := match c.opId with | some n => s.meet n | none => s
  let s := modBar s k b fun c => { c with st := .idle, cmds := [], deps := [], opId := none, waits := [] }
  if barBusy c then dropMarks s k b else s

/-- A barrier's marker commands have all started (R334, R336). -/
def barSent (s : State) (k b : Nat) : State :=
  let c := bar s k b
  if c.st == .armed && c.cmds.isEmpty then
    let s := match c.opId with | some n => s.meet n | none => s
    completeBars (modBar s k b fun c => { c with st := .propagating, opId := none }) k
  else s

/-! ### Cutting and forwarding (R328-R330) -/

/-- The routes configured into a channel, by sender (R84). -/
def routesInto (s : State) (u o c : Nat) : List Agent :=
  let r := s.region (s.regOf u)
  let here := Dest.chan u o c
  let ops := r.units.flatMap fun v => (unitConfig s v).flatMap fun q =>
    (outChans q).filterMap fun k => if !isRemote k.dest && destOf s v k.dest == here then some (.oper v q.slot) else none
  let ports := r.clusters.flatMap fun cl => (s.unit (tarn0 r.die cl)).plane.ports.filterMap fun p =>
    if springPort p.1 && springDest? s r.die cl p.1 == some here then some (.port r.die cl p.1) else none
  ops ++ ports

/-- The oldest pending marker in a channel. -/
def oldestMark (h : Chan) : Option Nat := h.held.findSome? fun x =>
  match x.item with | .mark .barrier b => some b | _ => none

/-- Whether a barrier's marker is the oldest pending one on every route into a channel. -/
def cutBy (s : State) (u o c b : Nat) : Bool :=
  let h := tabGet ((s.op? u o).getD {}).chans c
  let rs := routesInto s u o c
  !rs.isEmpty && rs.all fun a =>
    let marks := (h.held.filter fun x => x.src == a).filterMap fun x => match x.item with | .mark .barrier n => some n | _ => none
    let n := (rs.filter (· == a)).length
    (marks.take n).length == n && (marks.take n).all (· == b)

/-- Two input channels of an operator whose oldest pending markers name different barriers (R330). -/
def clashOf (s : State) (u o : Nat) : Option ((Nat × Nat) × (Nat × Nat)) :=
  match opRec? s u o, s.op? u o with
  | some r, some q =>
    let ms := (inChans r).filterMap fun k => (oldestMark (tabGet q.chans k.ch)).map fun b => (k.ch, b)
    match ms with
    | [] => none
    | m :: ms => (ms.find? fun n => n.2 ≠ m.2).map fun n => (m, n)
  | _, _ => none

/-- The failure of R330: both barriers fail and the region stops; the record's CHAN is the first channel and its ADDR
the second (log 23). -/
def checkClash (s : State) (u o : Nat) : State :=
  match clashOf s u o with
  | none => s
  | some (m, n) =>
    let k := s.regOf u
    let s := failBarrier (failBarrier s k m.2) k n.2
    takeFault s (s.ctxOf u) u fBLKSTUCK
      { unitSite u with oper := o, chan := m.1, addr := BitVec.ofNat 64 n.1, attempt := (s.region k).replays }

/-- What an operator released and has not performed: the set a barrier collects from it (R257). -/
def releasedBy (s : State) (a : Agent) : List Nat := (s.pend.filter fun p => p.who == a).map (·.id)

/-- The current segment of a channel is left behind (R328): what has not matched in it never does. -/
def leaveSegment (h : Chan) : Chan :=
  let cur := (segment h.held).map Prod.snd
  { h with held := h.held.map fun x => match x.item with
      | .tok _ => if cur.contains x.at_ then { x with past := true } else x
      | .mark _ _ => x }

/-- BARRIER_FORWARD (R329): every input channel is cut by the same barrier, no firing of the segment is left, and every
route out takes a marker. The segment is left behind, and matches start among the tokens of the next. A route that leaves the region absorbs it (R332). -/
def execBarrierForward (u op : Nat) (s : State) : Host.Outcome State Fault Refusal :=
  match opRec? s u op, s.op? u op with
  | some r, some q =>
    let k := s.regOf u
    let ks := inChans r
    match ks with
    | [] => .next s
    | k0 :: _ =>
      match oldestMark (tabGet q.chans k0.ch) with
      | none => .next s
      | some b =>
        let unmatched := (heldTags q ks).any fun t => (takeAll none q t.1 t.2.1 ks).isSome
        let outs := (outChans r).filterMap fun c => if isRemote c.dest then none else some (destOf s u c.dest)
        let outs := outs.filter fun d => (s.region k).units.contains (destAt d)
        if isCore u || (s.region k).stopped || draining s u || !(ks.all fun c => cutBy s u op c.ch b) || !q.firings.isEmpty
          || unmatched || !(outs.all (destOpen s)) then .next s
        else
          let s := ks.foldl (fun s c =>
            let rs := routesInto s u op c.ch
            let s := s.modChan u op c.ch leaveSegment
            let s := rs.foldl (fun s a =>
              let first := ((tabGet ((s.op? u op).getD {}).chans c.ch).held.find? fun x => x.src == a && isBar b x.item).map (·.at_)
              s.modChan u op c.ch fun h => dropHeld h first.toList) s
            updateOff s u op c.ch) s
          let s := outs.foldl (fun s d => sendFlight s (s.ctxOf u) (.oper u op) d (.mark .barrier b)) s
          let s := modBar s k b fun c => { c with deps := setUnion c.deps (releasedBy s (.oper u op)) }
          .next (completeBars (checkClash (matchUnit s u) u op) k)
  | _, _ => .next s

/-! ### bar and barw -/

/-- The region clusters that bar selects (R336): a mask, or the active kernel's rectangle. -/
def barClusters (s : State) (h : Hdr) (i : Issue) : List Nat :=
  let r := s.region (s.regOf i.f.u)
  let kr := r.kref.getD {}
  let n := r.width * r.height
  if h.ar == 1 then (upFrom 0 n).filter fun c => c < 64 && wbit i.l.pay c
  else (upFrom 0 n).filter fun c => c % max r.width 1 < kr.width && c / max r.width 1 < kr.height

/-- The springs that IMM16 names (R335): none named is all ten. -/
def barSprings (imm : Nat) : List Nat :=
  let m := if imm % 1024 == 0 then 1023 else imm % 1024
  ((upFrom 0 10).filter fun b => m / 2 ^ b % 2 == 1).map fun b => if b < 8 then b else b + 8

/-- bar (R333, R336): staged; null from another depth while its barrier is armed or propagating. -/
def execBar (h : Hdr) (f : FormS) (s : State) : Host.Outcome State Fault Refusal :=
  runSide s h fun i =>
    let k := s.regOf i.f.u
    let c := bar s k f.id.toNat
    if barBusy c && c.depth ≠ depthOf s k then giveNull s i h
    else complete s i h (.bar f.id.toNat (barClusters s h i) f.imm.toNat)

/-- The region cluster a stream command is for; a marker command is one of them (R222, R331). -/
def effCl : Eff → Option Nat
  | .strm c _ _ | .strmi c _ _ | .sstop c _ _ | .pbinv c _ | .sbar c | .marker c _ _ => some c
  | _ => none

/-- The marker commands of a bar (R331): each bound spring with a destination that it names, by region cluster. -/
def barTargets (s : State) (k : Nat) (cls : List Nat) (imm : Nat) : List (Nat × Nat) :=
  let r := s.region k
  cls.flatMap fun c => (barSprings imm).filterMap fun p =>
    if (springDest? s r.die (r.cluster c) p).isSome then some (c, p) else none

/-- The entries of a cluster's dispatcher that are taken or promised to released commands of its region (R222). -/
def cmdLoad (s : State) (k rc : Nat) : Nat :=
  let r := s.region k
  (s.cluster r.die (r.cluster rc)).queue.length + (s.pend.filter fun q => q.own.reg == k && effCl q.eff == some rc).length

/-- Whether a bar can perform (R331, R334): its barrier takes it, no bar released or admitted before it will arm it, and every
dispatcher has room for its commands. -/
def barReady (s : State) (k b : Nat) (cls : List Nat) (imm : Nat) : Bool :=
  let c := bar s k b
  let ts := barTargets s k cls imm
  let taken := s.pend.any fun q => q.own.reg == k && (match q.eff with | .bar n _ _ => n == b | _ => false)
  (barBusy c && c.depth ≠ depthOf s k) ||
    (!barBusy c && !taken && ts.all fun t => cmdLoad s k t.1 + (ts.filter fun v => v.1 == t.1).length ≤ 32)

/-- bar performs at the commit of its block (R331, R334, R336): the barrier is armed and its commands are released to their
dispatchers, which take them among the stream commands of its operator in order; with no spring it is complete. -/
def performBar (s : State) (p : Pend) (b : Nat) (cls : List Nat) (imm : Nat) : State :=
  let k := p.own.reg
  if barBusy (bar s k b) then s.meet p.id
  else
    let (s, ids) := (barTargets s k cls imm).foldl (fun (a : State × List Nat) t =>
      let (n, s) := a.1.newKey
      ({ s with pend := s.pend ++ [{ p with id := n, eff := .marker t.1 t.2 b }] }, a.2 ++ [n])) (s, [])
    barSent (modBar s k b fun c => { c with st := .armed, depth := depthOf s k, cmds := ids, deps := [], opId := some p.id }) k b

/-- barw (R334, R337): it waits at issue, and yields at completion the set of R257 or, at a failure, null. -/
def execBarw (h : Hdr) (f : FormS) (s : State) : Host.Outcome State Fault Refusal :=
  runSide s h fun i =>
    let k := s.regOf i.f.u
    let b := f.id.toNat
    let c := bar s k b
    let mine := fun (w : BarWait) => w.f == i.f && w.slot == i.slot
    let forget := modBar s k b fun c => { c with waits := c.waits.filter fun w => !mine w }
    if mustWait s i then s
    else if barBusy c && c.depth ≠ depthOf s k then giveNull s i h
    else
      match c.waits.find? mine with
      | some w =>
        match w.res with
        | none => s
        | some (true, deps) => give forget i h { i.completion with deps := deps }
        | some (false, _) => giveNull forget i h
      | none =>
        match c.st with
        | .complete => give s i h { i.completion with deps := c.deps }
        | .failed => giveNull s i h
        | _ => modBar s k b fun c => { c with waits := c.waits ++ [{ f := i.f, slot := i.slot }] }

end Sys2Proof.Machine
end

