-- ==== Sys2Proof/Machine/Stream.lean ====
section
/-! DEFINITION. Pattern blocks, the stream dispatchers and the springs and outlets at work (R220-R236, R331, R355). -/

namespace Sys2Proof.Machine

/-! ### Pattern blocks (R223-R225, R229, R237) -/

/-- What a pattern is for. -/
inductive PatKind where
  | spring | outlet | tileSpring | tileOutlet | copySrc | copyDst
  deriving DecidableEq, Repr, Inhabited

/-- The kind of a port (R220). -/
def portKind (p : Nat) : PatKind :=
  if p ≤ 7 then .spring else if p ≤ 15 then .outlet else if p ≤ 17 then .tileSpring else .tileOutlet
def tilePat (k : PatKind) : Bool := k == .tileSpring || k == .tileOutlet
def copyPat (k : PatKind) : Bool := k == .copySrc || k == .copyDst

/-- Bits of an element of a pattern's type. -/
def Pattern.elBits (p : Pattern) : Nat := fmtBits p.ty p.mxk
/-- Bits of an element at a port of a kind: a scalar port has the types of R23. -/
def patBits (k : PatKind) (p : Pattern) : Nat := if tilePat k then p.elBits else (Ty.ofCode p.ty).width
/-- Elements of a pattern (R224). -/
def Pattern.count (p : Pattern) : Nat := p.counts.foldl (· * ·) 1
/-- Rows of a tile of a pattern (R229). -/
def Pattern.rows (p : Pattern) : Nat := if p.ndim == 1 then 1 else p.counts.getD 1 1
/-- Tiles of a pattern (R197). -/
def Pattern.tilesOf (p : Pattern) : Nat := if p.count == 0 then 0 else (p.counts.drop 2).foldl (· * ·) 1

/-- A pattern read out of its 128 bytes (R223). -/
def patternOf (b : List Byte) : Pattern :=
  let n := fld b 9 1
  let fl := fld b 0x11 1
  { base := fld b 0 8, ty := fld b 8 1, ndim := n, tl := fld b 10 1, scope := fld b 11 1, itsel := fld b 12 1, sqsel := fld b 13 1
    itbase := fld b 14 2 % 4096, lreg := fld b 14 2 / 4096, sqbase := fld b 16 1, host := fl % 2 == 1, pool := fl / 2 % 2 == 1
    ring := fl / 4 % 2 == 1, mxk := fl / 16 % 4, ringId := fld b 0x12 1
    counts := (upFrom 0 n).map fun d => fld b (0x20 + 16 * d) 4
    strides := (upFrom 0 n).map fun d => signedOf 64 (fld b (0x28 + 16 * d) 8)
    side := fld b 0x70 8 }

/-- The zero fields and ranges of a block (R223, R225). -/
def patFieldsOk (k : PatKind) (b : List Byte) : Bool :=
  let p := patternOf b
  let sideUsed := (tilePat k && (p.ty == 0xD || p.ty == 0xE)) || (k == .copyDst && p.pool)
  1 ≤ p.ndim && p.ndim ≤ 5 && (k == .copySrc || p.tl < 64) && p.scope ≤ 5
    && fld b 0x11 1 / 64 == 0 && fld b 0x11 1 / 8 % 2 == 0 && (p.ty == 0xE || p.mxk == 0) && p.ringId < 16
    && zeros b 0x13 13 && zeros b (0x20 + 16 * p.ndim) (0x50 - 16 * p.ndim) && (upFrom 0 p.ndim).all (fun d => zeros b (0x24 + 16 * d) 4)
    && (sideUsed || p.side == 0) && (!(k == .copyDst && p.pool) || p.side < 2 ^ 23) && zeros b 0x78 8

/-- The tcfg value of a tile spring's tiles (R197). -/
def patCfg (p : Pattern) : Nat :=
  p.ty * 65536 + p.mxk * 1024 + (p.rows - 1) * 32 + (p.counts.getD 0 0 * p.elBits / 32 - 1)

/-- The conditions on a tile pattern (R193, R229). -/
def patTileOk (p : Pattern) : Bool :=
  let row := p.counts.getD 0 0 * p.elBits
  let st := p.strides.getD 0 0
  tcfgOk (p.ty * 65536 + p.mxk * 1024 + (if p.ty == 0xD || p.ty == 0xE then 7 else 0))
    && st == (if p.elBits == 4 then 0 else (p.elBits / 8 : Nat)) && row % 32 == 0 && row ≤ 1024 && p.rows ≤ 32
    && (p.count == 0 || tcfgOk (patCfg p))
    && (p.itsel == 0 || 3 ≤ p.itsel) && (p.sqsel == 0 || 3 ≤ p.sqsel)

/-- Whether a context's ring is on (R239). -/
def ringOn (s : State) (x n : Nat) : Bool := wbits (s.ctxReg x (0x50 + n)) 15 0 ≠ 0

/-- The conditions of R225 and R237 on a pattern for a context. -/
def patOk (s : State) (x : Nat) (k : PatKind) (p : Pattern) : Bool :=
  (p.host || p.base < 2 ^ 56) && (if tilePat k then patTileOk p else p.ty ≤ 0xC)
    && (copyPat k || !(p.host || p.pool))
    && (k == .copySrc || (p.itsel ≤ p.ndim && p.sqsel ≤ p.ndim))
    && (!p.ring || ((k == .outlet || k == .tileOutlet || k == .copyDst) && ringOn s x p.ringId))
    && (!p.pool || k == .copyDst)

/-- The indices of element e (R224), innermost first. -/
def indexOf : List Nat → Nat → List Nat
  | [], _ => []
  | c :: r, e => e % max c 1 :: indexOf r (e / max c 1)

/-- The sum of index × stride. -/
def offsetOf : List Nat → List Int → Int
  | i :: is, t :: ts => i * t + offsetOf is ts
  | _, _ => 0

/-- A token's tag and SEQ under a pattern's selectors (R223). -/
def patTag (p : Pattern) (ix : List Nat) (t : Token) : Token :=
  { t with
    lreg := BitVec.ofNat 4 p.lreg
    iter := BitVec.ofNat 12 (p.itbase + (if p.itsel == 0 then 0 else ix.getD (p.itsel - 1) 0))
    sq := BitVec.ofNat 8 (p.sqbase + (if p.sqsel == 0 then 0 else ix.getD (p.sqsel - 1) 0)) }

/-- A ring's slot count S, slot size in bytes, FILL and REL (R239). -/
def ringS (s : State) (x n : Nat) : Nat := wbits (s.ctxReg x (0x50 + n)) 31 16 + 1
def ringSize (s : State) (x n : Nat) : Nat := wbits (s.ctxReg x (0x50 + n)) 15 0 * 64
def ringFill (s : State) (x n : Nat) : Nat := wbits (s.ctxReg x (0x60 + n)) 63 32
def ringRel (s : State) (x n : Nat) : Nat := wbits (s.ctxReg x (0x60 + n)) 31 0
/-- The address of slot f. -/
def ringSlot (s : State) (x n f : Nat) : Nat :=
  wbits (s.ctxReg x (0x40 + n)) 55 6 * 64 + f % ringS s x n * ringSize s x n
/-- Counts compare modulo 2^32: a before b. -/
def ringBefore (a b : Nat) : Bool := let d := (b + 2 ^ 32 - a % 2 ^ 32) % 2 ^ 32; 1 ≤ d && d < 2 ^ 31

/-- The address of an element by its indices, with a ring's slot in use (R224, R240): none where the offset lies past
the slot. -/
def elemAddr (s : State) (x : Nat) (p : Pattern) (fill : Nat) (ix : List Nat) : Option Nat :=
  if p.ring then
    let off := (offsetOf (ix.take (p.ndim - 1)) p.strides) % (2 ^ 64 : Nat)
    if off ≥ ringSize s x p.ringId then none else some (ringSlot s x p.ringId fill + off.toNat)
  else some (((p.base : Int) + offsetOf ix p.strides) % (2 ^ 64 : Nat)).toNat

/-! ### Timeline counters (R234) -/

/-- A context's timeline counter. -/
def tlOf (s : State) (x n : Nat) : Nat := tabGet (s.ctx x).tl n
/-- A counter rises by work of an interval. -/
def tlAdd (s : State) (x iv n k : Nat) : State :=
  if k == 0 then s
  else
    let up := fun (t : Tab Nat) => tabSet t n ((tabGet t n + k) % 2 ^ 64)
    touchCtx (laterSnaps (s.modCtx x fun c => { c with tl := up c.tl }) x iv fun v => { v with tl := up v.tl }) x

/-- FILL becomes f + 1 by work of an interval (R240). -/
def ringFilled (s : State) (x iv n f : Nat) : State := countReg s x iv (0x60 + n) fun r => wput r 63 32 (f + 1)

/-! ### Reaching memory for a port or an engine (R144, R231, R372, R376) -/

/-- Whether an atomic of any firing holds the line of a place against a die's plain accesses (R162). -/
def lineHeld (s : State) (loc : Loc) (d : Nat) : Bool :=
  s.holds.any fun h => locLine h.loc == locLine loc && (plainPlaces d).contains h.place

/-- How an agent's access stands: its pieces in place, a wait, or a fault taken that ends its work. -/
inductive Reach where
  | ok (segs : List (Nat × Nat × Nat)) (s : State)
  | wait (s : State)
  | fail (s : State)
  deriving Repr

/-- Who reaches: die, context, the walker that a fault finds, the unit and place of a fault. -/
structure Reacher where
  d    : Nat := 0
  x    : Nat := 0
  who  : Walker := .other
  u    : Nat := 0
  site : FaultRec := {}
  deriving DecidableEq, Repr, Inhabited

/-- One piece of an access within a line. -/
def reach1 (s : State) (r : Reacher) (kind va : Nat) : Reach :=
  if isPending s r.x va then .wait s
  else
    match xlate s r.d r.x va kind r.who.fabric with
    | .miss => .wait (askWalk s r.d r.x va kind r.who)
    | .fault c l =>
      if c == fXLATE then .wait (takeFault s r.x r.u c { r.site with addr := xAddr va kind l })
      else .fail (takeFault s r.x r.u c { r.site with addr := xAddr va kind l })
    | .ok pa leaf =>
      if physFault s pa kind then .fail (takeFault s r.x r.u fPERM { r.site with addr := BitVec.ofNat 64 va })
      else if lineHeld s (.mem pa) r.d then .wait s
      else .ok [(pa, 0, pteClass leaf)] s

/-- An access of n bytes: its pieces as physical address, length and interval class. -/
def reachAll (s : State) (r : Reacher) (kind : Nat) : List (Nat × Nat) → Reach
  | [] => .ok [] s
  | (va, n) :: rest =>
    match reach1 s r kind va with
    | .ok segs s =>
      match reachAll s r kind rest with
      | .ok more s => .ok (segs.map (fun g => (g.1, n, g.2.2)) ++ more) s
      | e => e
    | e => e

/-- Read an access's pieces as reads that come after a place of M and a cycle (R252, R256): bytes, P, what follows depends
on, and the state. -/
def readSegs (s : State) (floor since : Nat) (segs : List (Nat × Nat × Nat)) : List Byte × Bool × List Nat × State :=
  segs.foldl (fun (a : List Byte × Bool × List Nat × State) g =>
    let (bs, bad, ids, s) := loadAt a.2.2.2 floor since g.1 g.2.1
    (a.1 ++ bs, a.2.1 || bad, a.2.2.1 ++ ids, s)) ([], false, [], s)

/-- What the logs say to the stores of an access (R343, R345). -/
def roomOf (s : State) (iv : Nat) (segs : List (Nat × Nat × Nat)) : Room :=
  segs.foldl (fun r g => if r ≠ .ok then r else storeRoom s (.mem g.1) g.2.1 iv g.2.2) .ok

/-- Store bytes through an access's pieces. -/
def writeSegs (s : State) (own : Owner) (segs : List (Nat × Nat × Nat)) (bs : List Byte) : State :=
  (segs.foldl (fun (a : State × List Byte) g =>
    (performStore a.1 (.mem g.1) (a.2.take g.2.1) own g.2.2, a.2.drop g.2.1)) (s, bs)).1

/-- A store waits for room and then asks for a close when an egress page is what is full (R345). -/
def waitRoom (s : State) (segs : List (Nat × Nat × Nat)) : State :=
  if segs.any fun g => g.2.2 == 2 then requestClose s .irrev else s

/-! ### Life of a stream (R222, R232) -/

/-- The place of a port's fault. -/
def portSite (s : State) (d c p : Nat) : FaultRec :=
  { die := d, cl := c, chan := p, attempt := (s.region (s.regOf (tarn0 d c))).replays }
def portReacher (s : State) (d c p : Nat) : Reacher :=
  { d := d, x := s.ctxOf (tarn0 d c), who := .port d c p, u := tarn0 d c, site := portSite s d c p }

/-- Every sbar at the head of a queue is done (R248). -/
def popSbars (s : State) (d c : Nat) : Nat → State
  | 0 => s
  | n + 1 =>
    match (s.cluster d c).queue with
    | m :: r => if m.kind == .sbar then popSbars ((s.modCluster d c fun q => { q with queue := r }).meet m.id) d c n else s
    | [] => s

/-- A command is complete: it leaves the queue, and its obligation is met (R222, R242). -/
def cmdDone (s : State) (d c id : Nat) : State :=
  let s := s.modCluster d c fun q => { q with queue := q.queue.filter fun m => m.id ≠ id }
  popSbars (s.meet id) d c 33

/-- The stream of a port is done (R232); a register that it had claimed and not handed on is free again. -/
def endStream (s : State) (d c p : Nat) : State :=
  match (s.port d c p).stream with
  | none => s
  | some m =>
    let s := s.modPort d c p fun q => { q with stream := none }
    let s := match m.filling with
      | some n => s.modNode (nodeKey d c) fun t => t.setTile n { t.tile n with st := .free }
      | none => s
    cmdDone (endLeave s d (.stream d c p)) d c m.cmd

/-- Bytes a stream moves (R230). -/
def streamBytes (p : Nat) (t : Pattern) : Nat := t.count * patBits (portKind p) t / 8
/-- Whether a port's stream has the leave it needs. -/
def streamLeave (s : State) (d c p : Nat) (t : Pattern) : Bool :=
  streamBytes p t ≤ 65536 || hasLeave s d (.stream d c p)

/-- Whether a port works: its region runs, and its stream is not frozen. A spring stops as soon as a drain begins; an
outlet stores what has reached it (R233, R267). -/
def portRuns (s : State) (d c p : Nat) : Bool :=
  let u := tarn0 d c
  !(s.region (s.regOf u)).stopped && ctxRuns s (s.ctxOf u) && (!springPort p || !draining s u)
    && (s.port d c p).stream.any fun m => m.st ≠ .frozen

/-- Steps of a stream: elements, or tiles at a tile port. -/
def stepsOf (p : Nat) (t : Pattern) : Nat := if tilePat (portKind p) then t.tilesOf else t.count
/-- Elements in one step. -/
def perStep (p : Nat) (t : Pattern) : Nat := if tilePat (portKind p) then t.rows * t.counts.getD 0 0 else 1

/-- The cells of a row of a tile: its elements, and one for its side bytes where the pattern has them (R229). -/
def Pattern.sided (t : Pattern) : Bool := t.ty == 0xD || t.ty == 0xE
def Pattern.rowCells (t : Pattern) : Nat := t.counts.getD 0 0 + (if t.sided then 1 else 0)
/-- The elements among the first cells of a tile. -/
def Pattern.cellElems (t : Pattern) (n : Nat) : Nat :=
  n / max t.rowCells 1 * t.counts.getD 0 0 + min (n % max t.rowCells 1) (t.counts.getD 0 0)
/-- The elements a stream has performed in this attempt. -/
def Stream.performed (m : Stream) (p : Nat) : Nat := m.pos * perStep p m.pat + m.ahead.length + m.pat.cellElems m.part

/-- Elements of a port's stream have performed (R234, R236, R355): its counter rises past the most counted in any attempt. A
mirror region counts nothing (log 24). -/
def countTo (s : State) (d c p n : Nat) : State :=
  match (s.port d c p).stream with
  | none => s
  | some m =>
    let u := tarn0 d c
    let up := if (s.region (s.regOf u)).isMirror then 0 else n - m.counted
    let s := (tlAdd s (s.ctxOf u) m.own.iv m.pat.tl up).modPort d c p fun q =>
      { q with
        stream := q.stream.map fun m => { m with counted := max m.counted n }
        counts := q.counts.take m.nth ++ [max n (q.counts.getD m.nth 0)] ++ q.counts.drop (m.nth + 1) }
    touchTask s (s.regOf u)

/-- The next position that has not performed yet, and the later ones that have. -/
def skipAhead : Nat → Nat → List Nat → Nat × List Nat
  | 0, pos, l => (pos, l)
  | n + 1, pos, l => if l.contains pos then skipAhead n (pos + 1) (l.filter (· ≠ pos)) else (pos, l)

/-- The present step of a port's stream has performed: the stream goes on at the next one, and the last ends it. -/
def advance (s : State) (d c p : Nat) : State :=
  match (s.port d c p).stream with
  | none => s
  | some m =>
    let s := countTo s d c p ({ m with part := 0 }.performed p + perStep p m.pat)
    let (pos, ahead) := skipAhead (m.ahead.length + 1) (m.pos + 1) m.ahead
    let s := s.modPort d c p fun q =>
      { q with stream := q.stream.map fun m => { m with pos := pos, ahead := ahead, part := 0, filling := none } }
    if pos ≥ stepsOf p m.pat then endStream s d c p else s

/-- Some cells of the present tile have performed. -/
def partTo (s : State) (d c p n : Nat) : State :=
  match (s.port d c p).stream with
  | none => s
  | some m =>
    let s := countTo s d c p ({ m with part := n }.performed p)
    s.modPort d c p fun q => { q with stream := q.stream.map fun m => { m with part := n } }

/-- A port faults fatally: its stream is done (R231, R232). -/
def portFails (s : State) (d c p : Nat) : State := endStream s d c p
def portFault (s : State) (d c p code : Nat) (addr : Word) : State :=
  endStream (takeFault s (s.ctxOf (tarn0 d c)) (tarn0 d c) code { portSite s d c p with addr := addr }) d c p

/-- A wait leaves the stream paused while its page is pending (R231, R376). -/
def portWaits (s : State) (d c p va : Nat) : State :=
  let st := if isPending s (s.ctxOf (tarn0 d c)) va then StreamSt.paused else .running
  s.modPort d c p fun q => { q with stream := q.stream.map fun m => { m with st := st } }

/-! ### Springs (R227) -/

/-- What a spring keeps of what it has delivered: 16 KiB (R227). -/
def keepElem (q : Port) (bs : List Byte) (bad : Bool) : Port :=
  if q.bufPos < q.buffer.length then { q with bufPos := q.bufPos + 1 }
  else if q.bufFull || (q.buffer.map fun e => e.1.length).sum + bs.length > 16384 then { q with buffer := [], bufPos := 0, bufFull := true }
  else { q with buffer := q.buffer ++ [(bs, bad)], bufPos := q.buffer.length + 1 }

/-- The next element of a spring: its bytes, poison and what depends on it follows, from the stream buffer in a replay,
else from memory. -/
inductive Elem where
  | ok (bs : List Byte) (bad : Bool) (ids : List Nat) (s : State)
  | stop (s : State)
  deriving Repr

def nextElem (s : State) (d c p : Nat) (m : Stream) (va n : Nat) : Elem :=
  let q := s.port d c p
  match if q.bufPos < q.buffer.length then q.buffer[q.bufPos]? else none with
  | some (bs, bad) => .ok bs bad [] s
  | none =>
    match reachAll s (portReacher s d c p) kLoad (vCuts (n / 64 + 2) va n) with
    | .wait s => .stop (portWaits s d c p va)
    | .fail s => .stop (portFails s d c p)
    | .ok segs s => let (bs, bad, ids, s) := readSegs s m.floor m.since segs; .ok bs bad ids s

/-- SPRING_ELEMENT (R227): the next element of a scalar spring is delivered, read at any time since its stream started
(log 1). -/
def execSpringElement (die cl port : Nat) (s : State) : Host.Outcome State Fault Refusal :=
  match (s.port die cl port).stream, springDest? s die cl port with
  | some m, some dst =>
    if 8 ≤ port || !portRuns s die cl port || !streamLeave s die cl port m.pat || !destOpen s dst then .next s
    else
      let u := tarn0 die cl
      let x := s.ctxOf u
      let ty := Ty.ofCode m.pat.ty
      let ix := indexOf m.pat.counts m.pos
      let va := (elemAddr s x m.pat 0 ix).getD 0
      if va % tySize ty ≠ 0 then .next (portFault s die cl port fALIGN (BitVec.ofNat 64 va))
      else
        match nextElem s die cl port m va (tySize ty) with
        | .stop s => .next s
        | .ok bs bad ids s =>
          let t := patTag m.pat ix { pay := loadPay ty bs, p := bad, deps := ids }
          let (k, s') := s.newKey
          match deliver s' { id := k, ctx := x, src := .port die cl port, dst := dst, item := .tok t } with
          | none => .next s
          | some s =>
            let s := s.modPort die cl port fun q => keepElem { q with stream := q.stream.map fun m => { m with st := .running } } bs bad
            .next (advance s die cl port)
  | _, _ => .next s

/-! ### Tile springs (R197, R198, R229) -/

/-- The spring registers of a node that are free. -/
def freeRegs (t : Tiles) : List Nat := (upFrom 0 16).filter fun n => !t.statics.contains n && (t.tile n).st == .free

/-- The oldest bound accumulator's tag and due SEQ. -/
def oldestBound (t : Tiles) : Option (Nat × Nat) :=
  let bs := t.accs.filterMap fun a => a.2.bind
  (bs.foldl (fun (m : Option (Nat × Nat × Nat)) b =>
    match m with | none => some b | some c => if b.2.2 < c.2.2 then some b else m) none).map fun b => (b.1, b.2.1)

/-- The channels of a node's operator that the cluster's tile springs feed. -/
def springChans (s : State) (d c o : Nat) (r : OpRec) : List ChanRec :=
  (inChans r).filter fun k => [16, 17].any fun p => springDest? s d c p == some (.chan (nodeKey d c) o k.ch)

/-- The oldest incomplete match of the operators that take handles: operator, and the tag of its oldest held token. -/
def oldestMatch (s : State) (d c : Nat) : Option (Nat × OpRec × BitVec 4 × BitVec 12) :=
  let u := nodeKey d c
  let cands := (s.unit u).plane.ops.flatMap fun o =>
    match opRec? s u o.1 with
    | none => []
    | some r => if (springChans s d c o.1 r).isEmpty then []
      else (heldTags o.2 (inChans r)).map fun t => (o.1, r, t)
  (cands.foldl (fun (m : Option (Nat × OpRec × BitVec 4 × BitVec 12 × Nat)) t =>
    match m with | none => some t | some b => if t.2.2.2.2 < b.2.2.2.2 then some t else m) none).map
      fun t => (t.1, t.2.1, t.2.2.1, t.2.2.2.1)

/-- The tokens of a match that a channel holds. -/
def matchHeld (q : OpState) (k : ChanRec) (l : BitVec 4) (i : BitVec 12) : List Token :=
  ((segment (tabGet q.chans k.ch).held).map Prod.fst).filter fun t => isStream k || (t.lreg == l && t.iter == i)

/-- Whether a fill with a handle of a tag and SEQ may claim a register (R198). -/
def mayClaim (s : State) (d c p : Nat) (h : Token) : Bool :=
  let u := nodeKey d c
  let t := s.node d c
  let free := (freeRegs t).length
  if free == 0 then false
  else
    match oldestBound t with
    | some (tag, due) => free ≥ 3 || (h.tag == tag && h.sq.toNat == due)
    | none =>
      match oldestMatch s d c with
      | none => true
      | some (o, r, l, i) =>
        let q := (s.op? u o).getD {}
        let ks := springChans s d c o r
        let lacks := (ks.map fun k => k.rate - (matchHeld q k l i).length).sum
        let mine := ks.any fun k => springDest? s d c p == some (.chan u o k.ch) && (matchHeld q k l i).length < k.rate &&
          (!isTagged k || (h.lreg == l && h.iter == i && !((matchHeld q k l i).any fun x => x.sq == h.sq)))
        free ≥ lacks + 1 || mine

/-- The handle of the tile a tile spring is at. -/
def tileHandle (m : Stream) (reg : Nat) : Token :=
  let ix := [0, 0] ++ indexOf (m.pat.counts.drop 2) m.pos
  patTag m.pat ix { pay := BitVec.ofNat 64 (16 + reg) }

/-- Whether a tile spring can claim a register now. -/
def canClaim (s : State) (d c p : Nat) : Bool :=
  match (s.port d c p).stream with
  | none => false
  | some m => portRuns s d c p && streamLeave s d c p m.pat && m.filling.isNone && mayClaim s d c p (tileHandle m 0)

/-- TILE_SPRING_CLAIM (R197, R198): the lowest free spring register, filling, with its tcfg. Port 16 claims before
port 17 when both can. -/
def execTileSpringClaim (die cl port : Nat) (s : State) : Host.Outcome State Fault Refusal :=
  match (s.port die cl port).stream with
  | none => .next s
  | some m =>
    if (port ≠ 16 && port ≠ 17) || !canClaim s die cl port || (port == 17 && canClaim s die cl 16) then .next s
    else
      match freeRegs (s.node die cl) with
      | [] => .next s
      | n :: _ =>
        let s := s.modNode (nodeKey die cl) fun t =>
          t.setTile n { (({} : Tile).setCfg (patCfg m.pat)) with st := .filling }
        .next (s.modPort die cl port fun q => { q with stream := q.stream.map fun m => { m with filling := some n } })

/-- The address of element (i, k) of the tile that a tile port is at (R224, R229, R240), with its ring's slot in use: none
where its offset lies past the slot. Elements of 4 bits have stride 0 and lie two in a byte. -/
def tileAddr (s : State) (x : Nat) (m : Stream) (i k : Nat) : Option Nat :=
  let t := m.pat
  let ix := (k :: i :: indexOf (t.counts.drop 2) m.pos).take t.ndim
  let half := if t.elBits == 4 then k / 2 else 0
  if t.ring then
    let off := ((offsetOf (ix.take (t.ndim - 1)) t.strides + (if t.ndim == 1 then 0 else half)) % (2 ^ 64 : Nat)).toNat
    if off ≥ ringSize s x t.ringId then none else some (ringSlot s x t.ringId m.fill + off)
  else some (((t.base : Int) + offsetOf ix t.strides + half) % (2 ^ 64 : Nat)).toNat

/-- What performs next of a tile: elements of one row in one line (of one slot at a ring), or a row's side bytes. -/
structure Run where
  va    : Nat := 0
  cells : Nat := 0
  bytes : Nat := 0
  row   : Nat := 0
  col   : Nat := 0
  side  : Bool := false
  deriving DecidableEq, Repr, Inhabited

/-- The next run of a tile, or the fault of its first element: its code and ADDR (R231, R240; 4-bit elements in a ring,
log 107). -/
def nextRun (s : State) (x : Nat) (m : Stream) : Except (Nat × Nat) Run :=
  let t := m.pat
  let n := t.counts.getD 0 0
  let i := m.part / max t.rowCells 1
  let k := m.part % max t.rowCells 1
  if k ≥ n then .ok { va := (t.side + 8 * (m.pos * t.rows + i)) % 2 ^ 64, cells := 1, bytes := 8, row := i, col := k, side := true }
  else
    match tileAddr s x m i k with
    | none => .error (fSTRM, 0)
    | some va =>
      if va % max (t.elBits / 8) 1 ≠ 0 then .error (fALIGN, va)
      else
        let inLine := (64 - va % 64) * 8 / t.elBits
        let inSlot := (upFrom k (min (n - k) inLine)).takeWhile fun j => (tileAddr s x m i j).isSome
        let c := if t.ring && t.ndim == 1 then 1 else inSlot.length
        .ok { va := va, cells := c, bytes := (c * t.elBits + 7) / 8, row := i, col := k }

/-- The bytes of a tile as its stream buffer keeps them: rows, then side bytes. -/
def tileImage (r : Tile) (t : Pattern) : List Byte :=
  let n := t.counts.getD 0 0 * t.elBits / 8
  ((upFrom 0 t.rows).flatMap fun i => memBytes r.bytes (i * 128) n)
    ++ (if t.sided then (upFrom 0 t.rows).flatMap fun i => memBytes r.side (i * 8) 8 else [])

/-- A tile filled with the bytes of its rows and side storage (R194, R229). -/
def fillTile (t : Tile) (rows n : Nat) (side : Bool) (bs : List Byte) (bad : Bool) : Tile :=
  let t := (upFrom 0 rows).foldl (fun (t : Tile) i => { t with bytes := memPut t.bytes (i * 128) ((bs.drop (i * n)).take n) }) t
  let t := if side then (upFrom 0 rows).foldl (fun (t : Tile) i =>
      { t with side := memPut t.side (i * 8) ((bs.drop (rows * n + i * 8)).take 8) }) t else t
  { t with p := bad, st := .held }

/-- How a tile's runs stand: all have performed, or one waits or has faulted. -/
inductive Runs where
  | done (s : State)
  | stop (s : State)
  deriving Repr

/-- Read what is left of a tile into its register, run by run (R229, R231). -/
def readRuns (d c p reg : Nat) : Nat → Stream → State → Runs
  | 0, _, s => .stop s
  | fuel + 1, m, s =>
    if m.part ≥ m.pat.rows * m.pat.rowCells then .done s
    else
      match nextRun s (s.ctxOf (tarn0 d c)) m with
      | .error e => .stop (portFault s d c p e.1 (BitVec.ofNat 64 e.2))
      | .ok r =>
        match reachAll s (portReacher s d c p) kLoad (vCuts (r.bytes / 64 + 2) r.va r.bytes) with
        | .wait s => .stop (portWaits s d c p r.va)
        | .fail s => .stop (portFails s d c p)
        | .ok segs s =>
          let (bs, bad, _, s) := readSegs s m.floor m.since segs
          let s := s.modNode (nodeKey d c) fun t =>
            let v := t.tile reg
            t.setTile reg (if r.side then { v with side := memPut v.side (r.row * 8) bs, p := v.p || bad }
              else { v with bytes := memPut v.bytes (r.row * 128 + r.col * m.pat.elBits / 8) bs, p := v.p || bad })
          readRuns d c p reg fuel { m with part := m.part + r.cells } (partTo s d c p (m.part + r.cells))

/-- The claimed register of a tile spring is full: its handle is delivered (R197). -/
def deliverHandle (s : State) (d c p reg : Nat) (m : Stream) (dst : Dest) : State :=
  let v := (s.node d c).tile reg
  let (deps, s') := linkDeps (s.modNode (nodeKey d c) fun t => t.setTile reg { v with st := .held })
  let (k, s') := s'.newKey
  match deliver s' { id := k, ctx := s.ctxOf (tarn0 d c), src := .port d c p, dst := dst, item := .tok { tileHandle m reg with deps := deps } } with
  | none => s
  | some s =>
    let keep := fun (q : Port) => keepElem { q with stream := q.stream.map fun m => { m with st := .running } } (tileImage v m.pat) v.p
    advance (s.modPort d c p keep) d c p

/-- TILE_SPRING_DELIVER (R197, R229): the rows and side bytes are read into the claimed register, in a replay from the
stream buffer, and its handle is delivered. -/
def execTileSpringDeliver (die cl port : Nat) (s : State) : Host.Outcome State Fault Refusal :=
  match (s.port die cl port).stream, springDest? s die cl port with
  | some m, some dst =>
    match m.filling with
    | none => .next s
    | some reg =>
      let r := s.region (s.regOf (tarn0 die cl))
      let q := s.port die cl port
      if r.stopped || !ctxRuns s r.ctx || m.st == .frozen || !destOpen s dst then .next s
      else
        match if q.bufPos < q.buffer.length then q.buffer[q.bufPos]? else none with
        | some (bs, bad) =>
          let n := m.pat.counts.getD 0 0 * m.pat.elBits / 8
          let fill := fun (t : Tiles) => t.setTile reg (fillTile (t.tile reg) m.pat.rows n m.pat.sided bs bad)
          .next (deliverHandle (s.modNode (nodeKey die cl) fill) die cl port reg m dst)
        | none =>
          match readRuns die cl port reg (m.pat.rows * m.pat.rowCells + 1) m s with
          | .stop s => .next s
          | .done s => .next (deliverHandle s die cl port reg m dst)
  | _, _ => .next s

/-! ### Outlets (R228, R140, R142, R240, R355) -/

/-- Write an exception-log record (R140, R142): an index is claimed in every case; a record past the capacity, or whose
write faults, is dropped. -/
def writeXlog (s : State) (d c p : Nat) (own : Owner) (va tag sq coord : Nat) : State :=
  let x := own.ctx
  let r := s.ctxReg x 0x10
  let st := s.ctxReg x 0x11
  if !wbit r 4 then s
  else
    let k := wbits st 31 0
    let bs := bytesOf 7 (va % 2 ^ 56) ++ bytesOf 1 own.attempt ++ bytesOf 2 tag ++ bytesOf 1 sq ++ bytesOf 1 d ++ bytesOf 1 c
      ++ bytesOf 1 p ++ bytesOf 2 coord
    let a := wbits r 55 12 * 4096 + 16 * k
    let put := if k < 2 ^ (wbits r 3 0 + 8) then
        match xlateNow s d x a kWrite true with
        | (.ok pa leaf, s) => if physFault s pa kWrite then none else some (performStore s (.mem pa) bs own (pteClass leaf))
        | _ => none
      else none
    match put with
    | some s => countReg s x own.iv 0x11 claimNext
    | none => countReg s x own.iv 0x11 fun st => dropRecord (claimNext st)

/-- Take the first held item of a port. -/
def takeHeld (s : State) (d c p : Nat) : State :=
  s.modPort d c p fun q => { q with held := q.held.drop 1, off := (q.held.length - 1) ≥ 32 }

/-- The marker at the head of an outlet is absorbed (R332). -/
def absorbMark (s : State) (d c p : Nat) : State := completeBars (takeHeld s d c p) (s.regOf (tarn0 d c))

/-- How an outlet of a dual task stands (R355): it may store, it waits for its mirror's token, or the pair differs. -/
inductive Dual where
  | go | wait | differ
  deriving DecidableEq, Repr, Inhabited

def sameToken (a b : Token) : Bool :=
  a.pay == b.pay && a.lreg == b.lreg && a.iter == b.iter && a.sq == b.sq && a.x == b.x && a.p == b.p && a.n == b.n

def dualCheck (s : State) (d c p : Nat) (t : Token) : Dual :=
  if (s.region (s.regOf (tarn0 d c))).mirror.isNone then .go
  else
    match (s.port d c p).cmpr with
    | [] => .wait
    | m :: _ => if sameToken m t then .go else .differ

/-- The primary's outlet that an outlet of a mirror region matches. -/
def primaryPort (s : State) (d c : Nat) : Option (Nat × Nat) :=
  let r := s.region (s.regOf (tarn0 d c))
  match r.mirror with
  | none => none
  | some k =>
    let q := s.region k
    some (q.die, q.cluster (r.indexOf c))

/-- A mirror's outlet gives its token to the comparator, and stores nothing. -/
def giveMirror (s : State) (d c p : Nat) (t : Token) : State :=
  match primaryPort s d c with
  | none => s
  | some (d', c') => s.modPort d' c' p fun q => { q with cmpr := q.cmpr ++ [t] }

/-- An element of a ring's outlet may be written (R240): its slot is free, or is being filled. The answer is the slot. -/
def ringReady (s : State) (x : Nat) (t : Pattern) (inner first : Nat) (fill : Nat) : Option Nat :=
  if !t.ring then some 0
  else
    let f := if first % max inner 1 == 0 then ringFill s x t.ringId else fill
    if (f + 2 ^ 32 - ringRel s x t.ringId) % 2 ^ 32 < ringS s x t.ringId then some f else none

/-- Elements in one slot: the product of the inner counts (R240). -/
def slotSteps (t : Pattern) : Nat := t.counts.dropLast.foldl (· * ·) 1

/-- After an element of a ring's stream, FILL rises with the slot's last one. -/
def ringStep (s : State) (x iv : Nat) (t : Pattern) (pos fill : Nat) : State :=
  if t.ring && (pos + 1) % max (slotSteps t) 1 == 0 then touchCtx (ringFilled s x iv t.ringId fill) x else s

/-- Remember the slot a port's stream fills. -/
def setFill (s : State) (d c p f : Nat) : State :=
  s.modPort d c p fun q => { q with stream := q.stream.map fun m => { m with fill := f, st := .running } }

/-- The comparator's token is used up. -/
def dropCmpr (s : State) (d c p : Nat) : State := s.modPort d c p fun q => { q with cmpr := q.cmpr.drop 1 }

/-- The owner of a store of a held token: a token of another device carries its own interval (R383). -/
def heldOwner (own : Owner) (h : Held) (attempt : Nat) : Owner :=
  { own with iv := if h.iv == 0 then own.iv else h.iv, attempt := attempt }

/-- One of some choices, by a free value where there is more than one (log 2). -/
def pickFrom (s : State) (l : List Nat) : Nat × State :=
  match l with
  | [] => (0, s)
  | [a] => (a, s)
  | _ => let (k, s) := s.draw; (l.getD (Config.pick k % l.length) 0, s)

/-- Whether an element's access finds nothing that would stop it: no misalignment, a page that takes it, no poison. -/
def elemClean (s : State) (d x kind va size : Nat) : Bool :=
  va % size == 0 && !isPending s x va && (vCuts 2 va size).all fun g =>
    match xlate s d x g.1 kind true with
    | .ok pa _ => !physFault s pa kind && !lineHeld s (.mem pa) d && (kind == kWrite || !poisoned s pa)
    | _ => false

/-- The places in an outlet's held tokens whose element may perform before those in front of it (R256): nothing may stop any
of them, and no two store to one byte (R228). The elements of a ring and of a dual task keep their order (log 1). -/
def outletChoices (s : State) (d c p : Nat) (m : Stream) : List Nat :=
  let x := s.ctxOf (tarn0 d c)
  let size := tySize (Ty.ofCode m.pat.ty)
  let toks := (s.port d c p).held.takeWhile fun h => match h.item with | .tok _ => true | _ => false
  let r := s.region (s.regOf (tarn0 d c))
  if toks.length < 2 || m.pat.ring || r.mirror.isSome then [0]
  else
    let es := ((upFrom m.pos (min (m.pat.count - m.pos) (toks.length + m.ahead.length))).filter fun e => !m.ahead.contains e).take toks.length
    let vas := es.map fun e => (elemAddr s x m.pat 0 (indexOf m.pat.counts e)).getD 0
    let clean := (vas.zip toks).takeWhile fun v =>
      elemClean s d x kWrite v.1 size && match v.2.item with | .tok t => !t.p && !t.n | _ => false
    (upFrom 0 (max clean.length 1)).filter fun j =>
      j == 0 || match toks[j]? with
        | some { item := .tok t, .. } => !t.x && (s.live t.deps).isEmpty &&
            (clean.take j).all fun v => v.1 + size ≤ vas.getD j 0 || vas.getD j 0 + size ≤ v.1
        | _ => false

/-- The j-th held token of an outlet stores its element before those in front of it. -/
def storeAhead (s : State) (d c p : Nat) (m : Stream) (j : Nat) : State :=
  let x := s.ctxOf (tarn0 d c)
  let size := tySize (Ty.ofCode m.pat.ty)
  let q := s.port d c p
  let e := ((upFrom m.pos (q.held.length + m.ahead.length)).filter fun e => !m.ahead.contains e).getD j 0
  match q.held[j]? with
  | some h@{ item := .tok t, .. } =>
    let va := (elemAddr s x m.pat 0 (indexOf m.pat.counts e)).getD 0
    let own := heldOwner m.own h (s.region (s.regOf (tarn0 d c))).replays
    match reachAll s (portReacher s d c p) kWrite (vCuts 2 va size) with
    | .ok segs s =>
      if roomOf s own.iv segs ≠ .ok then s
      else
        let s := countTo (writeSegs s own segs (bytesOf size t.pay.toNat)) d c p (m.performed p + 1)
        s.modPort d c p fun q =>
          { q with held := q.held.eraseIdx j, off := (q.held.length - 1) ≥ 32
                   stream := q.stream.map fun m => { m with ahead := e :: m.ahead } }
    | _ => s
  | _ => s

/-- OUTLET_STORE (R228, R256): an outlet takes its next token and stores, skips, compares or absorbs it, or lets a later one
store first. -/
def execOutletStore (die cl port : Nat) (s : State) : Host.Outcome State Fault Refusal :=
  let u := tarn0 die cl
  let x := s.ctxOf u
  match (s.port die cl port).held with
  | [] => .next s
  | h :: _ =>
    match h.item with
    | .mark .barrier _ => .next (if (s.region (s.regOf u)).stopped then s else absorbMark s die cl port)
    | .mark _ _ => .next (takeHeld s die cl port)
    | .tok t =>
      match (s.port die cl port).stream with
      | none => .next s
      | some m =>
        if port < 8 || 15 < port || !portRuns s die cl port || !streamLeave s die cl port m.pat || !(s.live t.deps).isEmpty then .next s
        else if (s.region (s.regOf u)).isMirror then .next (advance (giveMirror (takeHeld s die cl port) die cl port t) die cl port)
        else
          match dualCheck s die cl port t with
          | .wait => .next s
          | .differ => .next (raiseCompare s x (s.regOf u))
          | .go =>
            let take := fun (s : State) => dropCmpr (takeHeld s die cl port) die cl port
            let own := heldOwner m.own h (s.region (s.regOf u)).replays
            let (j, s) := pickFrom s (outletChoices s die cl port m)
            if j ≠ 0 then .next (storeAhead s die cl port m j)
            else match ringReady s x m.pat (slotSteps m.pat) m.pos m.fill with
            | none => .next s
            | some f =>
              let s := setFill s die cl port f
              if t.n then .next (advance (ringStep (take s) x m.own.iv m.pat m.pos f) die cl port)
              else
                let size := tySize (Ty.ofCode m.pat.ty)
                match elemAddr s x m.pat f (indexOf m.pat.counts m.pos) with
                | none => .next (portFault s die cl port fSTRM 0)
                | some va =>
                  if t.p then .next (portFault s die cl port fPOISON (BitVec.ofNat 64 va))
                  else if va % size ≠ 0 then .next (portFault s die cl port fALIGN (BitVec.ofNat 64 va))
                  else
                    match reachAll s (portReacher s die cl port) kWrite (vCuts 2 va size) with
                    | .wait s => .next (portWaits s die cl port va)
                    | .fail s => .next (portFails s die cl port)
                    | .ok segs s =>
                      match roomOf s own.iv segs with
                      | .wait => .next (waitRoom s segs)
                      | .full => .next (portFault s die cl port fEGRESS (BitVec.ofNat 64 va))
                      | .ok =>
                        let s := writeSegs (take s) own segs (bytesOf size t.pay.toNat)
                        let s := if t.x then writeXlog s die cl port own va t.tag t.sq.toNat 0 else s
                        .next (advance (ringStep s x m.own.iv m.pat m.pos f) die cl port)

/-- The records of a run's elements stored with X set (R140, R194). -/
def tileRecords (s : State) (d c : Nat) (own : Owner) (m : Stream) (t : Tile) (h : Token) (r : Run) : State :=
  if r.side then s
  else
    (upFrom r.col r.cells).foldl (fun s k =>
      if t.xBit r.row k then
        writeXlog s d c 18 own ((tileAddr s own.ctx m r.row k).getD 0) h.tag h.sq.toNat (0x8000 + r.row * 512 + k)
      else s) s

/-- Store what is left of a tile, run by run (R228, R229, R231): each ring slot is waited for, and filled with its last
element (R240). A null handle skips every element. A 4-bit element of a ring is stored as one byte (log 107). -/
def storeRuns (d c : Nat) (own : Owner) (tok : Token) (tile : Tile) : Nat → Stream → State → Runs
  | 0, _, s => .stop s
  | fuel + 1, m, s =>
    let x := own.ctx
    let at_ := m.pos * perStep 18 m.pat + m.pat.cellElems m.part
    if m.part ≥ m.pat.rows * m.pat.rowCells then .done s
    else
      match ringReady s x m.pat (slotSteps m.pat) at_ m.fill with
      | none => .stop s
      | some f =>
        let s := setFill s d c 18 f
        let m := { m with fill := f }
        match nextRun s x m with
        | .error e =>
          if tok.n then
            let s := partTo (ringStep s x m.own.iv m.pat at_ f) d c 18 (m.part + 1)
            storeRuns d c own tok tile fuel { m with part := m.part + 1 } s
          else .stop (portFault s d c 18 e.1 (BitVec.ofNat 64 e.2))
        | .ok r =>
          let next := fun (s : State) =>
            let s := if r.side then s else ringStep s x m.own.iv m.pat (at_ + r.cells - 1) f
            partTo s d c 18 (m.part + r.cells)
          if tok.n then storeRuns d c own tok tile fuel { m with part := m.part + r.cells } (next s)
          else
            match reachAll s (portReacher s d c 18) kWrite (vCuts (r.bytes / 64 + 2) r.va r.bytes) with
            | .wait s => .stop (portWaits s d c 18 r.va)
            | .fail s => .stop (portFails s d c 18)
            | .ok segs s =>
              match roomOf s own.iv segs with
              | .wait => .stop (waitRoom s segs)
              | .full => .stop (portFault s d c 18 fEGRESS (BitVec.ofNat 64 r.va))
              | .ok =>
                let bs := if r.side then memBytes tile.side (r.row * 8) 8
                  else if m.pat.elBits == 4 && r.cells == 1 then [BitVec.ofNat 8 (tile.code r.row r.col)]
                  else memBytes tile.bytes (r.row * 128 + r.col * m.pat.elBits / 8) r.bytes
                let s := tileRecords (writeSegs s own segs bs) d c own m tile tok r
                storeRuns d c own tok tile fuel { m with part := m.part + r.cells } (next s)

/-- TILE_OUTLET_STORE (R197, R228, R229): the register a handle names is stored, and freed if it is a spring register. -/
def execTileOutletStore (die cl : Nat) (s : State) : Host.Outcome State Fault Refusal :=
  let u := tarn0 die cl
  let x := s.ctxOf u
  match (s.port die cl 18).held, (s.port die cl 18).stream with
  | [], _ => .next s
  | h :: _, st =>
    match h.item, st with
    | .mark .barrier _, _ => .next (if (s.region (s.regOf u)).stopped then s else absorbMark s die cl 18)
    | .mark _ _, _ => .next (takeHeld s die cl 18)
    | .tok _, none => .next s
    | .tok t, some m =>
      let reg := wbits t.pay 3 0
      let node := s.node die cl
      let tile := { node.tile reg with fmt := m.pat.ty, mxk := m.pat.mxk, colsM1 := m.pat.counts.getD 0 0 * m.pat.elBits / 32 - 1 }
      if !portRuns s die cl 18 || !streamLeave s die cl 18 m.pat || !(s.live t.deps).isEmpty || tileBusy node reg then .next s
      else
        let free := fun (s : State) => s.modNode (nodeKey die cl) fun n => n.freeTile reg
        if (s.region (s.regOf u)).isMirror then
          .next (advance (free (giveMirror (takeHeld s die cl 18) die cl 18 t)) die cl 18)
        else
          match dualCheck s die cl 18 t with
          | .wait => .next s
          | .differ => .next (raiseCompare s x (s.regOf u))
          | .go =>
            let own := heldOwner m.own h (s.region (s.regOf u)).replays
            if !t.n && (t.p || tile.p) then .next (portFault s die cl 18 fPOISON 0)
            else
              match storeRuns die cl own t tile (m.pat.rows * m.pat.rowCells + 1) m s with
              | .stop s => .next s
              | .done s =>
                let s := dropCmpr (takeHeld s die cl 18) die cl 18
                .next (advance (if t.n then s else free s) die cl 18)

end Sys2Proof.Machine
end

