-- ==== Sys2Proof/Machine/StreamOps.lean ====
section
/-! DEFINITION. The stream instructions, opcodes 0xA0-0xA9 (R241-R248), their acceptance by the dispatchers (R222, R226),
and the copy engines (R237, R238). -/

namespace Sys2Proof.Machine

/-! ### The instructions -/

/-- CL and the port of ID12 (R241). -/
def idCl (f : FormS) : Nat := bits f.id.toNat 10 5
def idPort (f : FormS) : Nat := bits f.id.toNat 4 0

/-- strm (R243). -/
def execStrm (h : Hdr) (f : FormS) (s : State) : Host.Outcome State Fault Refusal :=
  runSide s h fun i => complete s i h (.strm (idCl f) (idPort f) i.l.pay.toNat)

/-- The pattern of strmi (R243). -/
def inlinePat (f : FormS) (i : Issue) : Pattern :=
  let m := f.imm.toNat
  let two := m / 2 % 2 == 1
  let n := if two then 2 else 1
  { base := i.l.pay.toNat, ty := bits m 15 12, ndim := n, tl := bits m 11 6, scope := 3, itsel := bits m 5 4, sqsel := bits m 3 2
    itbase := if bits m 5 4 == 0 then i.l.iter.toNat else 0, lreg := i.l.lreg.toNat
    counts := [wbits i.r.pay 31 0, wbits i.r.pay 63 32].take n
    strides := [signedOf 32 (wbits i.x.pay 31 0), signedOf 32 (wbits i.x.pay 63 32)].take n }

/-- strmi (R243). -/
def execStrmi (h : Hdr) (f : FormS) (s : State) : Host.Outcome State Fault Refusal :=
  runSide s h fun i => complete s i h (.strmi (idCl f) (idPort f) (inlinePat f i))

/-- sstop (R244). -/
def execSstop (h : Hdr) (f : FormS) (s : State) : Host.Outcome State Fault Refusal :=
  runSide s h fun i => complete s i h (.sstop (idCl f) (idPort f) (f.imm.toNat % 2 == 1))

/-- cpy (R245, R355). -/
def execCpy (h : Hdr) (f : FormS) (s : State) : Host.Outcome State Fault Refusal :=
  runSideDual s h fun i => complete s i h (.cpy (f.id.toNat % 16) i.l.pay.toNat)

/-- l.payload + IMM16, or IMM16 (R246, R247). -/
def plusImm (h : Hdr) (f : FormS) (i : Issue) : Nat :=
  if h.ar == 1 then (i.l.pay.toNat + f.imm.toNat) % 2 ^ 64 else f.imm.toNat

/-- tlw (R235, R246): the counted elements have performed, so the token acquires them. -/
def execTlw (h : Hdr) (f : FormS) (s : State) : Host.Outcome State Fault Refusal :=
  runSide s h fun i =>
    let n := plusImm h f i
    if mustWait s i || tlOf s (s.ctxOf i.f.u) f.id.toNat < n then s
    else
      let (deps, s) := linkDeps s
      give s i h { i.result (BitVec.ofNat 64 n) false with deps := deps }

/-- tlrd (R246). -/
def execTlrd (h : Hdr) (f : FormS) (s : State) : Host.Outcome State Fault Refusal :=
  runSide s h fun i =>
    if mustWait s i then s else give s i h (i.tok (BitVec.ofNat 64 (tlOf s (s.ctxOf i.f.u) f.id.toNat)))

/-- ringaw (R247): null for a slot already released; it waits for one that has not filled, and acquires its elements. -/
def execRingaw (h : Hdr) (f : FormS) (s : State) : Host.Outcome State Fault Refusal :=
  runSide s h fun i =>
    let x := s.ctxOf i.f.u
    let n := f.id.toNat
    let k := plusImm h f i % 2 ^ 32
    if mustWait s i then s
    else if ringBefore k (ringRel s x n) then giveNull s i h
    else if ringBefore k (ringFill s x n) then
      let (deps, s) := linkDeps s
      give s i h { i.result (BitVec.ofNat 64 (ringSlot s x n k)) false with deps := deps }
    else s

/-- ringrel (R247): staged. -/
def execRingrel (h : Hdr) (f : FormS) (s : State) : Host.Outcome State Fault Refusal :=
  runSide s h fun i => complete s i h (.ringrel f.id.toNat (plusImm h f i % 2 ^ 32))

/-- pbinv (R248). -/
def execPbinv (h : Hdr) (f : FormS) (s : State) : Host.Outcome State Fault Refusal :=
  runSide s h fun i => complete s i h (.pbinv (idCl f) (if h.ar == 1 then some i.l.pay.toNat else none))

/-- sbar (R248). -/
def execSbar (h : Hdr) (f : FormS) (s : State) : Host.Outcome State Fault Refusal :=
  runSide s h fun i => complete s i h (.sbar (idCl f))

/-- REL advances over the marked slots from it on (R247). -/
def advanceRel : Nat → Nat → List Nat → Nat × List Nat
  | 0, r, ms => (r, ms)
  | n + 1, r, ms => if ms.contains r then advanceRel n ((r + 1) % 2 ^ 32) (ms.filter (· ≠ r)) else (r, ms)

/-- ringrel performs (R247): a slot that has not filled raises STRM_PORT. -/
def performRingrel (s : State) (p : Pend) (n k : Nat) : State :=
  let x := p.own.ctx
  let rel := ringRel s x n
  let s := dropPend s p.id
  if ringBefore k rel then s
  else if !ringBefore k (ringFill s x n) then
    takeFault s x (agentUnit p.who) fSTRM { pendSite p with addr := BitVec.ofNat 64 k }
  else
    let marks := setAdd (tabGet (s.ctx x).rel n) k
    let (r, ms) := advanceRel marks.length rel marks
    let s := touchCtx (s.modCtx x fun c => { c with rel := tabSet c.rel n ms }) x
    let s := laterSnaps s x p.own.iv fun v => { v with rel := tabSet v.rel n ms }
    countReg s x p.own.iv (0x60 + n) fun w => wput w 31 0 r

/-! ### Acceptance (R222, R225, R226) -/

/-- Whether a released operation is the first of its agent and activation among those a test selects. -/
def firstOf (s : State) (p : Pend) (same : Eff → Bool) : Bool :=
  ((s.pend.find? fun q => q.who == p.who && q.own.act == p.own.act && same q.eff).map (·.id)) == some p.id

/-- Whether the plane an owner worked in is its region's active one (R222). -/
def actActive (s : State) (o : Owner) : Bool :=
  match (s.region o.reg).kref with
  | some k => k.act == o.act
  | none => false

/-- A released command faults at acceptance. -/
def acceptFault (s : State) (p : Pend) (port code : Nat) (addr : Word) : State :=
  takeFault (dropPend s p.id) p.own.ctx (agentUnit p.who) code { pendSite p with chan := port, addr := addr }

/-- A command enters the queue; its obligation stays until it is complete (R242). -/
def enqueue (s : State) (p : Pend) (d c port : Nat) (k : CmdKind) : State :=
  let m : Cmd := { id := p.id, port := port, kind := k, own := p.own, floor := readFloor s p.own.reg p.deps }
  let s := { s with pend := s.pend.filter fun q => q.id ≠ p.id }
  popSbars (s.modCluster d c fun q => { q with queue := q.queue ++ [m] }) d c 33

/-- A stream command's pattern is checked and the command queued (R221, R225). -/
def acceptPat (s : State) (p : Pend) (d c port : Nat) (fields : Bool) (t : Pattern) (addr : Word) : State :=
  let bad := !fields || !patOk s p.own.ctx (portKind port) t || (springPort port && (springDest? s d c port).isNone)
  if bad then acceptFault s p port fSTRM addr else enqueue s p d c port (.strm t)

/-- A pattern block read at acceptance, from the cluster's cache when it is there (R226). -/
def acceptStrm (s : State) (p : Pend) (d c port va : Nat) : State :=
  let a := BitVec.ofNat 64 va
  if va % 128 ≠ 0 then acceptFault s p port fSTRM a
  else
    match tabGet? (s.cluster d c).pcache va with
    | some bs => acceptPat s p d c port (patFieldsOk (portKind port) bs) (patternOf bs) a
    | none =>
      let r : Reacher := { d := d, x := p.own.ctx, who := .pend p.id, u := agentUnit p.who, site := { pendSite p with chan := port } }
      match reachAll s r kOther (vCuts 4 va 128) with
      | .wait s => s
      | .fail s => dropPend s p.id
      | .ok segs s =>
        let (bs, bad, _, s) := readSegs s (readFloor s p.own.reg p.deps) s.clk segs
        if bad then acceptFault s p port fPOISON a
        else
          let s := s.modCluster d c fun q => if q.pcache.length < 32 then { q with pcache := tabSet q.pcache va bs } else q
          acceptPat s p d c port (patFieldsOk (portKind port) bs) (patternOf bs) a

/-- A queued command ends without an element (R244): a marker command counts as sent. -/
def dropQueued (s : State) (d c : Nat) (m : Cmd) : State :=
  let s := cmdDone s d c m.id
  match m.kind with
  | .marker b =>
    barSent (modBar s m.own.reg b fun r => { r with cmds := r.cmds.filter (· ≠ m.id) }) m.own.reg b
  | _ => s

/-- sstop acts (R232, R244). -/
def actSstop (s : State) (d c port : Nat) (own : Owner) (dropq : Bool) : State :=
  let s := match (s.port d c port).stream with
    | some m => if m.st == .frozen then s else endStream s d c port
    | none => s
  if dropq then
    ((s.cluster d c).queue.filter fun m => m.port == port && m.kind ≠ .sbar && !m.running && m.own.act == own.act).foldl
      (fun s m => dropQueued s d c m) s
  else s

/-- STREAM_CMD_ACCEPT (R222): the next command of its operator for a cluster is accepted, when its plane is active and
the queue has room. -/
def execStreamCmdAccept (k : Nat) (s : State) : Host.Outcome State Fault Refusal :=
  match s.pend.find? fun p => p.id == k with
  | none => .next s
  | some p =>
    match effCl p.eff with
    | none => .next s
    | some rc =>
      let r := s.region p.own.reg
      let d := r.die
      let c := r.cluster rc
      if !firstOf s p (fun e => effCl e == some rc) || !(s.live p.deps).isEmpty || !actActive s p.own || !ctxRuns s p.own.ctx
        || r.stopped || (s.cluster d c).queue.length ≥ 32 then .next s
      else
        match p.eff with
        | .strm _ port va => .next (acceptStrm s p d c port va)
        | .strmi _ port t => .next (acceptPat s p d c port true t (BitVec.ofNat 64 t.base))
        | .sstop _ port dq => .next (actSstop (dropPend s k) d c port p.own dq)
        | .pbinv _ a =>
          let s := s.modCluster d c fun q => { q with pcache := match a with | none => [] | some v => tabDel q.pcache v }
          .next (dropPend s k)
        | .sbar _ => .next (enqueue s p d c 0 .sbar)
        | .marker _ port b => .next (enqueue s p d c port (.marker b))
        | _ => .next s

/-! ### Starting (R222, R231) -/

/-- Whether a queued command may start (R222): the port and the earlier commands are those of its own plane (log 25). -/
def mayStart (s : State) (d c : Nat) (m : Cmd) : Bool :=
  let before := (s.cluster d c).queue.takeWhile fun q => q.id ≠ m.id
  !m.running && actActive s m.own && ctxRuns s m.own.ctx && !(s.region m.own.reg).stopped && !draining s (tarn0 d c)
    && (s.port d c m.port).stream.isNone
    && before.all fun q => q.kind ≠ .sbar && !(q.port == m.port && q.own.act == m.own.act)

/-- STREAM_START (R222, R224, R230, R232): the stream is bound to its port; an empty one is done at once. -/
def execStreamStart (die cl k : Nat) (s : State) : Host.Outcome State Fault Refusal :=
  match (s.cluster die cl).queue.find? fun m => m.id == k with
  | none => .next s
  | some m =>
    match m.kind with
    | .strm t =>
      if !mayStart s die cl m then .next s
      else
        let q := s.port die cl m.port
        let st : Stream := { cmd := k, pat := t, own := m.own, nth := q.nth, counted := q.counts.getD q.nth 0, floor := m.floor, since := s.clk }
        let s := s.modPort die cl m.port fun q =>
          { q with stream := some st, nth := q.nth + 1, counts := if q.counts.length ≤ q.nth then q.counts ++ [0] else q.counts }
        let s := s.modCluster die cl fun c =>
          { c with queue := listMod (fun n => n.id == k) (fun n => { n with running := true }) c.queue }
        if t.count == 0 then .next (endStream s die cl m.port)
        else .next (if streamBytes m.port t > 65536 then askLeave s die (.stream die cl m.port) 0 else s)
    | _ => .next s

/-- BARRIER_MARKER_SEND (R331): a spring's marker command starts, and its marker is delivered after the last element of
every earlier stream. -/
def execBarrierMarkerSend (die cl k : Nat) (s : State) : Host.Outcome State Fault Refusal :=
  match (s.cluster die cl).queue.find? fun m => m.id == k with
  | none => .next s
  | some m =>
    match m.kind, springDest? s die cl m.port with
    | .marker b, some dst =>
      if !mayStart s die cl m || !destOpen s dst then .next s
      else
        let (n, s') := s.newKey
        let f : Flight := { id := n, ctx := m.own.ctx, src := .port die cl m.port, dst := dst, item := .mark .barrier b }
        match deliver s' f with
        | none => .next s
        | some s =>
          let s := cmdDone s die cl k
          let s := modBar s m.own.reg b fun r => { r with cmds := r.cmds.filter (· ≠ k) }
          let s := match dst with | .chan u o _ => checkClash s u o | _ => s
          .next (barSent s m.own.reg b)
    | _, _ => .next s

/-! ### Copy engines (R237, R238) -/

/-- An engine's jobs. -/
def jobsOf (s : State) (d e : Nat) : List Job := tabGet (s.die d).engines e
def modJobs (s : State) (d e : Nat) (f : List Job → List Job) : State :=
  s.modDie d fun x => { x with engines := tabMod x.engines e f }
def modJob (s : State) (d e id : Nat) (f : Job → Job) : State := modJobs s d e (listMod (fun j => j.id == id) f)

/-- A job of 256 bytes (R237): its patterns, or none when it breaks a check. -/
def jobOf (s : State) (x : Nat) (bs : List Byte) : Option (Pattern × Pattern) :=
  let a := patternOf (bs.take 128)
  let b := patternOf (bs.drop 128)
  if patFieldsOk .copySrc (bs.take 128) && patFieldsOk .copyDst (bs.drop 128) && patOk s x .copySrc a && patOk s x .copyDst b
    && a.ty == b.ty && a.count == b.count then some (a, b) else none

/-- The die whose engines an agent's cpy reaches: the issuing die; a core's is compute die 0 (log 7). -/
def copyDie (s : State) (p : Pend) : Nat :=
  match p.who with
  | .oper u _ => regDie u
  | _ => (s.region p.own.reg).die

/-- The cluster whose governor a job asks. -/
def copyCl (p : Pend) : Nat :=
  match p.who with
  | .oper u _ => unitCl u
  | _ => 0

/-- COPY_JOB_ACCEPT (R237): an engine with fewer than 16 jobs takes the next one of its operator. -/
def execCopyJobAccept (k : Nat) (s : State) : Host.Outcome State Fault Refusal :=
  match s.pend.find? fun p => p.id == k with
  | none => .next s
  | some p =>
    match p.eff with
    | .cpy e va =>
      let d := copyDie s p
      let mine := fun (f : Eff) => match f with | .cpy g _ => g == e | _ => false
      if !firstOf s p mine || !(s.live p.deps).isEmpty || !ctxRuns s p.own.ctx || (jobsOf s d e).length ≥ 16 then .next s
      else if va % 128 ≠ 0 then .next (acceptFault s p 0 fSTRM (BitVec.ofNat 64 va))
      else
        let r : Reacher := { d := d, x := p.own.ctx, who := .pend k, u := agentUnit p.who, site := pendSite p }
        match reachAll s r kOther (vCuts 6 va 256) with
        | .wait s => .next s
        | .fail s => .next (dropPend s k)
        | .ok segs s =>
          let (bs, bad, _, s) := readSegs s (readFloor s p.own.reg p.deps) s.clk segs
          if bad then .next (acceptFault s p 0 fPOISON (BitVec.ofNat 64 va))
          else
            match jobOf s p.own.ctx bs with
            | none => .next (acceptFault s p 0 fSTRM (BitVec.ofNat 64 va))
            | some (a, b) =>
              let j : Job := { id := k, own := p.own, cl := copyCl p, tag := p.tag, src := a, dst := b, floor := readFloor s p.own.reg p.deps }
              let s := { s with pend := s.pend.filter fun q => q.id ≠ k }
              .next (modJobs s d e fun l => l ++ [j])
    | _ => .next s

/-- A job is done (R237). -/
def jobDone (s : State) (d e : Nat) (j : Job) : State :=
  (endLeave (modJobs s d e fun l => l.filter fun k => k.id ≠ j.id) d (.copy d j.cl e j.id)).meet j.id

/-- A job that faulted is over (R231); the node of a copy node does not complete, so its obligation stays. -/
def jobFails (s : State) (d e : Nat) (j : Job) : State :=
  if j.node then endLeave (modJobs s d e fun l => l.filter fun k => k.id ≠ j.id) d (.copy d j.cl e j.id) else jobDone s d e j

/-- A job faults (R231): the fault goes against its context. -/
def jobFault (s : State) (d e : Nat) (j : Job) (code : Nat) (addr : Word) : State :=
  jobFails (takeFault s j.own.ctx 0 code { engineSite d j.cl with addr := addr, iv := j.own.iv }) d e j

def jobReacher (d e : Nat) (j : Job) : Reacher :=
  { d := d, x := j.own.ctx, who := .engine d e, site := { engineSite d j.cl with iv := j.own.iv } }

/-- The partial that a job's elements form (R238). -/
def jobPartial (s : State) (d e : Nat) (j : Job) : Pend :=
  let ref := j.dst.side
  let q : Partial :=
    { idx := bits ref 20 9, gen := bits ref 22 21, ty := j.dst.ty, data := j.gather, p := j.poison, task := j.own.task, iv := j.own.iv
      who := { dev := s.devId, kind := 2, die := d, unit := e, tag := j.tag, attempt := j.own.attempt } }
  { id := j.id, who := .engine d e, own := j.own, tag := j.tag, eff := .contrib (bits ref 8 0) q }

/-- A job's elements have all performed (R237, R238): it is done, or its partial is sent to its pool's home. -/
def jobEnd (s : State) (d e : Nat) (j : Job) : State :=
  if j.dst.pool then
    let s := endLeave (modJobs s d e fun l => l.filter fun k => k.id ≠ j.id) d (.copy d j.cl e j.id)
    { s with pend := s.pend ++ [jobPartial s d e j] }
  else jobDone s d e j

/-- Element k of a job has performed: the destination's counter rises, and the last one ends the job (R234, R256). -/
def jobAdvance (s : State) (d e : Nat) (j : Job) (k : Nat) : State :=
  let s := touchCtx (tlAdd s j.own.ctx j.own.iv j.dst.tl 1) j.own.ctx
  let (pos, ahead) := if k == j.pos then skipAhead (j.ahead.length + 1) (k + 1) j.ahead else (j.pos, k :: j.ahead)
  let j := { j with pos := pos, ahead := ahead }
  if pos < j.dst.count then modJob s d e j.id fun _ => j else jobEnd s d e j

/-- Write element k of a job: to a pool's partial, host memory, or memory (R231, R237, R240). -/
def jobPut (s : State) (d e : Nat) (j : Job) (k : Nat) (bs : List Byte) (bad : Bool) : State :=
  let x := j.own.ctx
  let ty := Ty.ofCode j.dst.ty
  let ix := indexOf j.dst.counts k
  if j.dst.pool then jobAdvance s d e { j with gather := j.gather ++ [loadPay ty bs], poison := j.poison || bad } k
  else
    match ringReady s x j.dst (slotSteps j.dst) k j.fill with
    | none => s
    | some f =>
      match elemAddr s x j.dst f ix with
      | none => jobFault s d e j fSTRM 0
      | some va =>
        if bad then jobFault s d e j fPOISON (BitVec.ofNat 64 va)
        else if va % tySize ty ≠ 0 then jobFault s d e j fALIGN (BitVec.ofNat 64 va)
        else if j.dst.host && !j.dst.ring then
          jobAdvance { s with hostMem := memPut s.hostMem va bs } d e { j with fill := f } k
        else
          match reachAll s (jobReacher d e j) kWrite (vCuts 2 va bs.length) with
          | .wait s => s
          | .fail s => jobFails s d e j
          | .ok segs s =>
            match roomOf s j.own.iv segs with
            | .wait => waitRoom s segs
            | .full => jobFault s d e j fEGRESS (BitVec.ofNat 64 va)
            | .ok => jobAdvance (ringStep (writeSegs s j.own segs bs) x j.own.iv j.dst k f) d e { j with fill := f } k

/-- The elements of a job that may perform next, among the next 32 (R256; log 1): the first, and later ones in memory as
long as nothing may stop those before them. -/
def jobChoices (s : State) (d : Nat) (j : Job) : List Nat :=
  if j.src.host || j.dst.host || j.dst.pool || j.dst.ring then [j.pos]
  else
    let n := tySize (Ty.ofCode j.src.ty)
    let clean := fun (k : Nat) =>
      elemClean s d j.own.ctx kLoad ((elemAddr s j.own.ctx j.src 0 (indexOf j.src.counts k)).getD 0) n
        && elemClean s d j.own.ctx kWrite ((elemAddr s j.own.ctx j.dst 0 (indexOf j.dst.counts k)).getD 0) n
    let es := (upFrom j.pos (min 32 (j.dst.count - j.pos))).filter fun k => !j.ahead.contains k
    match es.takeWhile clean with
    | [] => [j.pos]
    | es => es

/-- Whether an engine may start a job: its context is not being saved, saved or resumed (R285), and a job of its F task
needs that task to run. -/
def jobMayStart (s : State) (j : Job) : Bool :=
  let st := (s.ctx j.own.ctx).st
  j.own.ctx == fwCtx || st == .running || (j.node && (st == .idle || st == .stopped))

/-- Whether a started job goes on: a copy node's does not depend on its context's F task. -/
def jobRuns (s : State) (j : Job) : Bool := j.node || ctxRuns s j.own.ctx

/-- Read element k of a job and write it (R231, R237). -/
def jobElem (s : State) (d e : Nat) (j : Job) (k : Nat) : State :=
  let n := tySize (Ty.ofCode j.src.ty)
  let va := (elemAddr s j.own.ctx j.src 0 (indexOf j.src.counts k)).getD 0
  if va % n ≠ 0 then jobFault s d e j fALIGN (BitVec.ofNat 64 va)
  else if j.src.host then jobPut s d e j k (memBytes s.hostMem va n) false
  else
    match reachAll s (jobReacher d e j) kLoad (vCuts 2 va n) with
    | .wait s => s
    | .fail s => jobFails s d e j
    | .ok segs s =>
      let (bs, bad, _, s) := readSegs s j.floor j.since segs
      jobPut s d e j k bs bad

/-- COPY_ELEMENT (R230, R231, R237, R256): the engine's first job starts and asks for leave, and then moves one element at a
time. -/
def execCopyElement (die eng : Nat) (s : State) : Host.Outcome State Fault Refusal :=
  match jobsOf s die eng with
  | [] => .next s
  | j :: _ =>
    if !j.started then
      if !jobMayStart s j then .next s
      else if j.dst.count == 0 then .next (jobEnd s die eng j)
      else .next (askLeave (modJob s die eng j.id fun j => { j with started := true, since := s.clk }) die (.copy die j.cl eng j.id) 0)
    else if !jobRuns s j || !hasLeave s die (.copy die j.cl eng j.id) then .next s
    else
      let (k, s) := pickFrom s (jobChoices s die j)
      .next (jobElem s die eng j k)

end Sys2Proof.Machine
end

