-- ==== Sys2Proof/Machine/Kernel.lean ====
section
/-! DEFINITION. Kernel images, activations, calls and shadow planes, opcodes 0xB0-0xB4 (R261-R281). -/

namespace Sys2Proof.Machine

/-! ### The configuration cache (R263-R265) -/

/-- The image of a call or tcall that has passed its check and whose planes are yet to load (R266, R268). -/
def Phase.image : Phase → Option Nat
  | .taken c => some c.image
  | .tearing _ _ _ (some c) => some c.image
  | _ => none
/-- Whether a plane of a region uses an image, one that is about to load among them (DEDUCED, log 109). -/
def regionUses (r : Region) (x addr : Nat) : Bool :=
  r.ctx == x && ((match r.kref with | some k => k.image == addr | none => false) || (r.levels.any fun l => l.kref.image == addr)
    || r.phase.image == some addr)

/-- Whether some plane on a die uses an image (R264). -/
def pinned (s : State) (d x addr : Nat) : Bool := s.regions.any fun k => k.2.die == d && regionUses k.2 x addr

/-- A staged image of a die. -/
def imageOf (s : State) (d x addr : Nat) : Option Image := (s.die d).images.find? fun i => i.ctx == x && i.addr == addr
def modImage (s : State) (d x addr : Nat) (f : Image → Image) : State :=
  s.modDie d fun v => { v with images := listMod (fun i => i.ctx == x && i.addr == addr) f v.images }

/-- An image leaves the cache, and its configurations the stores (R265). -/
def evictImage (s : State) (d x addr : Nat) : State :=
  let s := s.modDie d fun v => { v with images := v.images.filter fun i => !(i.ctx == x && i.addr == addr) }
  { s with units := s.units.map fun u =>
      if unitDie u.1 == d && !isCore u.1 then
        (u.1, { u.2 with store := u.2.store.filter fun e => !(e.ctx == x && e.image == addr) })
      else u }

/-- The last plane that uses an image has ended: a pending kdrop takes effect (R265). -/
def planeEnd (s : State) (d x addr : Nat) : State :=
  match imageOf s d x addr with
  | some i => if i.drop && !pinned s d x addr then evictImage s d x addr else s
  | none => s

/-- The bytes the staged images of a die take. -/
def cacheUsed (s : State) (d : Nat) : Nat := ((s.die d).images.map (·.size)).sum

/-- Room for an image in the die's cache (R264, R265): unpinned images go, least recently used first. None while every
other image is pinned. -/
def makeRoom : Nat → State → Nat → Nat → Option State
  | 0, s, _, _ => some s
  | n + 1, s, d, size =>
    if cacheUsed s d + size ≤ imageMax then some s
    else
      let free := (s.die d).images.filter fun i => !pinned s d i.ctx i.addr
      match free.foldl (fun (m : Option Image) i => match m with | none => some i | some b => if i.used < b.used then some i else m) none with
      | none => none
      | some i => makeRoom n (evictImage s d i.ctx i.addr) d size

/-- The place of a verification fault (R67). -/
def imageSite (d : Nat) (r : Region) (core : Bool) (addr : Nat) (v : VFault) : FaultRec :=
  { die := d, cl := if core then 0 else r.cluster v.oper.cl, tarn := if core then 0xFE else if v.oper.tarn == 16 then 0xFF else v.oper.tarn
    oper := v.oper.slot, block := v.block, slot := v.slot, chan := v.chan, addr := BitVec.ofNat 64 addr }

/-- How a staging ends. -/
inductive Staged1 where
  | ok (img : Image) (s : State)
  | wait (s : State)
  | fault (s : State) (code : Nat) (site : FaultRec)
  deriving Repr

/-- The region fit of a staged image (R261, R263): the address of the header or record that fails first, if one does. -/
def fitFault (r : Region) (i : Image) : Option Nat :=
  let out := fun (c : Nat) => c % max r.width 1 ≥ i.width || c / max r.width 1 ≥ i.height
  if i.width > r.width || i.height > r.height then some i.addr
  else
    match i.opers.find? fun o => out o.cl with
    | some o => some (i.addr + o.off)
    | none => (i.ports.find? fun p => out p.cl).map fun p => i.addr + p.off

/-- The place of a failed structure check: the region's arbiter, and no operator, block or slot (R261, R263). -/
def structSite (d : Nat) (r : Region) (addr : Word) : FaultRec := { die := d, cl := r.cluster 0, tarn := 0xFE, addr := addr }

/-- Stage an image for a region (R261, R263, R264, R67, R68, R279): from the cache, or read, checked and verified. A
translation fault waits for its service. -/
def stageNow (s : State) (d x : Nat) (r : Region) (addr : Nat) : Staged1 :=
  match imageOf s d x addr with
  | some i =>
    match fitFault r i with
    | none =>
      let (k, s) := s.newKey
      .ok i (modImage s d x addr fun i => { i with used := k })
    | some a => .fault s fNOKERNEL (structSite d r (BitVec.ofNat 64 a))
  | none =>
    if isPending s x addr then .wait s
    else
      match readImage s d x addr r.width r.height false with
      | (.error (.fault c a), s) =>
        let site := structSite d r a
        if c == fXLATE && s.pageHost then
          .wait (if isPending s x (a.toNat % 2 ^ 56) then s else takeFault s x 0 c site)
        else .fault s c site
      | (.ok i, s) =>
        match verifyImage i false r.width (r.width * r.height) with
        | some v => .fault s v.code (imageSite d r false addr v)
        | none =>
          match makeRoom 4096 s d i.size with
          | none =>
            if (s.die d).images.all fun j => !pinned s d j.ctx j.addr || j.ctx == x then
              .fault s fNOKERNEL (structSite d r (BitVec.ofNat 64 addr))
            else .wait s
          | some s =>
            let (k, s) := s.newKey
            let i := { i with used := k }
            .ok i (s.modDie d fun v => { v with images := v.images ++ [i] })

/-- The logical cluster of a kernel's cluster number. -/
def kernelCl (r : Region) (c : Nat) : Nat := r.cluster c

/-- A unit's configuration of an image. -/
def unitOpers (img : Image) (r : Region) (u : Nat) : List OpRec :=
  img.opers.filter fun o => kernelCl r o.cl == unitCl u && o.tarn == unitTarn u

/-- Make room in a configuration store (R263): four images and 24 KiB, the active plane's always among them. -/
def dropStore : Nat → List StoreEntry → Nat × Nat → Nat → List StoreEntry
  | 0, l, _, _ => l
  | n + 1, l, active, size =>
    if l.length < 4 && (l.map (·.size)).sum + size ≤ 24576 then l
    else
      let free := l.filter fun e => (e.ctx, e.image) ≠ active
      match free.foldl (fun (m : Option StoreEntry) e => match m with | none => some e | some b => if e.used < b.used then some e else m) none with
      | none => l
      | some e => dropStore n (l.filter fun f => !(f.ctx == e.ctx && f.image == e.image)) active size

/-- A unit's configuration becomes resident (R263). -/
def loadStore (s : State) (x u : Nat) (r : Region) (img : Image) (active : Nat) : State :=
  let (k, s) := s.newKey
  s.modUnit u fun v =>
    let rest := v.store.filter fun e => !(e.ctx == x && e.image == img.addr)
    let size := configSize img (r.indexOf (unitCl u)) (unitTarn u)
    { v with store := dropStore 8 rest (x, active) size ++ [{ ctx := x, image := img.addr, size := size, used := k, opers := unitOpers img r u }] }

/-- An image whose configuration a unit of a region has dropped is not resident there any more (R265). -/
def syncResident (s : State) (reg : Nat) : State :=
  let r := s.region reg
  let held := fun (i : Image) => r.units.all fun u => (s.unit u).store.any fun e => e.ctx == i.ctx && e.image == i.addr
  let sync := fun (i : Image) => if i.resident.contains reg && !held i then { i with resident := i.resident.filter (· ≠ reg) } else i
  s.modDie r.die fun v => { v with images := v.images.map sync }

/-- An image becomes resident on a region (R263, R265); `active` is the image of the plane that is active then. -/
def makeResident (s : State) (reg : Nat) (img : Image) (active : Nat) : State :=
  let r := s.region reg
  let s := r.units.foldl (fun s u => loadStore s r.ctx u r img active) s
  syncResident (modImage s r.die r.ctx img.addr fun i => { i with resident := setAdd i.resident reg }) reg

/-! ### Frames (R147) -/

/-- What a frame is placed for. -/
inductive FrameFor where
  | dispatch | call | tcall
  deriving DecidableEq, Repr, Inhabited

/-- Base, top and limit of a tarn's new frame; none past the limit. -/
def frameOf (s : State) (x u f : Nat) (how : FrameFor) : Option (Nat × Nat × Nat) :=
  let e := frameEnd (s.unit u)
  let l := wbits (s.ctxReg x 0x13) 31 0 * 64
  let p := (s.unit u).plane
  let (b, lim) := match how with
    | .dispatch => if f ≤ e then (0, e) else (e, e + l)
    | .call => if p.top + f ≤ e then (p.top, e) else (max e p.top, e + l)
    | .tcall => (p.base, p.limit)
  if b + f > lim then none else some (b, b + f, lim)

/-- Whether a frame fits on every tarn of a region. -/
def framesFit (s : State) (reg f : Nat) (how : FrameFor) : Bool :=
  let r := s.region reg
  r.units.all fun u => isNode u || (frameOf s r.ctx u f how).isSome

/-! ### Activation (R85, R90, R95, R103, R167, R266) -/

/-- The static registers of a node under an image (R196). -/
def nodeStatics (ops : List OpRec) : List Nat :=
  ops.foldl (fun st o => o.blocks.foldl (fun st b => (instrsOf (blockParts b).2).foldl (fun st i => setUnion st (staticRegs i)) st) st) []

/-- Shares at activation (R103): ⌊16 ÷ n⌋ each, the rest one each from slot 0 upward. -/
def firstShares (ops : List OpRec) : List (Nat × Nat) :=
  let slots := sortBy (fun (a b : Nat) => a < b) (ops.map (·.slot))
  let n := max slots.length 1
  slots.zipIdx.map fun p => (p.1, 16 / n + (if p.2 < 16 % n then 1 else 0))

/-- The operator slots of a unit under a configuration. -/
def freshOps (ops : List OpRec) : Tab OpState :=
  let sh := firstShares ops
  ops.foldl (fun t o => tabSet t o.slot { num := o.num, share := ((sh.find? fun p => p.1 == o.slot).map Prod.snd).getD 0 }) []

/-- The ports that an image binds in a cluster (R84). A replay keeps a port's stream buffer and counts (R227, R236). -/
def freshPorts (img : Image) (r : Region) (u : Nat) (old : Tab Port) (keep : Bool) : Tab Port :=
  if unitTarn u ≠ 0 then []
  else (img.ports.filter fun p => kernelCl r p.cl == unitCl u).foldl (fun t p =>
    let o := tabGet old p.port
    let q : Port := { bound := true, dest := p.dest }
    tabSet t p.port (if keep then { q with buffer := o.buffer, bufFull := o.bufFull, counts := o.counts } else q)) []

/-- A unit's active plane is loaded with an image: tokens empty, registers and counters zero (R266). Tokens that wait in
the arrival buffer stay when `arrivals` says so (R95). -/
def loadPlane (s : State) (x u : Nat) (r : Region) (img : Image) (frame : Option (Nat × Nat × Nat)) (arrivals keep : Bool) : State :=
  let ops := unitOpers img r u
  let (b, t, l) := frame.getD (0, 0, 0)
  s.modUnit u fun v =>
    { v with
      cur := none, consec := 0
      plane := { image := img.addr, ops := freshOps ops, arrival := if arrivals then v.plane.arrival.filter (fun f => f.ctx == x) else []
                 base := b, top := t, limit := l, frame := img.frame, ports := freshPorts img r u v.plane.ports keep
                 node := { statics := if isNode u then nodeStatics ops else [] } } }

/-- Operators without input channels fire once (R90). -/
def fireInputless (s : State) (u : Nat) : State :=
  (unitConfig s u).foldl (fun s o => if (inChans o).isEmpty then makeFiring s u o.slot 0 0 [] else s) s

/-- A plane boundary of a unit (R95): each waiting token meets the new configuration, or raises NO_HANDLER. -/
def planeBoundary (s : State) (u : Nat) : State :=
  let ws := (s.unit u).plane.arrival
  let s := s.modPlane u fun p => { p with arrival := [] }
  ws.foldl (fun s f =>
    let gone := fun (s : State) => match f.dst with
      | .chan v o c => arrivalFault s (s.ctxOf v) v o c fNOHANDLER f
      | .port d c p => arrivalFault s (s.ctxOf (tarn0 d c)) (tarn0 d c) 0 p fNOHANDLER f
    match f.dst with
    | .chan v o c => if (chanRec? s v o c).any (fun k => !k.out) then (arriveChan s v o c f).getD s else gone s
    | .port d c p => if (s.port d c p).bound then (arrivePort s d c p f).getD s else gone s) s

/-- The address of the pattern block a port record names (R84): the image's own patterns start at a base that the host
fixes when it places the image (log 26). -/
def patternAddr (img : Image) (pat : Nat) : Nat := Config.patternBase img.addr + 128 * pat

/-- The streams of port records start in record order, as if strm had been issued (R85). -/
def startPorts (s : State) (reg : Nat) (img : Image) (own : Owner) (deps : List Nat) : State :=
  img.ports.foldl (fun s p =>
    match p.pat with
    | none => s
    | some n =>
      let (k, s) := s.newKey
      { s with pend := s.pend ++ [{ id := k, who := .arbiter own.ctx reg, own := own, deps := deps, eff := .strm p.cl p.port (patternAddr img n) }] }) s

/-- Send an activation's argument tokens to its entry channel (R83, R276). -/
def sendArgs (s : State) (reg : Nat) (k : KRef) : State :=
  match k.entry with
  | none => s
  | some (u, o, c) => k.args.foldl (fun s t => sendFlight s (s.region reg).ctx (.arbiter (s.region reg).ctx reg) (.chan u o c) (.tok t)) s

/-- ctx.depth follows the active plane (R272). -/
def setDepth (s : State) (x d : Nat) : State :=
  let v := s.ctxReg x 0x18
  s.setCtx x 0x18 (wput (wput v 15 8 (max (wbits v 15 8) d)) 7 0 d)

/-- The pools of an image's records are declared (R167, R169): the state, and whether one was refused. -/
def declareAll (s : State) (reg : Nat) (img : Image) (task : Nat) : State × Option Nat :=
  img.pools.foldl (fun (a : State × Option Nat) r =>
    match a.2 with
    | some _ => a
    | none =>
      match declarePool a.1 (a.1.region reg).ctx r.id reg r true task with
      | (some s, _) => (s, none)
      | (none, s) => (s, some r.id)) (s, none)

/-- What a region's arbiter does when nothing is under way: a checkpoint that waits begins (R285). -/
def restPhase (s : State) (reg : Nat) : Phase :=
  if (s.ctx (s.region reg).ctx).st == .checkpointing then .drainCkpt else .run

/-- The entry channel's place under an image (R83), in a region. -/
def entryOf (r : Region) (img : Image) : Option (Nat × Nat × Nat) :=
  match img.entryOp with
  | none => none
  | some n => (img.opers.find? fun o => o.num == n).map fun o => (unitKey r.die (kernelCl r o.cl) o.tarn, o.slot, img.entryCh)

/-- Whether the entry channel is an input channel (R276). -/
def entryOk (img : Image) : Bool :=
  match img.entryOp with
  | none => false
  | some n => (img.opers.find? fun o => o.num == n).any fun o => o.chans.any fun c => c.ch == img.entryCh && !c.out

/-- A kernel becomes active on a region (R85, R90, R266): planes loaded, pools declared, streams started, operators
without inputs fired, arguments delivered. `keep` says that this is a replay, `arrivals` that waiting tokens stay. -/
def activate (s : State) (reg : Nat) (img : Image) (k : KRef) (how : FrameFor) (task : Nat) (arrivals keep : Bool) (deps : List Nat) : State :=
  let r := s.region reg
  let x := r.ctx
  let frames := r.units.map fun u =>
    (u, if isNode u then none
        else if keep then (let p := (s.unit u).plane; some (p.base, p.base + p.frame, p.limit))
        else frameOf s x u img.frame how)
  let s := makeResident s reg img img.addr
  let s := frames.foldl (fun s f => loadPlane s x f.1 r img f.2 arrivals keep) s
  let (act, s) := s.newKey
  let k := { k with image := img.addr, width := img.width, height := img.height, act := act, entry := entryOf r img }
  let replays := if keep then r.replays else 0
  let s := s.modRegion reg fun r =>
    { r with
      kref := some k, thawed := false, nonIdem := false, replays := replays, phase := restPhase s reg, activity := s.clk
      lists := r.lists.map fun l => (l.1, { l.2 with since := [], cur0 := l.2.cursor }) }
  let s := noteUsed (setDepth s x k.depth) x
  match declareAll s reg img task with
  | (s, some n) => takeFault s x 0 0x34 { die := r.die, cl := r.cluster 0, addr := poolAddr n 0 0 }
  | (s, none) =>
    let own : Owner := { ctx := x, reg := reg, task := task, act := act, iv := (s.ctxReg x 1).toNat, attempt := replays }
    let s := startPorts s reg img own deps
    let s := r.units.foldl (fun s u => planeBoundary (fireInputless s u) u) s
    sendArgs s reg k

/-! ### Draining (R267, R233, R208) -/

/-- Whether a unit's issues have ended: no block or repetition of it is in progress. -/
def issuesEnded (s : State) (u : Nat) : Bool :=
  (s.unit u).plane.ops.all fun o => o.2.firings.all fun g => !(g.st == .running && g.started)

/-- The ring slot that an outlet's next element needs is not free (R240). -/
def ringWaits (s : State) (d c p : Nat) (m : Stream) : Bool :=
  (ringReady s (s.ctxOf (tarn0 d c)) m.pat (slotSteps m.pat) (m.pos * perStep p m.pat + m.pat.cellElems m.part) m.fill).isNone

/-- Whether an outlet has stored every token it can (R233): none is held, or its stream waits for a page, a ring slot or
its mirror's token. -/
def outletDone (s : State) (d c p : Nat) : Bool :=
  let q := s.port d c p
  match q.held, q.stream with
  | [], _ | _, none => true
  | h :: _, some m => m.st ≠ .running || ringWaits s d c p m ||
      match h.item with | .tok t => dualCheck s d c p t == .wait | _ => false

/-- Released transfers and contributions of a node that have yet to perform (R208). -/
def nodePending (s : State) (r : Region) : Bool :=
  s.pend.any fun p => match p.who, p.eff with
    | .oper u _, .tld _ _ _ _ _ | .oper u _, .tst _ _ _ _ _ | .oper u _, .contrib _ _ => isNode u && r.units.contains u
    | _, _ => false

/-- Whether a region is drained (R267, R285): issues ended, nothing on a route, springs and outlets at their cut, node
fills and K-steps done. The markers that tell the units so are not modelled as tokens (log 27). -/
def drained (s : State) (reg : Nat) : Bool :=
  let r := s.region reg
  let us := r.units
  us.all (issuesEnded s) && !(s.flight.any fun f => us.contains (destAt f.dst)) && !nodePending s r
    && us.all (fun u => (s.unit u).plane.node.kstep.isNone)
    && r.clusters.all fun c =>
      ([8, 9, 10, 11, 12, 13, 14, 15, 18].all fun p => outletDone s r.die c p)
        && [16, 17].all fun p => (s.port r.die c p).stream.all fun m => m.filling.isNone || m.st == .paused

/-! ### Frozen levels (R270-R272) -/

/-- A plane as a freeze copies it: streams frozen at their next element, stopped firings ready to go on alone. -/
def Plane.frozen (p : Plane) : Plane :=
  { p with
    ports := p.ports.map fun q => (q.1, { q.2 with stream := q.2.stream.map fun m => { m with st := .frozen } })
    ops := p.ops.map fun o => (o.1, { o.2 with firings := o.2.firings.map fun (g : Firing) =>
      if g.st == .running then { g with st := FiringSt.ready, alone := true, issue := 0 } else g }) }

/-- A plane as a thaw or a resume leaves it: its streams run again. -/
def Plane.thawed (p : Plane) : Plane :=
  { p with ports := p.ports.map fun q => (q.1, { q.2 with stream := q.2.stream.map fun m => { m with st := .running } }) }

/-- Tokens a plane holds. -/
def Plane.tokens (p : Plane) : Nat :=
  p.arrival.length + p.ovf.length
    + (p.ops.map fun o => (o.2.chans.map fun c => c.2.held.length).sum
        + (o.2.firings.map fun g => if g.eaten then 0 else (g.toks.map fun t => t.2.length).sum).sum).sum

/-- The size of a tarn's frozen record (R270). -/
def recordSize (u : Nat) (p : Plane) : Nat :=
  64 + 272 * p.ops.length + 8 * p.entries.length + 16 * p.tokens + (if unitTarn u == 0 then 64 * 19 else 0)

/-- A slot in the plane-spill area: level d, cluster c of a region of n clusters, and an offset (R272). -/
def spillSlot (s : State) (x n d c off : Nat) : Nat := wbits (s.ctxReg x 0x16) 55 16 * 65536 + (d * n + c) * 393216 + off

/-- Write a range of virtual memory for the device's own use, never undone (R338), or say what stops it: code 0 where an
atomic holds a line (R162). -/
def writeBack (s : State) (d x va : Nat) (bs : List Byte) : Except (Nat × Nat × Nat) State :=
  match (vCuts (bs.length / 64 + 2) va bs.length).foldl (fun (acc : Except (Nat × Nat × Nat) (State × List Byte)) p =>
      match acc with
      | .error e => .error e
      | .ok (s, rest) =>
        match xlateNow s d x p.1 kWrite false with
        | (.ok pa _, s) =>
          if physFault s pa kWrite then .error (fPERM, p.1, 0)
          else if lineHeld s (.mem pa) d then .error (0, p.1, 0)
          else .ok (hostPut s pa (rest.take p.2), rest.drop p.2)
        | (.fault c l, _) => .error (c, p.1, l)
        | (.miss, _) => .error (fXLATE, p.1, 0)) (.ok (s, bs)) with
  | .ok (s, _) => .ok s
  | .error e => .error e

/-- Bytes whose values no rule states, drawn fresh (log 2). -/
def freeBytes (s : State) (n : Nat) : List Byte × State :=
  ((upFrom 0 n).map fun k => Config.freeByte (s.fresh + k), { s with fresh := s.fresh + n })

/-- Write records of the given sizes to their slots; their layout inside is open (R270; log 28). -/
def writeRecords (s : State) (d x : Nat) : List (Nat × Nat) → Except (Nat × Nat × Nat) State
  | [] => .ok s
  | (va, n) :: r =>
    let (bs, s) := freeBytes s n
    match writeBack s d x va bs with
    | .ok s => writeRecords s d x r
    | .error e => .error e

/-- Read records of the given sizes back from their slots, or say what stops it (R270, R271): poison is POISON. What the
records hold is kept in the state (log 28). -/
def readRecords (s : State) (d x : Nat) : List (Nat × Nat) → Except (Nat × Nat × Nat) State
  | [] => .ok s
  | (va, n) :: r =>
    let read := (vCuts (n / 64 + 2) va n).foldl (fun (a : Except (Nat × Nat × Nat) State) p =>
      match a with
      | .error e => .error e
      | .ok s =>
        match xlateNow s d x p.1 kOther false with
        | (.ok pa _, s) =>
          if physFault s pa kLoad then .error (fPERM, p.1, 0)
          else if lineHeld s (.mem pa) d then .error (0, p.1, 0)
          else let (_, bad, s) := physRead s pa p.2; if bad then .error (fPOISON, p.1, 0) else .ok s
        | (.fault c l, _) => .error (c, p.1, l)
        | (.miss, _) => .error (fXLATE, p.1, 0)) (.ok s)
    match read with
    | .ok s => readRecords s d x r
    | e => e

/-- Count a spill or a refill (R271). -/
def countSpill (s : State) (x : Nat) (refill : Bool) : State :=
  let v := s.ctxReg x 0x19
  s.setCtx x 0x19 (if refill then wput v 63 32 (satAt 0xFFFFFFFF (wbits v 63 32 + 1)) else wput v 31 0 (satAt 0xFFFFFFFF (wbits v 31 0 + 1)))

/-- The slots and sizes of a level's tarn records. -/
def levelSlots (s : State) (r : Region) (l : Level) : List (Nat × Nat) :=
  l.sizes.map fun z => (spillSlot s r.ctx (r.width * r.height) l.kref.depth (z.1 / 17) (z.1 % 17 * 16384), z.2)

/-- Whether a new level fits beside the resident ones (R271). -/
def levelFits (ls : List Level) (new : Level) : Bool :=
  let res := ls.filter fun l => !l.spilled
  res.length < 3 && new.sizes.all fun z => (res.map fun l => (tabGet? l.sizes z.1).getD 0).sum + z.2 ≤ 12288

/-- Spill levels until the new one fits, the oldest first, and the new one when it does not fit alone (R271). -/
def spillLoop (s : State) (r : Region) : Nat → List Level → Level → Except (Nat × Nat × Nat) (List Level × Level × State)
  | 0, ls, new => .ok (ls, new, s)
  | n + 1, ls, new =>
    if new.spilled || levelFits ls new then .ok (ls, new, s)
    else
      match ls.find? fun l => !l.spilled with
      | some o =>
        match writeRecords s r.die r.ctx (levelSlots s r o) with
        | .error e => .error e
        | .ok s => spillLoop (countSpill s r.ctx false) r n (listMod (fun l => !l.spilled) (fun l => { l with spilled := true }) ls) new
      | none =>
        match writeRecords s r.die r.ctx (levelSlots s r new) with
        | .error e => .error e
        | .ok s => spillLoop (countSpill s r.ctx false) r n ls { new with spilled := true }

/-- Where a level's node records lie, and their sizes. -/
def nodeSlots (s : State) (r : Region) (l : Level) : List (Nat × Nat) :=
  l.nodes.map fun z => (spillSlot s r.ctx (r.width * r.height) l.kref.depth z.1 262144, z.2)

/-- What waits in the arrival buffer meets the configuration that loads next (R95, R274), and is no part of the record
(DEDUCED, log 108). -/
def Plane.noArrival (p : Plane) : Plane := { p with arrival := [] }

/-- The frozen level of a region's active planes: the sizes of the node records are open, at most 128 KiB (R270). -/
def frozenLevel (s : State) (r : Region) : Level × State :=
  let us := r.units
  let (ns, s) := (upFrom 0 (r.width * r.height)).foldl (fun (a : Tab Nat × State) c =>
    let (k, s) := a.2.draw; (a.1 ++ [(c, Config.freeLength k % 131073)], s)) ([], s)
  ({ kref := r.kref.getD {}, thawed := r.thawed, nonIdem := r.nonIdem, replays := r.replays, nodes := ns
     planes := us.map fun u => (r.unitIndex u, (s.unit u).plane.noArrival.frozen)
     sizes := (us.filter fun u => !isNode u).map fun u => (r.unitIndex u, recordSize u (s.unit u).plane.noArrival) }, s)

/-! ### Calls (R266, R269, R273) -/

/-- The calls of a region's active plane. -/
def ownCalls (r : Region) : List Call := r.calls.filter fun c => (r.kref.map (·.act)) == some c.act

/-- Whether a call comes before another in deterministic mode (R269): caller tag, unit index, operator slot. -/
def callBefore (a b : Call) : Bool :=
  a.tag < b.tag || (a.tag == b.tag && (a.unitIx < b.unitIx || (a.unitIx == b.unitIx && a.op < b.op)))

/-- The call the arbiter takes next (R269). -/
def pickCall (s : State) (reg : Nat) : Option Call :=
  let r := s.region reg
  let cs := ownCalls r
  if ((s.ctx r.ctx).task.map (·.det)).getD false then (sortBy callBefore cs).head? else cs.head?

def dropCall (s : State) (reg id : Nat) : State :=
  s.modRegion reg fun r => { r with calls := r.calls.filter fun c => c.id ≠ id }

/-- The place of an arbiter's fault: cluster 0 of its region (R261). -/
def arbiterSite (r : Region) (op : Nat) (ix : Nat) : FaultRec :=
  let u := r.unitAt ix
  { unitSite u with oper := op, attempt := r.replays }

/-- A call fails its check (R266): discarded, and the region stops. -/
def failCall (s : State) (reg : Nat) (c : Call) (code : Nat) (site : FaultRec) : State :=
  let s := (dropCall s reg c.id).modRegion reg fun r => { r with phase := .run }
  takeFault s (s.region reg).ctx 0 code site

/-- Where a context's save area lies (R287). -/
def saveBase (s : State) (x : Nat) : Nat := wbits (s.ctxReg x 3) 55 16 * 65536

/-- The call queue's entry of a number in the save area is written (R266, R287); its layout is open (log 28). -/
def putCall (s : State) (d x n : Nat) : State :=
  let (bs, s) := freeBytes s 128
  match writeBack s d x (saveBase s x + 0xA0000 + 128 * n) bs with
  | .ok s => s
  | .error _ => s

/-- A plane is being torn down: what it releases from then on of calls and stream commands is discarded (R268). -/
def tearsDown (s : State) (o : Owner) : Bool :=
  match (s.region o.reg).phase with
  | .tearing _ _ _ _ => actActive s o
  | _ => false

/-- A released call joins the queue (R266): 64 on chip, and while NOSAVE is 0 more in the save area, 2,048 in all. -/
def releaseCall (s : State) (p : Pend) (tail : Bool) (image : Nat) (args : List Word) (x : Bool) (deps : List Nat)
    (cont : Option (Nat × Nat × Nat)) (tag : Nat) : State :=
  let reg := p.own.reg
  let r := s.region reg
  let room := if noSave s r.ctx then 64 else 2048
  let s := dropPend s p.id
  let n := ((ctxRegions s r.ctx).map fun k => (s.region k).calls.length).sum
  if tearsDown s p.own then s
  else if n ≥ room || r.calls.length ≥ room then takeFault s r.ctx 0 fDEPTH (pendSite p)
  else
    let s := if n ≥ 64 then putCall s r.die r.ctx n else s
    let (u, o) := match p.who with | .oper u o => (u, o) | _ => (0, 0)
    let c : Call := { id := p.id, tail := tail, image := image, args := args, x := x, deps := deps, cont := cont, tag := tag
                      unitIx := r.unitIndex u, op := o, act := p.own.act }
    s.modRegion reg fun r => { r with calls := r.calls ++ [c] }

/-- A plane's calls and stream commands, queued or on their way to a queue, are discarded (R268). -/
def dropCommands (s : State) (reg : Nat) : State :=
  let r := s.region reg
  let act := (r.kref.getD {}).act
  let s := r.clusters.foldl (fun s c =>
    ((s.cluster r.die c).queue.filter fun m => m.own.reg == reg && m.own.act == act && !m.running).foldl
      (fun s m => cmdDone s r.die c m.id) s) s
  let s := (s.pend.filter fun p => (effCl p.eff).isSome && p.own.reg == reg && p.own.act == act).foldl (fun s p => dropPend s p.id) s
  s.modRegion reg fun r => { r with calls := r.calls.filter fun c => c.act ≠ act }

/-- Springs stop as by sstop, and the plane's commands are discarded (R268). -/
def beginTear (s : State) (reg : Nat) : State :=
  let r := s.region reg
  let s := r.clusters.foldl (fun s c => [0, 1, 2, 3, 4, 5, 6, 7, 16, 17].foldl (fun s p => endStream s r.die c p) s) s
  dropCommands s reg

/-- A released ret (R268): the first of its activation begins the teardown. -/
def releaseRet (s : State) (p : Pend) (vals : List Word) (x : Bool) (deps : List Nat) : State :=
  let reg := p.own.reg
  let s := dropPend s p.id
  match (s.region reg).phase with
  | .tearing _ _ _ _ => s
  | _ =>
    if actActive s p.own then beginTear (s.modRegion reg fun r => { r with phase := .tearing vals x deps none }) reg else s

/-- Whether nothing stops a region's arbiter. -/
def arbiterRuns (s : State) (reg : Nat) : Bool :=
  let r := s.region reg
  !r.stopped && ctxRuns s r.ctx && r.kref.isSome

/-- CALL_TAKE (R266, R269): the arbiter begins to drain for a pending call, and takes and checks the next one once the
plane is drained. -/
def execCallTake (ctx reg : Nat) (s : State) : Host.Outcome State Fault Refusal :=
  let k := regKey ctx reg
  let r := s.region k
  if !arbiterRuns s k then .next s
  else
    match r.phase with
    | .run => .next (if (ownCalls r).isEmpty then s else s.modRegion k fun r => { r with phase := .drainCall })
    | .drainCall =>
      if !drained s k then .next s
      else
        match pickCall s k with
        | none => .next (s.modRegion k fun r => { r with phase := restPhase s k })
        | some c =>
          let site := arbiterSite r c.op c.unitIx
          let depth := depthOf s k + 1
          if !c.tail && (depth > wbits (s.ctxReg ctx 0x17) 7 0 || depth > 255) then .next (failCall s k c fDEPTH site)
          else
            match imageOf s r.die ctx c.image with
            | none =>
              if s.stages.any fun g => g.who == .call ctx reg then .next s
              else
                let (n, s) := s.newKey
                .next { s with stages := s.stages ++ [{ id := n, ctx := ctx, reg := k, die := r.die, addr := c.image, who := .call ctx reg }] }
            | some img =>
              let bad := match fitFault r img with | some a => some a | none => if !c.args.isEmpty && !entryOk img then some c.image else none
              if bad.isSome then
                .next (failCall s k c fNOKERNEL (structSite r.die r (BitVec.ofNat 64 (bad.getD 0))))
              else if !framesFit s k img.frame (if c.tail then .tcall else .call) then .next (failCall s k c fDEPTH site)
              else
                let s := dropCall s k c.id
                if c.tail then .next (beginTear (s.modRegion k fun r => { r with phase := .tearing [] false [] (some c) }) k)
                else .next (s.modRegion k fun r => { r with phase := .taken c })
    | _ => .next s

/-- The argument tokens of a call (R276). -/
def callArgs (c : Call) : List Token :=
  c.args.zipIdx.map fun w => { pay := w.1, sq := BitVec.ofNat 8 w.2, x := c.x, deps := c.deps }

/-- The backing area of a freeze faults (R375): the arbiter waits for its service, or for the end of an atomic's hold, or
the region stops. -/
def backFault (s : State) (reg : Nat) (e : Nat × Nat × Nat) : State :=
  let r := s.region reg
  if e.1 == 0 || isPending s r.ctx e.2.1 then s
  else takeFault s r.ctx 0 e.1 { die := r.die, cl := r.cluster 0, addr := xAddr e.2.1 kOther e.2.2 }

/-- PLANE_FREEZE_COPY (R266, R267, R270, R271): the call that passed its checks freezes the active planes and loads its
kernel. -/
def execPlaneFreezeCopy (ctx reg : Nat) (s : State) : Host.Outcome State Fault Refusal :=
  let k := regKey ctx reg
  let r := s.region k
  match r.phase with
  | .taken c =>
    match imageOf s r.die ctx c.image with
    | none => .next (s.modRegion k fun r => { r with phase := .drainCall, calls := c :: r.calls })
    | some img =>
      if !arbiterRuns s k then .next s
      else
        let (new, s) := frozenLevel s r
        match writeRecords s r.die r.ctx (nodeSlots s r new) with
        | .error e => .next (backFault s k e)
        | .ok s =>
          match spillLoop s r (r.levels.length + 2) r.levels new with
          | .error e => .next (backFault s k e)
          | .ok (ls, new, s) =>
            let s := s.modRegion k fun r => { r with levels := ls ++ [new] }
            let kr : KRef := { depth := new.kref.depth + 1, cont := c.cont, tag := c.tag, args := callArgs c }
            .next (activate (endSequences s r.die r.units) k img kr .call (((s.ctx ctx).task.map (·.id)).getD 0) true false [])
  | _ => .next s

/-! ### Teardown and thaw (R268) -/

/-- Whether a released side effect has yet to perform: one at step 1 at its home or its record is written, but a transfer
counts its rows and an export stores at the end. -/
def pendRuns (p : Pend) : Bool :=
  p.step == 0 || match p.eff with | .tld _ _ _ _ _ | .tst _ _ _ _ _ | .pexp _ _ _ _ _ _ => true | _ => false

/-- Whether an activation can be torn down (R268): blocks in progress ended, tokens bound for outlets stored, released
side effects performed. A settle at its pool's home waits there. -/
def tearReady (s : State) (reg : Nat) : Bool :=
  let r := s.region reg
  let act := (r.kref.getD {}).act
  let toOutlet := fun (f : Flight) => match f.dst with | .port _ _ _ => r.units.contains (destAt f.dst) | _ => false
  r.units.all (issuesEnded s) && !(s.flight.any toOutlet)
    && (r.clusters.all fun c => [8, 9, 10, 11, 12, 13, 14, 15, 18].all fun p =>
      (s.port r.die c p).held.isEmpty || (s.port r.die c p).stream.isNone)
    && !(s.pend.any fun p => p.own.reg == reg && p.own.act == act && pendRuns p && (effCl p.eff).isNone)
    && r.units.all fun u => (s.unit u).plane.node.kstep.isNone

/-- The active planes of a region end: streams, commands, calls, tokens on routes into operators, and barriers of that depth
go. -/
def clearPlanes (s : State) (reg : Nat) : State :=
  let r := s.region reg
  let d := depthOf s reg
  let s := r.clusters.foldl (fun s c => (upFrom 0 19).foldl (fun s p => endStream s r.die c p) s) s
  let s := (upFrom 0 16).foldl (fun s b => if (bar s reg b).depth == d then failBarrier s reg b else s) (dropCommands s reg)
  let s := { s with flight := s.flight.filter fun f => !r.units.contains (destAt f.dst) }
  let s := endSequences s r.die r.units
  r.units.foldl (fun s u => s.modUnit u fun v => { v with plane := {}, cur := none, consec := 0 }) s

/-- The result tokens of a ret (R277). -/
def sendResults (s : State) (reg : Nat) (k : KRef) (vals : List Word) (x : Bool) (deps : List Nat) : State :=
  match k.cont with
  | none => s
  | some (ix, o, c) =>
    let r := s.region reg
    vals.zipIdx.foldl (fun s w =>
      let t : Token := { pay := w.1, lreg := BitVec.ofNat 4 (k.tag / 4096), iter := BitVec.ofNat 12 (k.tag % 4096)
                         sq := BitVec.ofNat 8 w.2, x := x, deps := deps }
      sendFlight s r.ctx (.arbiter r.ctx reg) (.chan (r.unitAt ix) o c) (.tok t)) s

/-- What waits in the arrival buffers of a region's units, by unit. -/
def arrivalsOf (s : State) (reg : Nat) : Tab (List Flight) := (s.region reg).units.map fun u => (u, (s.unit u).plane.arrival)

/-- A level is copied back into the active planes (R268, R271): a configuration that was dropped is loaded again, and what
waited in the arrival buffers meets it (R95, R274). -/
def thawLevel (s : State) (reg : Nat) (l : Level) (arr : Tab (List Flight)) : State :=
  let r := s.region reg
  let s := if l.spilled then countSpill s r.ctx true else s
  let s := l.planes.foldl (fun s p => s.modUnit (r.unitAt p.1) fun v =>
    { v with plane := { p.2.thawed with arrival := p.2.arrival ++ tabGet arr (r.unitAt p.1) } }) s
  let s := s.modRegion reg fun r =>
    { r with kref := some l.kref, levels := r.levels.dropLast, phase := .run
             thawed := true, nonIdem := l.nonIdem, replays := l.replays, activity := s.clk }
  let s := s.modRegion reg fun r => { r with phase := restPhase s reg }
  let s := match imageOf s r.die r.ctx l.kref.image with
    | some img => makeResident s reg img img.addr
    | none => s
  let s := noteUsed (setDepth s r.ctx l.kref.depth) r.ctx
  r.units.foldl (fun s u => matchUnit (planeBoundary (drainOvf s u) u) u) s

/-- ACTIVATION_TEARDOWN (R268): the activation ends; its caller thaws and takes the results, a tcall's kernel takes its
place, or at depth 0 the task's kernel has ended. -/
def execActivationTeardown (ctx reg : Nat) (s : State) : Host.Outcome State Fault Refusal :=
  let k := regKey ctx reg
  let r := s.region k
  match r.phase, r.kref with
  | .tearing vals x deps nxt, some kr =>
    if !arbiterRuns s k || !tearReady s k then .next s
    else
      match nxt with
      | some c =>
        match imageOf s r.die ctx c.image with
        | none => .next s
        | some img =>
          let frames := r.units.map fun u => (u, (s.unit u).plane)
          let s := clearPlanes s k
          let s := frames.foldl (fun s f => s.modPlane f.1 fun p =>
            { p with base := f.2.base, limit := f.2.limit, arrival := f.2.arrival }) s
          let kr' : KRef := { depth := kr.depth, cont := kr.cont, tag := kr.tag, args := callArgs c }
          let s := activate s k img kr' .tcall (((s.ctx ctx).task.map (·.id)).getD 0) true false []
          .next (planeEnd s r.die ctx kr.image)
      | none =>
        match r.levels.getLast? with
        | none =>
          let s := (clearPlanes s k).modRegion k fun r => { r with kref := none, phase := .run }
          .next (planeEnd (noteUsed s ctx) r.die ctx kr.image)
        | some l =>
          match readRecords s r.die ctx (nodeSlots s r l ++ (if l.spilled then levelSlots s r l else [])) with
          | .error e => .next (backFault s k e)
          | .ok s =>
            let arr := arrivalsOf s k
            let s := planeEnd (thawLevel (clearPlanes s k) k l arr) r.die ctx kr.image
            .next (sendResults s k kr vals x deps)
  | _, _ => .next s

/-! ### The instructions (R275-R278) -/

/-- Words of the shared scratch as an AS 1 load (R157, R276): or the fault of the first that fails. -/
inductive Words where
  | ok (ws : List Word) (s : State)
  | stop (s : State)
  deriving Repr

def readWords (i : Issue) : Nat → Nat → State → Words
  | 0, _, s => .ok [] s
  | n + 1, a, s =>
    match unitAddr s i.f.u 1 (BitVec.ofNat 64 a) 8 kLoad with
    | .miss _ => .stop s
    | .fault c ad => .stop (takeBlock s i c ad)
    | .ok loc _ _ =>
      let (bs, bad, _, s) := fireRead s i.f i.fi i.deps false loc 8
      if bad then .stop (takeBlock s i fPOISON (BitVec.ofNat 64 a))
      else
        match readWords i n (a + 8) s with
        | .ok ws s => .ok (BitVec.ofNat 64 (natOfBytes bs) :: ws) s
        | e => e

/-- Stage an effect without a result. -/
def stageOnly (s : State) (i : Issue) (e : Eff) : State := fired (stage s i e).2 i

/-- The continuation of ID12 (R275): the issuer's own unit by index, slot and channel. -/
def contOf (s : State) (i : Issue) (f : FormS) : Option (Nat × Nat × Nat) :=
  if f.id.toNat == 0x800 then none
  else some ((s.region (s.regOf i.f.u)).unitIndex i.f.u, bits f.id.toNat 7 5, bits f.id.toNat 3 0)

/-- The common part of call and tcall (R276): the argument words are read at issue. -/
def runCall (h : Hdr) (f : FormS) (s : State) (mk : Issue → List Word → Bool → List Nat → Eff) : Host.Outcome State Fault Refusal :=
  runSideDual s h fun i =>
    let n := f.imm.toNat % 16
    if mustWait s i then s
    else
      match readWords i n i.r.pay.toNat s with
      | .stop s => s
      | .ok ws s => stageOnly s i (mk i ws (i.l.x || i.r.x) (s.carry (setUnion i.l.deps i.r.deps)))

/-- call (R276). -/
def execCall (h : Hdr) (f : FormS) (s : State) : Host.Outcome State Fault Refusal :=
  runCall h f s fun i ws x deps => .call i.l.pay.toNat ws x deps (contOf s i f) i.l.tag

/-- tcall (R276). -/
def execTcall (h : Hdr) (f : FormS) (s : State) : Host.Outcome State Fault Refusal :=
  runCall h f s fun i ws x deps => .tcall i.l.pay.toNat ws x deps i.l.tag

/-- ret (R277). -/
def execRet (h : Hdr) (f : FormS) (s : State) : Host.Outcome State Fault Refusal :=
  runSide s h fun i =>
    if mustWait s i then s
    else
      match readWords i (f.imm.toNat % 16) i.l.pay.toNat s with
      | .stop s => s
      | .ok ws s => stageOnly s i (.ret ws i.l.x (s.carry i.l.deps))

/-- kload (R278). -/
def execKload (h : Hdr) (f : FormS) (s : State) : Host.Outcome State Fault Refusal :=
  runSide s h fun i => complete s i h (.kload i.l.pay.toNat (f.imm.toNat % 2 == 1))

/-- kdrop (R278). -/
def execKdrop (h : Hdr) (_f : FormS) (s : State) : Host.Outcome State Fault Refusal :=
  runSide s h fun i => complete s i h (.kdrop i.l.pay.toNat)

/-- A released kload asks for its staging (R265, R278); its obligation is met there. -/
def performKload (s : State) (p : Pend) (addr : Nat) : State :=
  if s.stages.any fun g => g.who == .kload p.id then s
  else
    let (n, s) := s.newKey
    let r := s.region p.own.reg
    { s with stages := s.stages ++ [{ id := n, ctx := p.own.ctx, reg := p.own.reg, die := r.die, addr := addr, who := .kload p.id }] }

/-- A released kdrop acts (R265, R278): it is met once the image is evicted. -/
def performKdrop (s : State) (p : Pend) (addr : Nat) : State :=
  let d := (s.region p.own.reg).die
  match imageOf s d p.own.ctx addr with
  | none => dropPend s p.id
  | some _ =>
    if pinned s d p.own.ctx addr then modImage s d p.own.ctx addr fun i => { i with drop := true }
    else dropPend (evictImage s d p.own.ctx addr) p.id

end Sys2Proof.Machine
end

