-- ==== Sys2Proof/Machine/Context.lean ====
section
/-! DEFINITION. Contexts (R282-R295): pre-emption, the save area, resume, and trap, yield and halt, opcodes 0xC2, 0xC4 and
0xC5. -/

namespace Sys2Proof.Machine

/-! ### Moving a task's work to another region (R288) -/

/-- A saved region's place before, and the place it takes. -/
structure Moved where
  old : Region := {}
  new : Region := {}
  deriving DecidableEq, Repr, Inhabited

/-- Where a unit's work, a cluster's and a region's lie after the moves. -/
def movedUnit (ms : List Moved) (u : Nat) : Nat :=
  match ms.find? fun m => m.old.units.contains u with
  | some m => m.new.unitAt (m.old.unitIndex u)
  | none => u
def movedCl (ms : List Moved) (d c : Nat) : Nat × Nat :=
  let u := movedUnit ms (tarn0 d c)
  (unitDie u, unitCl u)
def movedReg (ms : List Moved) (k : Nat) : Nat :=
  match ms.find? fun m => regKey m.old.ctx m.old.idx == k with
  | some m => regKey m.new.ctx m.new.idx
  | none => k

def movedAgent (ms : List Moved) : Agent → Agent
  | .oper u o => .oper (movedUnit ms u) o
  | .port d c p => let q := movedCl ms d c; .port q.1 q.2 p
  | .arbiter x r => .arbiter x (movedReg ms r)
  | a => a
def movedDest (ms : List Moved) : Dest → Dest
  | .chan u o c => .chan (movedUnit ms u) o c
  | .port d c p => let q := movedCl ms d c; .port q.1 q.2 p
def movedOwner (ms : List Moved) (o : Owner) : Owner := { o with reg := movedReg ms o.reg }
def movedRef (ms : List Moved) (f : FireRef) : FireRef := { f with u := movedUnit ms f.u }
def movedHeld (ms : List Moved) (h : Held) : Held := { h with src := movedAgent ms h.src }
def movedFlight (ms : List Moved) (f : Flight) : Flight := { f with src := movedAgent ms f.src, dst := movedDest ms f.dst }
def movedPort (ms : List Moved) (q : Port) : Port :=
  { q with held := q.held.map (movedHeld ms), stream := q.stream.map fun m => { m with own := movedOwner ms m.own } }
def movedPlane (ms : List Moved) (p : Plane) : Plane :=
  { p with
    ops := p.ops.map fun o => (o.1, { o.2 with chans := o.2.chans.map fun c => (c.1, { c.2 with held := c.2.held.map (movedHeld ms) }) })
    arrival := p.arrival.map (movedFlight ms), ovf := p.ovf.map (movedFlight ms)
    ports := p.ports.map fun q => (q.1, movedPort ms q.2) }
def movedKRef (ms : List Moved) (k : KRef) : KRef := { k with entry := k.entry.map fun e => (movedUnit ms e.1, e.2) }
def movedLevel (ms : List Moved) (l : Level) : Level :=
  { l with kref := movedKRef ms l.kref, planes := l.planes.map fun p => (p.1, movedPlane ms p.2) }
/-- A saved region with its references and its place moved. -/
def movedRegion (ms : List Moved) (r : Region) : Region :=
  let r := { r with
    kref := r.kref.map (movedKRef ms), levels := r.levels.map (movedLevel ms), mirror := r.mirror.map (movedReg ms)
    tagReqs := r.tagReqs.map fun (q : TagReq) => { q with f := movedRef ms q.f }
    bars := r.bars.map fun b => (b.1, { b.2 with waits := b.2.waits.map fun (w : BarWait) => { w with f := movedRef ms w.f } }) }
  match ms.find? fun m => m.old.ctx == r.ctx && m.old.idx == r.idx with
  | some m => { r with idx := m.new.idx, die := m.new.die, origin := m.new.origin, outOfService := m.new.outOfService }
  | none => r
def movedSaved (ms : List Moved) (v : SavedRegion) : SavedRegion :=
  { region := movedRegion ms v.region
    units := v.units.map fun u => (u.1, { u.2 with plane := movedPlane ms u.2.plane })
    disp := v.disp.map fun c => (c.1, { c.2 with queue := c.2.queue.map fun (m : Cmd) => { m with own := movedOwner ms m.own } }) }
def movedAsker (ms : List Moved) : Asker → Asker
  | .fire f slot => .fire (movedRef ms f) slot
  | a => a
def movedPool (ms : List Moved) (p : Pool) : Pool :=
  { p with home := movedUnit ms p.home, waits := p.waits.map fun (w : Wait) => { w with asker := movedAsker ms w.asker } }

/-! ### Pre-emption (R285, R290) -/

/-- The regions of a context that its task has: one whose kernel has ended stays the task's until the task completes. -/
def taskRegions (s : State) (x : Nat) : List Nat :=
  (ctxRegions s x).filter fun k => (s.region k).kref.isSome || (s.ctx x).task.any fun t => t.regs.contains k

/-- A pre-emption is requested (R285, R290): a running context with room to save begins its checkpoint, or will when the
step in progress in a region completes. -/
def startPreempt (s : State) (x : Nat) : State :=
  if (s.ctx x).st ≠ .running || noSave s x then s
  else
    let s := s.modCtx x fun c => { c with st := .checkpointing }
    (taskRegions s x).foldl (fun s k => s.modRegion k fun r => if r.phase == .run && r.kref.isSome then { r with phase := .drainCkpt } else r) s

/-- CTX's pre-emption asked by a ready node (R295): one of priority at least that of the running task waits for a region
of the context. -/
def nodeWaits (s : State) (x : Nat) : Bool :=
  match (s.ctx x).task with
  | none => false
  | some t => s.dies.any fun d => d.2.ready.any fun e =>
      e.kind == 0 && e.prio ≥ t.prio && s.launches.any fun l => l.id == e.launch && l.ctx == x

/-! ### The save area (R287) -/

def mib : Nat := 1048576
/-- The size of a context's save area. -/
def saveSize (s : State) (x : Nat) : Nat := mib + 2 * mib * ctxClusters s x
def zeroBytes (n : Nat) : List Byte := List.replicate n 0

/-- Where a region's first cluster section lies. -/
def sectionOf (s : State) (x i : Nat) : Nat :=
  mib + 2 * mib * ((upFrom 0 i).map fun j => (s.region (regKey x j)).width * (s.region (regKey x j)).height).sum

/-- The node record address of a context's task. -/
def taskNode (s : State) (x : Nat) : Nat :=
  match (s.ctx x).task with
  | none => 0
  | some t => ((s.launches.find? fun l => l.id == t.launch).map fun l => l.group + 64 * t.node).getD 0

/-- The header with CHECK taken as given. -/
def saveHeader (s : State) (x check : Nat) : List Byte :=
  bytesOf 4 1 ++ bytesOf 4 check ++ bytesOf 8 (saveSize s x) ++ bytesOf 2 (s.ctx x).nreg ++ bytesOf 1 (wbits (s.ctxReg x 0x18) 7 0)
    ++ zeroBytes 5 ++ bytesOf 8 (taskNode s x) ++ bytesOf 8 (s.ctxReg x 1).toNat ++ zeroBytes 216

/-- The registers as the area holds them. -/
def saveRegs (s : State) (x : Nat) : List Byte :=
  (upFrom 0 256).flatMap fun n => bytesOf 8 (if n == 0xFF then x else (readCtxReg s x n).toNat)

def saveRegionRow (s : State) (x i : Nat) : List Byte :=
  if i < (s.ctx x).nreg then
    let r := s.region (regKey x i)
    bytesOf 1 r.die ++ bytesOf 1 r.origin ++ bytesOf 1 r.width ++ bytesOf 1 r.height ++ zeroBytes 4
      ++ bytesOf 8 (sectionOf s x i) ++ zeroBytes 48
  else zeroBytes 64

/-- STATE of a pool's row: undeclared, open, or closing once a settle's wait has begun. -/
def savePoolRow (s : State) (x n : Nat) : List Byte :=
  match s.pool? x n with
  | none => zeroBytes 64
  | some p =>
    let closing := p.waits.any fun w => inQueue w && w.start.isSome
    bytesOf 2 p.gen ++ bytesOf 1 p.late ++ bytesOf 1 (if closing then 2 else 1) ++ bytesOf 1 p.waits.length ++ zeroBytes 59

/-- A pool's present mask. -/
def saveMask (s : State) (x n : Nat) : List Byte :=
  match s.pool? x n with
  | none => zeroBytes 512
  | some p => (upFrom 0 512).map fun k =>
      BitVec.ofNat 8 (((upFrom 0 8).filter fun j => (partAt p p.gen (8 * k + j)).isSome).map fun j => 2 ^ j).sum

/-- The fixed part from 0x100 on. What no rule lays out is free (log 28). -/
def saveFixed (s : State) (x : Nat) : List Byte × State :=
  let (g1, s) := freeBytes s 0x700
  let (g2, s) := freeBytes s 0x6000
  let (w, s) := freeBytes s 0x40000
  let (c, s) := freeBytes s 0x40000
  (saveRegs s x ++ g1 ++ (upFrom 0 64).flatMap (saveRegionRow s x) ++ (upFrom 0 512).flatMap (savePoolRow s x) ++ g2
    ++ zeroBytes 0x10000 ++ (upFrom 0 512).flatMap (saveMask s x) ++ w ++ c ++ zeroBytes 0x20000, s)

/-- A tarn's part of a cluster section. -/
def saveTarn (s : State) (u : Nat) : List Byte × State :=
  let (r, s) := freeBytes s 0x7000
  (memBytes (s.unit u).scratch 0 65536 ++ r ++ zeroBytes 0x1000, s)

/-- One cluster section of region i. -/
def saveSection (s : State) (x i c : Nat) : List Byte × State :=
  let r := s.region (regKey x i)
  let first := c == 0
  let lowest := first && (upFrom 0 i).all fun j => (s.region (regKey x j)).die ≠ r.die
  let (ts, s) := (upFrom 0 16).foldl (fun (a : List Byte × State) t =>
    let (b, s) := saveTarn a.2 (unitKey r.die (r.cluster c) t); (a.1 ++ b, s)) ([], s)
  let (n, s) := freeBytes s 0x20000
  let (q, s) := freeBytes s 0x2000
  let (l, s) := if first then freeBytes s 0x1000 else (zeroBytes 0x1000, s)
  let (g1, s) := freeBytes s 0xD000
  let (j, s) := if lowest then freeBytes s 0x10000 else (zeroBytes 0x10000, s)
  let (g2, s) := freeBytes s 0x40000
  (ts ++ n ++ q ++ l ++ g1 ++ j ++ g2, s)

/-- The whole area, with its CHECK (R287). -/
def saveArea (s : State) (x : Nat) : List Byte × State :=
  let (fix, s) := saveFixed s x
  let (secs, s) := (upFrom 0 (s.ctx x).nreg).foldl (fun (a : List Byte × State) i =>
    let r := a.2.region (regKey x i)
    (upFrom 0 (r.width * r.height)).foldl (fun (a : List Byte × State) c =>
      let (b, s) := saveSection a.2 x i c; (a.1 ++ b, s)) a) ([], s)
  (saveHeader s x (csumBytes (saveHeader s x 0 ++ fix ++ secs)) ++ fix ++ secs, s)

/-! ### Saving (R285) -/

/-- Whether an engine has started a job of a context. -/
def jobStarted (s : State) (x : Nat) : Bool :=
  s.dies.any fun d => d.2.engines.any fun e => e.2.any fun j => j.own.ctx == x && j.started

/-- Whether every released operation of a context that can perform has done so: what waits for others, for a stream's
start or at a home stays and goes on after the resume. -/
def pendsDone (s : State) (x : Nat) : Bool :=
  s.pend.all fun p => p.own.ctx ≠ x || !(s.live p.deps).isEmpty || (effCl p.eff).isSome
    || (match p.eff with | .trap _ _ _ => false | _ => p.step ≠ 0)
    || match p.eff with | .gpatch _ _ _ | .cpy _ _ | .kload _ _ | .kdrop _ | .seal _ => true | _ => false

/-- Whether a checkpoint can complete (R285). -/
def ckptReady (s : State) (x : Nat) : Bool :=
  (s.ctx x).st == .checkpointing && !jobStarted s x && pendsDone s x
    && (taskRegions s x).all fun k => ((s.region k).kref.isNone || (s.region k).phase == .drainCkpt) && drained s k

/-- A region's work as a save keeps it. -/
def savedRegion (s : State) (k : Nat) : SavedRegion :=
  let r := s.region k
  { region := { r with phase := .run }
    units := r.units.map fun u => (r.unitIndex u, { s.unit u with plane := (s.unit u).plane.frozen, store := [] })
    disp := (upFrom 0 (r.width * r.height)).map fun c => (c, s.cluster r.die (r.cluster c)) }

/-- A region's units are released (R285). -/
def releaseRegion (s : State) (k : Nat) : State :=
  let r := s.region k
  let s := r.units.foldl (fun s u => s.modUnit u fun v => { v with plane := {}, owner := none, cur := none, consec := 0 }) s
  let s := r.clusters.foldl (fun s c => s.modCluster r.die c fun q => { q with queue := [] }) s
  s.modRegion k fun r =>
    { ctx := r.ctx, idx := r.idx, die := r.die, origin := r.origin, width := r.width, height := r.height, outOfService := r.outOfService }

/-- The lowest-numbered region of a context on a die. -/
def lowestOn (s : State) (x d : Nat) : Nat :=
  ((upFrom 0 (s.ctx x).nreg).find? fun i => (s.region (regKey x i)).die == d).getD 0

/-- The queued copy jobs of a context, die by die and engine by engine. -/
def queuedJobs (s : State) (x : Nat) : List (Nat × Job) :=
  s.dies.flatMap fun d => d.2.engines.flatMap fun e =>
    (e.2.filter fun j => j.own.ctx == x).map fun j => (lowestOn s x d.1 * 16 + e.1, j)

/-- CHECKPOINT_COMPLETE (R285-R287): the save area and the partials' backing slots are written and the regions are released. A fault of the writes waits
for its service, or stops the context. -/
def execCheckpointComplete (ctx : Nat) (s : State) : Host.Outcome State Fault Refusal :=
  if !ckptReady s ctx then .next s
  else
    let d := (s.region (regKey ctx 0)).die
    let (bs, s) := saveArea s ctx
    match writeBack s d ctx (saveBase s ctx) bs with
    | .error e => .next (backFault s (regKey ctx 0) e)
    | .ok s =>
      let ks := taskRegions s ctx
      let jobs := queuedJobs s ctx
      let s := (upFrom 0 512).foldl (fun s n => spillPartials s ctx n) s
      let v : Saved := { regions := ks.map (savedRegion s), jobs := jobs, at_ := s.clk }
      let s := { s with dies := s.dies.map fun (p : Nat × Die) =>
        (p.1, { p.2 with engines := p.2.engines.map fun (e : Nat × List Job) => (e.1, e.2.filter fun (j : Job) => j.own.ctx ≠ ctx) }) }
      let s := ks.foldl releaseRegion { s with walks := s.walks.filter fun w => w.ctx ≠ ctx }
      .next (s.modCtx ctx fun c => { c with st := .saved, saved := some v, pends := [], resume := false, preempt := false })

/-! ### Resume (R288) -/

/-- Whether a region can take a saved one: nothing runs on it, and it is in service. -/
def regionFree (s : State) (k : Nat) : Bool :=
  let r := s.region k
  r.kref.isNone && !r.outOfService && r.units.all fun u => (s.unit u).owner.isNone

/-- The region a saved one takes: the one of its own index when it is free, else the lowest free one of its shape. -/
def placeOne (s : State) (x : Nat) (taken : List Nat) (r : Region) : Option Nat :=
  let ok := fun (i : Nat) => !taken.contains i && regionFree s (regKey x i)
    && (s.region (regKey x i)).width == r.width && (s.region (regKey x i)).height == r.height
  if ok r.idx then some r.idx else (upFrom 0 (s.ctx x).nreg).find? ok

def placeAll (s : State) (x : Nat) : List Nat → List SavedRegion → Option (List Moved)
  | _, [] => some []
  | taken, v :: vs =>
    match placeOne s x taken v.region with
    | none => none
    | some i => (placeAll s x (taken ++ [i]) vs).map fun ms => { old := v.region, new := s.region (regKey x i) } :: ms

/-- Every image that a saved context's planes use, with the die they are then on. -/
def savedImages (v : Saved) : List (Nat × Nat) :=
  v.regions.flatMap fun g => ((g.region.kref.map (·.image)).toList ++ g.region.levels.map fun l => l.kref.image).map fun a => (g.region.die, a)

/-- The key of a saved job, 16 × the region whose section holds it + engine, after the moves. -/
def movedJob (ms : List Moved) (x n : Nat) : Nat := movedReg ms (regKey x (n / 16)) % 64 * 16 + n % 16

/-- Everything of a context that names its places moves with it. -/
def moveContext (s : State) (x : Nat) (ms : List Moved) (v : Saved) : State :=
  let late := s.clk - v.at_
  let s := { s with
    pend := s.pend.map fun (p : Pend) => if p.own.ctx == x then { p with who := movedAgent ms p.who, own := movedOwner ms p.own } else p
    pools := s.pools.map fun (p : Nat × Pool) =>
      if p.1 / 512 == x then
        (p.1, { movedPool ms p.2 with
          opened := p.2.opened + late
          waits := (movedPool ms p.2).waits.map fun (w : Wait) => { w with start := w.start.map (· + late), since := w.since + late } })
      else p }
  s.modCtx x fun c =>
    { c with
      st := .resuming, task := c.task.map fun t => { t with regs := t.regs.map (movedReg ms) }
      saved := some { v with regions := v.regions.map (movedSaved ms)
                             jobs := v.jobs.map fun j => (movedJob ms x j.1, { j.2 with own := movedOwner ms j.2.own }) } }

/-- Stop a context with a record of OUTCOME 5 (R286, R288). -/
def stopWith (s : State) (x code : Nat) (site : FaultRec) : State :=
  stopContext (writeRecord s x { site with code := code, outcome := 5 }) x

/-- A resuming context's images leave the caches: each is read, checked and verified again from its pages (R68, R286). -/
def dropSaved (s : State) (x : Nat) (v : Saved) : State :=
  (savedImages v).foldl (fun s i => if pinned s i.1 x i.2 then s else evictImage s i.1 x i.2) s

/-- Ask for the staging of the images that a resuming context lacks. -/
def stageSaved (s : State) (x : Nat) (v : Saved) : State :=
  (savedImages v).foldl (fun s i =>
    if (imageOf s i.1 x i.2).isSome || s.stages.any (fun g => g.who == .resume x && g.addr == i.2 && g.die == i.1) then s
    else
      let reg := ((v.regions.find? fun g => g.region.die == i.1).map fun g => regKey x g.region.idx).getD 0
      let (n, s) := s.newKey
      { s with stages := s.stages ++ [{ id := n, ctx := x, reg := reg, die := i.1, addr := i.2, who := .resume x }] }) s

/-- The registers as the area holds them go back, but for ctx.id, ctx.ctl and ctx.sel (R284, R286); a bit without a field
stays 0 (R9). -/
def restoreRegs (s : State) (x : Nat) (bs : List Byte) : State :=
  let reg := fun (n : Nat) => BitVec.ofNat 64 (natOfBytes ((bs.drop (0x100 + 8 * n)).take 8))
  let s := ((upFrom 1 254).filter (· ≠ 5)).foldl (fun s n =>
    let v := reg n &&& ctxBits n
    if v == s.ctxReg x n then s else s.setCtx x n v) s
  s.modCtx x fun c => { c with faults := wbits (reg 9) 47 32 }

/-- The pool table and present masks as the area holds them go back (R286-R288): generation, late count, and the partials
that the mask marks. -/
def restorePools (s : State) (x : Nat) (bs : List Byte) : State :=
  { s with pools := s.pools.map fun (q : Nat × Pool) =>
      if q.1 / 512 == x then
        let n := q.1 % 512
        let row := (bs.drop (0x2000 + 64 * n)).take 64
        let mask := (bs.drop (0x20000 + 512 * n)).take 512
        let has := fun (i : Nat) => (mask.getD (i / 8) 0).toNat / 2 ^ (i % 8) % 2 == 1
        let gen := q.2.gen / 65536 * 65536 + fld row 0 2
        (q.1, { q.2 with gen := gen, late := fld row 2 1, parts := q.2.parts.filter fun r => r.gen ≠ gen || has r.idx })
      else q }

/-- A saved region's work goes back to its units (R288): scratch as the area holds it, streams and firings run again. -/
def restoreRegion (s : State) (x : Nat) (bs : List Byte) (v : SavedRegion) : State :=
  let k := regKey x v.region.idx
  let r := v.region
  let s := { s with regions := tabSet s.regions k { r with phase := .run } }
  let s := v.units.foldl (fun s u =>
    let w := r.unitAt u.1
    let off := sectionOf s x r.idx + u.1 / 17 * (2 * mib) + u.1 % 17 * 98304
    let scr := if isNode w then [] else memPut [] 0 ((bs.drop off).take 65536)
    s.modUnit w fun old => { old with plane := u.2.plane.thawed, scratch := scr, bad := u.2.bad, split := u.2.split, owner := some k }) s
  let s := v.disp.foldl (fun s c => s.modCluster r.die (r.cluster c.1) fun q => { c.2 with period := q.period, budget := q.budget, pcache := [] }) s
  let s := r.clusters.foldl (fun s c => (upFrom 0 19).foldl (fun s p =>
    if (s.port r.die c p).bound then s.modPort r.die c p fun q => { q with buffer := [], bufPos := 0, bufFull := !q.buffer.isEmpty || q.bufFull } else s) s) s
  let s := match r.kref.bind fun kr => imageOf s r.die x kr.image with
    | some img => makeResident s k img img.addr
    | none => s
  r.units.foldl (fun s u => matchUnit (drainOvf s u) u) s

/-- RESUME_RESTORE (R288, R290): a saved context whose resume is asked takes free regions; once its images are staged,
the area is checked and everything is restored. -/
def execResumeRestore (ctx : Nat) (s : State) : Host.Outcome State Fault Refusal :=
  let c := s.ctx ctx
  match c.st, c.saved with
  | .saved, some v =>
    if !c.resume then .next s
    else
      match placeAll s ctx [] v.regions with
      | none => .next s
      | some ms =>
        let s := ms.foldl (fun s m => m.new.units.foldl (fun s u =>
          s.modUnit u fun w => { w with owner := some (regKey ctx m.new.idx) }) s) s
        let s := moveContext s ctx ms v
        let v := ((s.ctx ctx).saved).getD {}
        .next (stageSaved (dropSaved s ctx v) ctx v)
  | .resuming, some v =>
    if !((savedImages v).all fun i => (imageOf s i.1 ctx i.2).isSome) then .next (stageSaved s ctx v)
    else
      let d := (s.region (regKey ctx 0)).die
      match readV s d ctx false (saveBase s ctx) (saveSize s ctx) with
      | (.fault code va l, s) => .next (backFault s (regKey ctx 0) (code, va, l))
      | (.ok bs bad, s) =>
        let sum := csumBytes (bs.take 4 ++ zeroBytes 4 ++ bs.drop 8)
        if bad || sum ≠ natOfBytes ((bs.drop 4).take 4) then
          .next (stopWith s ctx fPERM { die := d, addr := BitVec.ofNat 64 (saveBase s ctx) })
        else
          let s := restorePools (restoreRegs s ctx bs) ctx bs
          let s := v.regions.foldl (fun s g => restoreRegion s ctx bs g) s
          let s := v.jobs.foldl (fun s j => modJobs s (s.region (regKey ctx (j.1 / 16))).die (j.1 % 16) fun l => l ++ [j.2]) s
          .next (s.modCtx ctx fun c => { c with st := .running, saved := none, resume := false })
  | _, _ => .next s

/-! ### trap, yield and halt (R294, R295) -/

/-- trap: staged. -/
def execTrap (h : Hdr) (f : FormS) (s : State) : Host.Outcome State Fault Refusal :=
  runSide s h fun i =>
    complete s i h (.trap (f.imm.toNat % 2 ^ 15) (f.imm.toNat / 2 ^ 15 == 1) (if h.ar == 1 then i.l.pay else 0))

/-- yield: staged. -/
def execYield (h : Hdr) (_f : FormS) (s : State) : Host.Outcome State Fault Refusal :=
  runSide s h fun i => complete s i h .yield

/-- halt: staged. -/
def execHalt (h : Hdr) (_f : FormS) (s : State) : Host.Outcome State Fault Refusal :=
  runSide s h fun i => complete s i h .halt

/-- Whether a trap may act: a stopping one waits for the block's other side effects, of which another such trap performed
when it wrote its record (R294). -/
def trapReady (s : State) (p : Pend) (stop : Bool) : Bool :=
  let told := fun (q : Pend) => match q.eff with | .trap _ _ _ => q.step ≠ 0 | _ => false
  !stop || s.pend.all fun q => q.id == p.id || q.who ≠ p.who || q.fr ≠ p.fr || q.block ≠ p.block || told q

/-- trap performs (R294): its record is written, which meets its obligation; one with STOP then waits, as step 1, until
the block's other side effects have performed, and stops the region. -/
def performTrap (s : State) (p : Pend) (code : Nat) (stop : Bool) (detail : Word) : State :=
  let site := { pendSite p with addr := BitVec.ofNat 64 code, detail := detail, code := 0x70, outcome := if stop then 2 else 0 }
  if !stop then dropPend (writeRecord s p.own.ctx site) p.id
  else if p.step == 0 then
    let s := (writeRecord s p.own.ctx site).meet p.id
    { s with pend := listMod (fun q => q.id == p.id) (fun q => { q with step := 1 }) s.pend }
  else if !trapReady s p stop then s
  else
    let s := dropPend s p.id
    if p.own.ctx == fwCtx then stopCore s (agentUnit p.who) else stopContext s p.own.ctx

/-- yield performs (R295): it decides, and its obligation is met. -/
def performYield (s : State) (p : Pend) : State :=
  let s := dropPend s p.id
  if nodeWaits s p.own.ctx then startPreempt s p.own.ctx else s

/-- halt performs (R295): the core stops until an interrupt wakes it, which meets the obligation. -/
def performHalt (s : State) (p : Pend) : State :=
  let s := { s with pend := listMod (fun q => q.id == p.id) (fun q => { q with step := 1 }) s.pend }
  s.modUnit (agentUnit p.who) fun v => { v with halted := true }

end Sys2Proof.Machine
end

