-- ==== Sys2Proof/Machine/Crypto.lean ====
section
/-! DEFINITION. SHA-512 and Ed25519 verification, the two algorithms R407 and R411 name (log 30). -/

namespace Sys2Proof.Machine

/-! ### SHA-512 -/

/-- Whether a number has no divisor from d on, below itself, `fuel` candidates. -/
def primeFrom : Nat → Nat → Nat → Bool
  | 0, _, _ => true
  | k + 1, d, n => if d * d > n then true else if n % d == 0 then false else primeFrom k (d + 1) n

/-- The primes below 410, of which there are 80. -/
def primes80 : List Nat := (upFrom 2 408).filter fun n => primeFrom 20 2 n

/-- The largest r with r^k at most n, bit by bit from bit `fuel - 1` down. -/
def rootLoop (k : Nat) : Nat → Nat → Nat → Nat
  | 0, _, r => r
  | b + 1, n, r => rootLoop k b n (if (r + 2 ^ b) ^ k ≤ n then r + 2 ^ b else r)

/-- The first 64 bits of the fraction of a k-th root. -/
def rootFrac (k p : Nat) : Word := BitVec.ofNat 64 (rootLoop k 70 (p * 2 ^ (64 * k)) 0)

/-- The 80 round constants and the 8 words of the initial hash value. -/
def shaK : List Word := primes80.map (rootFrac 3)
def shaH0 : List Word := (primes80.take 8).map (rootFrac 2)

def rotr (w : Word) (n : Nat) : Word := w.rotateRight n
def shaBig0 (x : Word) : Word := rotr x 28 ^^^ rotr x 34 ^^^ rotr x 39
def shaBig1 (x : Word) : Word := rotr x 14 ^^^ rotr x 18 ^^^ rotr x 41
def shaSmall0 (x : Word) : Word := rotr x 1 ^^^ rotr x 8 ^^^ (x >>> 7)
def shaSmall1 (x : Word) : Word := rotr x 19 ^^^ rotr x 61 ^^^ (x >>> 6)

/-- The message schedule, latest word first, extended by `fuel` words. -/
def shaSchedule : Nat → List Word → List Word
  | 0, w => w
  | n + 1, w => shaSchedule n ((shaSmall1 (w.getD 1 0) + w.getD 6 0 + shaSmall0 (w.getD 14 0) + w.getD 15 0) :: w)

/-- The eight working words. -/
structure Sha where
  a : Word
  b : Word
  c : Word
  d : Word
  e : Word
  f : Word
  g : Word
  h : Word
  deriving DecidableEq, Repr, Inhabited

/-- One round under a constant and a schedule word. -/
def shaRound (s : Sha) (kw : Word × Word) : Sha :=
  let t1 := s.h + shaBig1 s.e + ((s.e &&& s.f) ^^^ (~~~s.e &&& s.g)) + kw.1 + kw.2
  let t2 := shaBig0 s.a + ((s.a &&& s.b) ^^^ (s.a &&& s.c) ^^^ (s.b &&& s.c))
  { a := t1 + t2, b := s.a, c := s.b, d := s.c, e := s.d + t1, f := s.e, g := s.f, h := s.g }

/-- A number of bytes, the most significant first. -/
def natOfBE (bs : List Byte) : Nat := natOfBytes bs.reverse

/-- The 16 big-endian words of a 128-byte block. -/
def shaWords (b : List Byte) : List Word := (upFrom 0 16).map fun i => BitVec.ofNat 64 (natOfBE ((b.drop (8 * i)).take 8))

/-- The compression of one block. -/
def shaBlock (h : Sha) (b : List Byte) : Sha :=
  let w := (shaSchedule 64 (shaWords b).reverse).reverse
  let r := (shaK.zip w).foldl shaRound h
  { a := h.a + r.a, b := h.b + r.b, c := h.c + r.c, d := h.d + r.d, e := h.e + r.e, f := h.f + r.f, g := h.g + r.g, h := h.h + r.h }

/-- The blocks of a padded message. -/
def shaBlocks : Nat → List Byte → List (List Byte)
  | 0, _ => []
  | n + 1, b => b.take 128 :: shaBlocks n (b.drop 128)

/-- SHA-512 of some bytes (R411). -/
def sha512 (m : List Byte) : List Byte :=
  let n := m.length
  let pad := (239 - n % 128) % 128
  let p := m ++ [0x80] ++ List.replicate pad 0 ++ (bytesOf 16 (8 * n)).reverse
  let iv : Sha := { a := shaH0.getD 0 0, b := shaH0.getD 1 0, c := shaH0.getD 2 0, d := shaH0.getD 3 0
                    e := shaH0.getD 4 0, f := shaH0.getD 5 0, g := shaH0.getD 6 0, h := shaH0.getD 7 0 }
  let r := (shaBlocks (p.length / 128) p).foldl shaBlock iv
  [r.a, r.b, r.c, r.d, r.e, r.f, r.g, r.h].flatMap fun w => (bytesOf 8 w.toNat).reverse

/-! ### Ed25519 -/

def edP : Nat := 2 ^ 255 - 19
/-- The order of the base point. -/
def edL : Nat := 2 ^ 252 + 27742317777372353535851937790883648493

/-- b^e modulo m, from bit `fuel - 1` of e down. -/
def powMod : Nat → Nat → Nat → Nat → Nat → Nat
  | 0, _, _, _, r => r
  | k + 1, b, e, m, r =>
    let r := r * r % m
    powMod k b e m (if e / 2 ^ k % 2 == 1 then r * b % m else r)

def edPow (b e : Nat) : Nat := powMod 255 (b % edP) e edP 1
def edInv (a : Nat) : Nat := edPow a (edP - 2)
def edSub (a b : Nat) : Nat := (a + edP - b % edP) % edP
/-- The curve's d = -121665 / 121666. -/
def edD : Nat := edSub 0 (121665 * edInv 121666)
/-- A square root of -1. -/
def edI : Nat := edPow 2 ((edP - 1) / 4)

/-- A point in extended coordinates. -/
structure EdPt where
  x : Nat
  y : Nat
  z : Nat
  t : Nat
  deriving DecidableEq, Repr, Inhabited

def edZero : EdPt := { x := 0, y := 1, z := 1, t := 0 }

/-- The sum of two points; complete on this curve. -/
def edAdd (p q : EdPt) : EdPt :=
  let a := edSub p.y p.x * edSub q.y q.x % edP
  let b := (p.y + p.x) * (q.y + q.x) % edP
  let c := 2 * p.t * q.t * edD % edP
  let d := 2 * p.z * q.z % edP
  let e := edSub b a
  let f := edSub d c
  let g := (d + c) % edP
  let h := (b + a) % edP
  { x := e * f % edP, y := g * h % edP, z := f * g % edP, t := e * h % edP }

/-- k times a point, from bit `fuel - 1` of k down. -/
def edMul : Nat → Nat → EdPt → EdPt → EdPt
  | 0, _, _, r => r
  | n + 1, k, p, r =>
    let r := edAdd r r
    edMul n k p (if k / 2 ^ n % 2 == 1 then edAdd r p else r)

/-- Whether two points are one. -/
def edSame (p q : EdPt) : Bool := p.x * q.z % edP == q.x * p.z % edP && p.y * q.z % edP == q.y * p.z % edP

/-- The x of a y and a sign; none when there is none. -/
def edX (y sign : Nat) : Option Nat :=
  let u := edSub (y * y) 1
  let v := (edD * (y * y % edP) + 1) % edP
  let w := u * edInv v % edP
  let x := edPow w ((edP + 3) / 8)
  let x? := if x * x % edP == w then some x else if x * x % edP == edSub 0 w then some (x * edI % edP) else none
  match x? with
  | none => none
  | some x => if x == 0 && sign == 1 then none else some (if x % 2 == sign then x else edSub 0 x)

/-- The point of 32 bytes. -/
def edDecode (b : List Byte) : Option EdPt :=
  let n := natOfBytes (b.take 32)
  let y := n % 2 ^ 255
  if y ≥ edP then none else (edX y (n / 2 ^ 255 % 2)).map fun x => { x := x, y := y, z := 1, t := x * y % edP }

/-- The base point: y = 4 / 5, x even. -/
def edBase : EdPt :=
  let y := 4 * edInv 5 % edP
  let x := (edX y 0).getD 0
  { x := x, y := y, z := 1, t := x * y % edP }

/-- Whether a 64-byte signature verifies over a message under a 32-byte key (R411): [S]B = R + [k]A. -/
def edVerify (msg sig key : List Byte) : Bool :=
  let r := sig.take 32
  let n := natOfBytes ((sig.drop 32).take 32)
  match edDecode r, edDecode key with
  | some rp, some ap =>
    let k := natOfBytes (sha512 (r ++ key ++ msg)) % edL
    n < edL && edSame (edMul 253 n edBase edZero) (edAdd rp (edMul 253 k ap edZero))
  | _, _ => false

end Sys2Proof.Machine
end

