-- ==== Sys2Proof/Machine/Group.lean ====
section
/-! DEFINITION. Groups and their tasks (R308-R325): staging, launches, ready pools, dispatch, completion, patches, and
launch, gpatch and done, opcodes 0xB5-0xB7. -/

namespace Sys2Proof.Machine

/-! ### Descriptors (R146, R301, R305, R323) -/

/-- A launch's descriptor: bytes 0x18-0x3F of a LAUNCH_GROUP packet. -/
structure LDesc where
  group : Nat := 0
  first : Nat := 0
  count : Nat := 0
  seed  : Word := 0
  split : Word := 0
  mode  : Nat := 0
  rest  : Bool := true
  deriving DecidableEq, Repr, Inhabited

def descOf (b : List Byte) : LDesc :=
  { group := fld b 0 8, first := fld b 8 4, count := fld b 12 4, seed := BitVec.ofNat 64 (fld b 16 8)
    split := BitVec.ofNat 64 (fld b 24 8), mode := fld b 32 1, rest := zeros b 33 7 && fld b 32 1 < 2 }

/-- The fields of a SPLIT that are used; 0 stands for the reset values (R301). -/
def splitFields (v : Word) : Word :=
  let f := wbits v 31 8 * 256 + wbits v 3 0
  if f == 0 then 0x04021002 else BitVec.ofNat 64 f

/-- SHARED of a split (R146), or none when it would be below zero. -/
def splitShared (f : Word) : Option Nat :=
  let scratch := 64 - 8 * wbits f 3 0
  let used := wbits f 15 8 + wbits f 23 16 + wbits f 31 24
  if used ≤ scratch then some (scratch - used) else none

/-- Whether a SPLIT is accepted (R146). -/
def splitOk (v : Word) : Bool :=
  let f := splitFields v
  wbits f 3 0 ≤ 8 && wbits f 23 16 ≤ 4 && (splitShared f).isSome

/-- The value of tarn.split under a launch. -/
def splitReg (v : Word) : Word := let f := splitFields v; wput f 39 32 ((splitShared f).getD 0)

/-- The fields of a descriptor meet R305 and R146. -/
def descOk (s : State) (d : LDesc) : Bool := d.rest && splitOk d.split && (s.groupHost || (d.first == 0 && d.count == 0))

/-! ### Reading a group's image (R308, R309) -/

/-- How a read of the group engine ends: bytes, a wait for its page, or a fault taken that fails the launch. -/
inductive GRead (α : Type) where
  | ok (v : α) (s : State)
  | wait (s : State)
  | fail (s : State)

/-- A read in the launching context, with its faults (R309). -/
def groupRead (s : State) (d x va n : Nat) (u : Nat) (site : FaultRec) : GRead (List Byte) :=
  match readV s d x false va n with
  | (.ok bs bad, s) => if bad then .fail (takeFault s x u fPOISON { site with addr := BitVec.ofNat 64 va }) else .ok bs s
  | (.fault c a l, s) =>
    if c == fXLATE then
      if isPending s x a then .wait s
      else
        let s' := takeFault s x u c { site with addr := xAddr a kLoad l }
        if s.pageHost then .wait s' else .fail s'
    else .fail (takeFault s x u (if c == fPOISON then c else fPERM) { site with addr := xAddr a kLoad l })

/-- The 4-byte numbers of a list. -/
def nums4 (b : List Byte) (n : Nat) : List Nat := (upFrom 0 n).map fun k => fld b (4 * k) 4

/-- A node record, with its successors still to be read: the record, SUCC and NSUCC. -/
def nodeOfBytes (b : List Byte) : NodeRec × Nat × Nat :=
  ({ kind := fld b 0 1, prio := fld b 1 1 % 4, idem := fld b 2 1 % 2 == 1, pred := fld b 4 2, kernel := fld b 8 8
     params := BitVec.ofNat 64 (fld b 16 8), tiles := (upFrom 0 4).map fun k => BitVec.ofNat 64 (fld b (32 + 8 * k) 8) },
   fld b 24 8, fld b 6 2)

/-- The zero fields and KIND of a record. -/
def nodeBytesOk (b : List Byte) : Bool := fld b 0 1 ≤ 3 && fld b 1 1 < 4 && fld b 2 1 < 2 && fld b 3 1 == 0

/-- The node records of a group, with their successor lists. -/
def readNodes (s : State) (d x u : Nat) (site : FaultRec) (base : Nat) : Nat → Nat → GRead (List NodeRec)
  | 0, _ => .ok [] s
  | n + 1, k =>
    match groupRead s d x (base + 64 * k) 64 u site with
    | .wait s => .wait s
    | .fail s => .fail s
    | .ok b s =>
      let (r, succ, m) := nodeOfBytes b
      if !nodeBytesOk b then .fail (takeFault s x u fPERM { site with addr := BitVec.ofNat 64 (base + 64 * k) })
      else
        match if m == 0 then .ok [] s else groupRead s d x succ (4 * m) u site with
        | .wait s => .wait s
        | .fail s => .fail s
        | .ok sb s =>
          match readNodes s d x u site base n (k + 1) with
          | .ok rs s => .ok ({ r with succ := nums4 sb m } :: rs) s
          | e => e

/-- A group's image: header, records and lists, and the check of PRED (R309). -/
def readGroup (s : State) (d x addr u : Nat) (site : FaultRec) : GRead (List NodeRec) :=
  match groupRead s d x (addr - 64) 64 u site with
  | .wait s => .wait s
  | .fail s => .fail s
  | .ok b s =>
    let n := fld b 4 4
    let bad := fun (s : State) => GRead.fail (takeFault s x u fPERM { site with addr := BitVec.ofNat 64 addr })
    if fld b 0 2 ≠ 0x47 || !zeros b 2 2 || n == 0 || n > 65536 || !zeros b 16 48 then bad s
    else
      match readNodes s d x u site addr n 0 with
      | .ok rs s =>
        if rs.zipIdx.all fun r => r.1.pred == (rs.filter fun q => q.succ.contains r.2).length then .ok rs s else bad s
      | e => e

/-! ### Ready pools (R313, R314) -/

/-- Whether a change of group scheduling waits for its switch point (R18). -/
def groupSwitching (s : State) : Bool := wbit (s.devReg 0x305) 0 ≠ s.groupHost

/-- The die of a context's region 0, where its launches' nodes wait (R313). -/
def homeOf (s : State) (x : Nat) : Nat := (s.region (regKey x 0)).die

def modLaunch (s : State) (id : Nat) (f : Launch → Launch) : State :=
  { s with launches := listMod (fun l => l.id == id) f s.launches }
def launch? (s : State) (id : Nat) : Option Launch := s.launches.find? fun l => l.id == id
def modNodeSt (s : State) (id k : Nat) (f : LNode → LNode) : State :=
  modLaunch s id fun l => { l with nodes := tabMod l.nodes k f }

/-- A node enters its pool, or the tail of the memory-backed list when the pool is full (R313). While the scheduler is
about to switch, a node made ready waits for the switch (R18). -/
def enterNode (s : State) (id k : Nat) : State :=
  match launch? s id with
  | none => s
  | some l =>
    let n := tabGet l.nodes k
    let s := modNodeSt s id k fun n => { n with st := .ready }
    if groupSwitching s then s
    else s.modDie l.home fun d =>
      let room := (d.ready.filter fun e => e.inPool).length < 4096
      { d with ready := d.ready ++ [{ launch := id, node := k, kind := n.nrec.kind, prio := n.nrec.prio, since := s.clk, inPool := room }] }

/-- List heads move into the pool as entries free, behind those in it (R313): as many as it has room for, in the order in
which they went to the lists. -/
def refillPool (s : State) (d : Nat) : State :=
  let l := (s.die d).ready
  let heads := (l.filter fun e => !e.inPool).take (4096 - (l.filter fun e => e.inPool).length)
  if heads.isEmpty then s
  else
    let moved := fun (e : Ready) => heads.any fun f => f.launch == e.launch && f.node == e.node
    s.modDie d fun v => { v with ready := (v.ready.filter fun e => !moved e) ++ heads.map fun e => { e with inPool := true } }

/-- A node leaves the pool. -/
def dropReady (s : State) (d id k : Nat) : State :=
  refillPool (s.modDie d fun v => { v with ready := v.ready.filter fun e => !(e.launch == id && e.node == k) }) d

/-- Whether an entry has waited its 1 ms below priority 3 (R314). -/
def agingDue (clk : Nat) (e : Ready) : Bool := e.prio < 3 && clk ≥ e.since + 2000000

/-- Whether the entry at a place is the first that is due: the longest waiting, in FIFO order among equals (R314). -/
def agesFirst (l : List Ready) (clk k : Nat) (e : Ready) : Bool :=
  l.zipIdx.all fun f => !agingDue clk f.1 || e.since < f.1.since || (e.since == f.1.since && k ≤ f.2)

/-- NODE_AGING (R314): the entry at a place of a die's pool or list that has waited 1 ms moves to the next priority, those
due in the order of their waits. -/
def execNodeAging (die k : Nat) (s : State) : Host.Outcome State Fault Refusal :=
  match (s.die die).ready[k]? with
  | none => .next s
  | some e =>
    if e.prio ≥ 3 || s.clk < e.since + 2000000 || !agesFirst (s.die die).ready s.clk k e then .next s
    else
      let e' := { e with prio := e.prio + 1, since := e.since + 2000000 }
      let same := fun (f : Ready) => f.launch == e.launch && f.node == e.node
      .next (s.modDie die fun v =>
        { v with ready := if e.inPool then (v.ready.filter fun f => !same f) ++ [e'] else listMod same (fun _ => e') v.ready })

/-! ### Launches (R311, R312, R318) -/

/-- Bytes of group area that a staging and a launch of n nodes take (R312). -/
def stageBytes (n : Nat) : Nat := 64 + 16 * n
def launchBytes (n : Nat) : Nat := 64 + 12 * n

/-- Bytes of group area that a context's staged groups and unfinished launches take (R312, log 38). -/
def areaBytes (s : State) (x : Nat) : Nat :=
  let n := fun (g : Nat) => ((group? s x g).map (·.nnode)).getD 0
  ((s.groups.filter fun g => g.ctx == x).map fun g => stageBytes g.nnode).sum
    + ((s.launches.filter fun l => l.ctx == x && !l.ended).map fun l => launchBytes (n l.group)).sum

/-- USED of ctx.grplim, in 64-byte units. -/
def countArea (s : State) (x : Nat) : State := setUsed s x 0x1B ((areaBytes s x + 63) / 64)

/-- Whether a context's group area holds some bytes more. -/
def areaFits (s : State) (x n : Nat) : Bool := areaBytes s x + n ≤ 64 * wbits (s.ctxReg x 0x1B) 31 0

/-- Stage a group (R312): table 0 from the records' PARAMS. -/
def stageGroup (s : State) (x addr born : Nat) (rs : List NodeRec) : Option State :=
  match group? s x addr with
  | some _ => some s
  | none =>
    if areaFits s x (stageBytes rs.length) then
      some (countArea { s with groups := s.groups ++
        [{ ctx := x, born := born, addr := addr, nnode := rs.length, tab0 := rs.zipIdx.map fun r => (r.2, r.1.params) }] } x)
    else none

/-- Where a launch comes from. -/
structure Origin where
  queue : Option Nat := none
  pkt   : Option Nat := none
  born  : Nat := 0
  unit  : Nat := 0
  site  : FaultRec := {}
  deriving DecidableEq, Repr, Inhabited

/-- How a launch ends: launched under an identity, a wait for a page, or failed. -/
inductive Launched where
  | ok (id : Nat) (s : State)
  | wait (s : State)
  | fail (s : State)
  deriving Repr

/-- A launch fails with PERM (R309, R312). -/
def launchPerm (s : State) (x : Nat) (o : Origin) (addr : Nat) : State :=
  takeFault s x o.unit fPERM { o.site with addr := BitVec.ofNat 64 addr }

/-- Launch a group (R309, R312, R313, R305): read, staged when new, its nodes entered. -/
def launchNow (s : State) (x : Nat) (d : LDesc) (o : Origin) : Launched :=
  let home := homeOf s x
  match readGroup s home x d.group o.unit o.site with
  | .wait s => .wait s
  | .fail s => .fail s
  | .ok rs s =>
    if s.groupHost && d.first + d.count > rs.length then .fail (launchPerm s x o d.group)
    else
      match stageGroup s x d.group o.born rs with
      | none => .fail (launchPerm s x o d.group)
      | some s =>
        if !areaFits s x (launchBytes rs.length) then .fail (launchPerm s x o d.group)
        else
          let (id, s) := s.newKey
          let num := (s.ctx x).launchNo
          let mine := rs.zipIdx.filter fun r => !s.groupHost || (d.first ≤ r.2 && r.2 < d.first + d.count)
          let l : Launch :=
            { id := id, num := num, ctx := x, group := d.group, seed := d.seed, split := splitReg d.split, det := d.mode % 2 == 1
              queue := o.queue, pkt := o.pkt, table := ((group? s x d.group).map (·.newest)).getD 0, hostFed := s.groupHost
              home := home, nodes := mine.map fun r => (r.2, { nrec := r.1, left := r.1.pred }), born := o.born }
          let s := s.modCtx x fun c => { c with launchNo := (num + 1) % 2 ^ 32 }
          let s := countArea { s with launches := s.launches ++ [l] } x
          let s := mine.foldl (fun s r => if s.groupHost || r.1.pred == 0 then enterNode s id r.2 else s) s
          .ok id s

/-- Nodes ready since before a switch enter once it has happened (R18). -/
def enterWaiting (s : State) : State :=
  s.launches.foldl (fun s l => l.nodes.foldl (fun s n =>
    if n.2.st == .ready && !n.2.noPlace && !((s.die l.home).ready.any fun e => e.launch == l.id && e.node == n.1)
      && !((s.die l.home).journal.any fun j => j.iv == 0 && j.launch == l.id && j.node == n.1) then enterNode s l.id n.1 else s) s) s

/-- A launch whose last node has completed (R312, R346): its area returns and it asks for a close. A launch that starts
no node completes at once. -/
def settleLaunch (s : State) (id : Nat) : State :=
  match launch? s id with
  | none => s
  | some l =>
    if l.ended || !(l.nodes.all fun n => n.2.st == .complete) then s
    else
      let s := countArea (modLaunch s id fun l => { l with ended := true, pinned := false }) l.ctx
      if l.ivs.any (· ≥ s.iv) then requestClose s .launch else s

/-- The launch's table is unpinned once its last node has been dispatched (R318). -/
def unpinLaunch (s : State) (id : Nat) : State :=
  modLaunch s id fun l => { l with pinned := l.nodes.any fun n => n.2.st == .waiting || n.2.st == .ready }

/-! ### Patches (R318, R324) -/

/-- A patch of an entry written to table t of a group, which becomes newest. -/
def Group.patch (q : Group) (t node : Nat) (v : Word) : Group := { q.setTab t (tabSet (q.tab q.newest) node v) with newest := t }

/-- Apply a patch: to the newest table, or to the other, which then becomes newest. `iv` is the interval it is undone with,
0 for a packet's (R311, log 110). -/
def applyPatch (s : State) (x iv g node : Nat) (v : Word) : State :=
  match group? s x g with
  | none => s
  | some q =>
    let t := if tabPinned s x g q.newest then 1 - q.newest else q.newest
    let up := fun (q : Group) => q.patch t node v
    laterSnaps (modGroup s x g up) x iv fun n => { n with groups := listMod (fun h => h.addr == g) up n.groups }

/-- PATCH_APPLY (R318): a PATCH packet's patch that waits. -/
def execPatchApply (k : Nat) (s : State) : Host.Outcome State Fault Refusal :=
  match s.patches.find? fun p => p.id == k with
  | none => .next s
  | some p =>
    if !patchReady s p.ctx p.group k then .next s
    else
      let s := applyPatch s p.ctx 0 p.group p.node p.param
      let s := { s with patches := s.patches.filter fun q => q.id ≠ k }
      match p.queue with
      | none => .next s
      | some (q, i) => .next (s.modQueue q fun v => { v with pkts := v.pkts.map fun (w : Pkt) => if w.idx == i then { w with met := true } else w })

/-! ### Placement (R316) -/

/-- WIDTH and HEIGHT of a kernel image, as the engine reads them for placement. -/
def kernelShape (s : State) (d x addr : Nat) : Nat × Nat :=
  match (readV s d x false (addr + 4) 2).1 with
  | .ok b _ => (fld b 0 1, fld b 1 1)
  | .fault _ _ _ => (1, 1)

/-- The regions of a context that fit a kernel, in table order. -/
def fitting (s : State) (x w h : Nat) : List Nat := (ctxRegions s x).filter fun k => (s.region k).width ≥ w && (s.region k).height ≥ h

/-- Whether a region lies on a die whose die.refx2 rose in the last 1,024 cycles. -/
def hotRegion (s : State) (k : Nat) : Bool :=
  match (s.die (s.region k).die).hotAt with
  | none => false
  | some t => s.clk < t + 1024

/-- Candidate k of a task under DET = 1. -/
def candidate (l : Launch) (node : Nat) (cs : List Nat) (k : Nat) : Nat :=
  cs.getD ((genG l.seed (BitVec.ofNat 64 (node + k * 2 ^ 40))).toNat % max cs.length 1) 0

/-- The first of candidates 0-3 that is not hot, or the first. -/
def detPlace (s : State) (l : Launch) (node : Nat) (cs : List Nat) : Nat :=
  ((upFrom 0 4).find? fun k => !hotRegion s (candidate l node cs k)).getD 0

/-- Whether a virtual address lies on a die, by the page tables as they stand. -/
def vaOnDie (s : State) (x va d : Nat) : Bool :=
  match walkFrom s 4 0 (rootOf s x).1 va with
  | .leaf e lvl _ => homeDie (leafPA e lvl va) == d
  | .fault _ _ => false

/-- Bytes of a node's tile ranges on a die, 64 KiB block by block. -/
def tileBytes (s : State) (x : Nat) (n : NodeRec) (d : Nat) : Nat :=
  (n.tiles.map fun t =>
    let n := wbits t 63 56
    let va := wbits t 55 0
    let skew := va % 65536
    ((upFrom 0 (n + 1)).map fun i =>
      let part := if i == 0 then 65536 - skew else if i == n then skew else 65536
      let at_ := if i == 0 then va else va - skew + 65536 * i
      if n ≠ 0 && part ≠ 0 && vaOnDie s x at_ d then part else 0).sum).sum

/-- The regions a task takes: its region, and a mirror in dual mode; none while one it needs is busy. -/
inductive Place where
  | none
  | wait
  | at_ (k : Nat) (mirror : Option Nat)
  deriving DecidableEq, Repr, Inhabited

def sameShape (s : State) (a b : Nat) : Bool :=
  a ≠ b && (s.region a).width == (s.region b).width && (s.region a).height == (s.region b).height

/-- The mirror of a primary (R355): the next candidate of its shape, or any free region of it. -/
def mirrorOf (s : State) (l : Launch) (node : Nat) (cs : List Nat) (from_ k : Nat) : Option Nat :=
  if l.det then ((upFrom (from_ + 1) 3).map (candidate l node cs)).find? fun m => sameShape s k m && regionFree s m
  else cs.find? fun m => sameShape s k m && regionFree s m

def placeTask (s : State) (l : Launch) (node : Nat) (n : NodeRec) : Place :=
  let (w, h) := kernelShape s l.home l.ctx n.kernel
  let cs := fitting s l.ctx w h
  if cs.isEmpty then .none
  else
    let dual := wbit (s.ctxReg l.ctx 0x22) 0
    let pick := if l.det then (let j := detPlace s l node cs; some (j, candidate l node cs j))
      else
        let free := cs.filter (regionFree s)
        let cool := if (free.filter fun k => !hotRegion s k).isEmpty then free else free.filter fun k => !hotRegion s k
        let best := cool.foldl (fun (m : Option Nat) k =>
          match m with
          | none => some k
          | some b => if tileBytes s l.ctx n (s.region k).die > tileBytes s l.ctx n (s.region b).die then some k else some b) none
        best.map fun k => (0, k)
    match pick with
    | none => if cs.all fun k => (s.region k).outOfService then .at_ (cs.getD 0 0) none else .wait
    | some (j, k) =>
      if (s.region k).outOfService then .at_ k none
      else if !regionFree s k then .wait
      else if dual then (match mirrorOf s l node cs j k with | some m => .at_ k (some m) | none => .wait)
      else .at_ k none

/-! ### Dispatch (R315, R146, R290) -/

/-- The pools of a context. -/
def ctxPools (s : State) (x : Nat) : Tab Pool := s.pools.filter fun p => p.1 / 512 == x

/-- Keep what a context's state was before the work of an interval (R143, R187, R236, R311). Its pools are kept again at the
interval's first F task (`ran`): what earlier tasks did to them in between stays. -/
def takeSnap (s : State) (x iv : Nat) (ran : Bool) : State :=
  let mine := fun (n : Snap) => n.ctx == x && n.iv == iv
  if s.snaps.any mine then
    { s with snaps := s.snaps.map fun n => if mine n && ran && !n.ran then { n with pools := ctxPools s x, ran := true } else n }
  else
    let c := s.ctx x
    { s with snaps := s.snaps ++ [{ iv := iv, ctx := x, regs := c.regs, tl := c.tl, rel := c.rel, pools := ctxPools s x
                                    groups := s.groups.filter fun g => g.ctx == x, launchNo := c.launchNo, ran := ran }] }

/-- The word of ctx.task for a node (R320). -/
def taskWord (num prio kind node : Nat) : Word := BitVec.ofNat 64 (num % 2 ^ 32 * 2 ^ 32 + prio % 4 * 2 ^ 18 + kind % 4 * 2 ^ 16 + node % 65536)

/-- A region is made ready for a task (R117, R146, R226): its units taken, L1 invalidated, tarn.split written, scratch and
lists cleared, the pattern caches empty. -/
def prepareRegion (s : State) (k : Nat) (split : Word) (mirror : Option Nat) (isMirror : Bool) : State :=
  let r := s.region k
  let s := r.units.foldl (fun s u => s.modUnit u fun v =>
    { v with owner := some k, scratch := [], bad := [], l1bad := [], cur := none, consec := 0, split := if isNode u then v.split else split
             plane := { arrival := v.plane.arrival.filter fun f => f.ctx == r.ctx } }) s
  let s := r.clusters.foldl (fun s c => s.modCluster r.die c fun q => { q with queue := [], pcache := [] }) s
  s.modRegion k fun r =>
    { ctx := r.ctx, idx := r.idx, die := r.die, origin := r.origin, width := r.width, height := r.height
      mirror := mirror, isMirror := isMirror, activity := s.clk, floor := s.mpos }

/-- The task's context takes it (R290, R320): the registers set at dispatch, and every counter cleared that a dispatch
clears (R117, R234, R239, R272). -/
def startTask (s : State) (t : Task) (l : Launch) : State :=
  let x := t.ctx
  let s := (upFrom 0 16).foldl (fun s n => if s.ctxReg x (0x60 + n) == 0 then s else s.setCtx x (0x60 + n) 0) s
  let s := ((((s.setCtx x 1 (BitVec.ofNat 64 t.iv)).setCtx x 2 l.seed).setCtx x 0x20 t.param).setCtx x 0x21
    (taskWord l.num t.prio 0 t.node))
  let s := (s.setCtx x 0x18 0).setCtx x 0x19 0
  let s := s.modCtx x fun c => { c with st := .running, task := some t, tl := [], rel := [], faults := 0, preempt := false, resume := false }
  (ctxRegions s x).foldl (fun s k => s.modRegion k fun r => { r with stopped := false }) s

/-- The journal's entry for a dispatch (R352): a re-dispatch keeps its place. -/
def journalPut (s : State) (d : Nat) (j : Journal) : State :=
  s.modDie d fun v =>
    let same := fun (k : Journal) => k.iv == 0 && k.launch == j.launch && k.node == j.node
    { v with journal := if v.journal.any same then listMod same (fun _ => j) v.journal else v.journal ++ [j] }

/-- A node is dispatched: its state, its launch's intervals, the journal and the pool. -/
def markDispatched (s : State) (l : Launch) (k prio iv : Nat) (regs : List Nat) (eng : Nat) : State :=
  let s := journalPut s l.home { ctx := l.ctx, launch := l.id, node := k, regs := regs, engine := eng, prio := prio, iv := iv }
  let s := modNodeSt s l.id k fun n => { n with st := .running }
  let s := modLaunch s l.id fun l => { l with ivs := setAdd l.ivs iv }
  dropReady (unpinLaunch s l.id) l.home l.id k

/-- The task of a node. -/
def taskOf (s : State) (l : Launch) (k prio : Nat) (n : NodeRec) (regs : List Nat) (eng : Nat) : Task × State :=
  let (id, s) := s.newId
  ({ id := id, ctx := l.ctx, launch := l.id, node := k, kind := n.kind, prio := prio, iv := s.iv, idem := n.idem, det := l.det
     regs := regs, engine := eng, param := (tabGet? (((group? s l.ctx l.group).getD {}).tab l.table) k).getD 0, since := s.clk }, s)

/-- An F node is dispatched to its region: it asks the governor of each cluster for leave for the load (R315), and its
kernel is staged and activated (IMAGE_STAGE). -/
def dispatchF (s : State) (l : Launch) (k prio : Nat) (n : NodeRec) (reg : Nat) (mirror : Option Nat) : State :=
  let s := takeSnap s l.ctx s.iv true
  let (t, s) := taskOf s l k prio n (reg :: mirror.toList) 0
  let s := markDispatched s l k prio t.iv t.regs 0
  let s := prepareRegion s reg l.split mirror false
  let s := match mirror with | some m => prepareRegion s m l.split (some reg) true | none => s
  let s := startTask s t l
  let s := { s with tasks := s.tasks ++ [t] }
  t.regs.foldl (fun s g =>
    let d := (s.region g).die
    let (j, s) := s.newKey
    let s := (s.region g).clusters.foldl (fun s c => askLeave s d (.load d c t.id) 0) s
    { s with stages := s.stages ++ [{ id := j, ctx := l.ctx, reg := g, die := d, addr := n.kernel, who := .task t.id }] }) s

/-- The engine of a C node (R315): none when it cannot accept a job. -/
def copyEngine (s : State) (l : Launch) (k : Nat) : Option Nat :=
  let e := if l.det then (genG l.seed (BitVec.ofNat 64 k)).toNat % 16
    else (upFrom 1 15).foldl (fun b e => if (jobsOf s l.home e).length < (jobsOf s l.home b).length then e else b) 0
  if (jobsOf s l.home e).length < 16 then some e else none

/-- The place of a node's fault outside the fabric. -/
def nodeSite (d : Nat) (iv : Nat) : FaultRec := { engineSite d 0 with iv := iv }

/-- A C node: its job is read and checked as cpy's is (R237). A job that faults never completes. -/
def dispatchC (s : State) (l : Launch) (k prio : Nat) (n : NodeRec) (e : Nat) : State :=
  let x := l.ctx
  let go := fun (s : State) =>
    let s := takeSnap s x s.iv false
    let (t, s) := taskOf s l k prio n [] e
    (t, { (markDispatched s l k prio t.iv [] e) with tasks := s.tasks ++ [t] })
  let site := nodeSite l.home s.iv
  let bad := fun (s : State) => takeFault (go s).2 x 0 fSTRM { site with addr := BitVec.ofNat 64 n.kernel }
  if n.kernel % 128 ≠ 0 then bad s
  else
    match groupRead s l.home x n.kernel 256 0 site with
    | .wait s => s
    | .fail s => (go s).2
    | .ok bs s =>
      match jobOf s x bs with
      | none => bad s
      | some (a, b) =>
        let (t, s) := go s
        let own : Owner := { ctx := x, reg := regKey x 0, task := t.id, iv := t.iv }
        modJobs s l.home e fun q => q ++ [{ id := t.id, own := own, src := a, dst := b, node := true, floor := s.mpos }]

/-- The links of a die (R10). -/
def dieLinks (d : Nat) : List Nat :=
  match d with
  | 0 => [0, 1, 2]
  | 7 => [15, 16, 17]
  | _ => [2 * d + 1, 2 * d + 2]

/-- The link engine of an L node (R390): of the lowest-numbered usable link of the home die, else of the package. -/
def linkEngine (s : State) (d : Nat) : Option Nat :=
  let n := match (dieLinks d).find? (linkUsable s) with
    | some n => some n
    | none => (upFrom 0 18).find? (linkUsable s)
  n.bind fun n => if (tabGet s.linkJobs n).length < 8 then some n else none

/-- A collective's descriptor (R390): route entry, SRC, DST and BYTES. -/
def collectiveOf (b : List Byte) : Option (Nat × Nat × Nat × Nat) :=
  let n := fld b 24 8
  if fld b 0 1 == 0 && fld b 1 1 < 64 && zeros b 2 6 && 1 ≤ n && n ≤ 2 ^ 32 && n % 8 == 0 && zeros b 32 32 then
    some (fld b 1 1, fld b 8 8, fld b 16 8, n) else none

/-- An L node: its job joins the engine of a link (R390). -/
def dispatchL (s : State) (l : Launch) (k prio : Nat) (n : NodeRec) (e : Nat) : State :=
  let x := l.ctx
  let go := fun (s : State) =>
    let s := takeSnap s x s.iv false
    let (t, s) := taskOf s l k prio n [] e
    (t, { (markDispatched s l k prio t.iv [] e) with tasks := s.tasks ++ [t] })
  let site := nodeSite l.home s.iv
  match groupRead s l.home x n.kernel 64 0 site with
  | .wait s => s
  | .fail s => (go s).2
  | .ok bs s =>
    match collectiveOf bs with
    | none => takeFault (go s).2 x 0 fPERM { site with addr := BitVec.ofNat 64 n.kernel }
    | some (r, src, dst, len) =>
      let (t, s) := go s
      { s with linkJobs := tabMod s.linkJobs e fun q =>
          q ++ [{ id := t.id, ctx := x, task := t.id, iv := t.iv, route := r, src := src, dst := dst, bytes := len, floor := s.mpos, since := s.clk }] }

/-- Write for the group engine in a context: a page that the host is to map, or a line that an atomic holds, is waited
for; another fault is taken against the context. -/
def groupWrite (s : State) (d x va : Nat) (bs : List Byte) (site : FaultRec) : Launched :=
  match writeBack s d x va bs with
  | .ok s => .ok 0 s
  | .error (c, a, l) =>
    if c == 0 || isPending s x a then .wait s
    else
      let s' := takeFault s x 0 c { site with addr := xAddr a kWrite l }
      if c == fXLATE && s.pageHost then .wait s' else .fail s'

/-- The vector of a launch's origin queue (R315, R323): ERRVEC of the partition when that queue is disabled or in
error. -/
def originInterrupt (s : State) (l : Launch) : State :=
  let bad : Bool := match l.queue with
    | none => true
    | some q => (s.queue q).st == .disabled || (s.queue q).st == .error
  if bad then partInterrupt s (s.ctx l.ctx).part 4
  else hostInterrupt s (partFn s (s.ctx l.ctx).part) (s.queue (l.queue.getD 0)).vec

/-- An H node: the engine writes the cookie and the task word, and then signals the host (R315). A write that has to wait
holds the node at the head of its FIFO; one that faults brings no signal (log 116). -/
def dispatchH (s : State) (l : Launch) (k prio : Nat) (n : NodeRec) : State :=
  let param := (taskOf s l k prio n [] 0).1.param
  let bs := bytesOf 8 n.kernel ++ bytesOf 8 (taskWord l.num prio 3 k).toNat
  let go := fun (s : State) =>
    let (t, s) := taskOf (takeSnap s l.ctx s.iv false) l k prio n [] 0
    { (markDispatched s l k prio t.iv [] 0) with tasks := s.tasks ++ [t] }
  match groupWrite s l.home l.ctx param.toNat bs (nodeSite l.home 0) with
  | .ok _ s => originInterrupt (go s) l
  | .wait s => s
  | .fail s => go s

/-- A node that cannot be placed leaves the pool (R316), and so does one whose region is out of service (R356). -/
def unplaced (s : State) (l : Launch) (k : Nat) (code : Nat) : State :=
  let s := modNodeSt s l.id k fun n => { n with noPlace := true }
  takeNotice (dropReady (unpinLaunch s l.id) l.home l.id k) l.ctx code (nodeSite l.home 0)

/-- The saved task of a context goes on before a newer one takes its regions (R289). -/
def resumeFirst (s : State) (x : Nat) : State :=
  let c := s.ctx x
  if c.st == .saved && (s.ctxReg x 1).toNat == oldestUnsealed s then s.modCtx x fun c => { c with resume := true } else s

/-- Whether no region of its context fits a node's kernel (R316). -/
def placeless (s : State) (l : Launch) (n : NodeRec) : Bool :=
  let (w, h) := kernelShape s l.home l.ctx n.kernel
  (fitting s l.ctx w h).isEmpty

/-- Dispatch a node when a unit of its kind is free (R315, R316); `old` is its journaled place. -/
def dispatchNode (s : State) (l : Launch) (k prio : Nat) (n : NodeRec) (old : Option Journal) : State :=
  match n.kind with
  | 0 =>
    if old.isNone && placeless s l n then unplaced s l k fNOKERNEL
    else if (s.ctx l.ctx).st ≠ .idle then resumeFirst s l.ctx
    else
      match old with
      | some j =>
        match j.regs with
        | a :: r => if regionFree s a && r.all (regionFree s) then dispatchF s l k prio n a r.head? else s
        | [] => s
      | none =>
        match placeTask s l k n with
        | .none => unplaced s l k fNOKERNEL
        | .wait => s
        | .at_ a m => if (s.region a).outOfService then unplaced s l k fPERM else dispatchF s l k prio n a m
  | 1 =>
    match old with
    | some j => if (jobsOf s l.home j.engine).length < 16 then dispatchC s l k prio n j.engine else s
    | none => match copyEngine s l k with | some e => dispatchC s l k prio n e | none => s
  | 2 => match linkEngine s l.home with | some e => dispatchL s l k prio n e | none => s
  | _ => dispatchH s l k prio n

/-- The head of the highest non-empty priority of a kind. -/
def poolHead (s : State) (d kind : Nat) : Option Ready :=
  [3, 2, 1, 0].findSome? fun p => (s.die d).ready.find? fun e => e.inPool && e.kind == kind && e.prio == p

/-- NODE_DISPATCH (R314, R315, R350): journaled tasks first, in journal order, then the head of a kind's FIFO. -/
def execNodeDispatch (die kind : Nat) (s : State) : Host.Outcome State Fault Refusal :=
  match (s.die die).journal.find? fun j => j.iv == 0 with
  | some j =>
    match launch? s j.launch with
    | none => .next s
    | some l =>
      let n := (tabGet l.nodes j.node).nrec
      if n.kind == kind then .next (dispatchNode s l j.node j.prio n (some j)) else .next s
  | none =>
    match poolHead s die kind with
    | none => .next s
    | some e =>
      match launch? s e.launch with
      | none => .next s
      | some l => .next (dispatchNode s l e.node e.prio (tabGet l.nodes e.node).nrec none)

/-! ### Completion (R317) -/

/-- Tokens in flight, held at a shore or sent away and not acknowledged, that belong to a region's task (R317). -/
def regionTokens (s : State) (k : Nat) : Bool :=
  let r := s.region k
  let mine := fun (a : Agent) => match a with
    | .oper u _ => r.units.contains u
    | .port d c _ => r.units.contains (tarn0 d c)
    | _ => false
  (s.flight.any fun f => r.units.contains (destAt f.dst)) || (r.units.any fun u => !(s.unit u).plane.arrival.isEmpty)
    || (s.flows.any fun f => f.unacked.any fun x => x.src == some r.ctx && mine x.who && x.pkt.typ == pkTOKEN)
    || (s.shore ++ s.rx).any fun t => t.pkt.typ == pkTOKEN && t.pkt.ctx == r.ctx

/-- Whether a contribution of a task waits at a home for its generation (R173, R183). -/
def contribWaits (s : State) (task : Nat) : Bool :=
  s.pools.any fun p => p.2.parts.any fun q => q.op.isSome && q.task == task

/-- Work of a task outside its firings: streams, copies, calls, pool operations, staged side effects. -/
def taskWork (s : State) (k task : Nat) : Bool :=
  let r := s.region k
  !r.calls.isEmpty || (s.pend.any fun p => p.own.task == task && p.own.reg == k) || contribWaits s task
    || (r.clusters.any fun c => !(s.cluster r.die c).queue.isEmpty
          || (s.unit (tarn0 r.die c)).plane.ports.any fun p => p.2.stream.isSome)
    || s.dies.any fun d => d.2.engines.any fun e => e.2.any fun j => j.own.task == task

/-- Whether a region is quiet (R317). -/
def quietRegion (s : State) (k task : Nat) : Bool :=
  let r := s.region k
  r.phase == .run && r.levels.isEmpty && (r.kref.any fun q => q.depth == 0)
    && (r.units.all fun u => (s.unit u).plane.ops.all fun o => o.2.firings.isEmpty)
    && !regionTokens s k && !taskWork s k task

/-- Whether what a task released before its end has performed. -/
def releasedDone (s : State) (task : Nat) : Bool :=
  !(s.pend.any fun p => p.own.task == task && pendRuns p) && !contribWaits s task
    && !(s.dies.any fun d => d.2.engines.any fun e => e.2.any fun j => j.own.task == task)

/-- The regions of a task are freed: what is left in them goes. -/
def freeRegion (s : State) (k : Nat) : State :=
  let r := s.region k
  let imgs := (r.kref.map (·.image)).toList ++ r.levels.map fun l => l.kref.image
  let s := clearPlanes s k
  let s := releaseRegion s k
  imgs.foldl (fun s a => planeEnd s r.die r.ctx a) s

/-- A node completes (R309, R313, R321): its successors' counts fall by one for its list, and those that reach 0 enter. -/
def completeNode (s : State) (id k : Nat) : State :=
  match launch? s id with
  | none => s
  | some l =>
    let n := tabGet l.nodes k
    let s := modNodeSt s id k fun n => { n with st := .complete }
    let s := if l.hostFed then s
      else n.nrec.succ.eraseDups.foldl (fun s m =>
        match tabGet? (((launch? s id).getD {}).nodes) m with
        | none => s
        | some q =>
          if q.st ≠ .waiting then s
          else
            let s := modNodeSt s id m fun q => { q with left := q.left - 1 }
            if q.left ≤ 1 then enterNode s id m else s) s
    settleLaunch s id

/-- A task has completed (R317, R290, R169). -/
def completeTask (s : State) (t : Task) : State :=
  let s := { (s.meet t.id) with tasks := s.tasks.filter fun q => q.id ≠ t.id }
  let s := if t.kind ≠ 0 then s
    else
      let s := t.regs.foldl freeRegion s
      let s := dropTaskPools s t.ctx t.id
      (s.setCtx t.ctx 1 0).modCtx t.ctx fun c => { c with st := .idle, task := none, preempt := false }
  completeNode s t.launch t.node

/-- Whether an F task has completed (R317): each of its regions is quiet or torn down, and what it released has
performed. -/
def taskDone (s : State) (t : Task) : Bool :=
  ctxRuns s t.ctx && !(s.stages.any fun g => g.who == .task t.id)
    && releasedDone s t.id && t.regs.all fun k => !(s.region k).stopped && ((s.region k).kref.isNone || quietRegion s k t.id)

/-- TASK_COMPLETE (R315, R317, R390): an F task that has ended, or a copy or collective whose job is done. An H node
completes at a read of its word (WATCH_REREAD). -/
def execTaskComplete (k : Nat) (s : State) : Host.Outcome State Fault Refusal :=
  match s.tasks.find? fun t => t.id == k with
  | none => .next s
  | some t =>
    match t.kind with
    | 0 => .next (if taskDone s t then completeTask s t else s)
    | 1 => .next (if s.outstanding.contains k then s else completeTask s t)
    | 2 => .next (if s.outstanding.contains k then s else completeTask s t)
    | _ => .next s

/-- Whether a region's task has work that keeps it from being quiet. -/
def busyRegion (s : State) (k : Nat) : Bool :=
  let r := s.region k
  r.kref.isSome && !r.stopped && ctxRuns s r.ctx && !quietRegion s k (((s.ctx r.ctx).task.map (·.id)).getD 0)

/-- STUCK_TIMEOUT (R317): a region without progress for 2^24 cycles. -/
def execStuckTimeout (ctx reg : Nat) (s : State) : Host.Outcome State Fault Refusal :=
  let k := regKey ctx reg
  let r := s.region k
  if !busyRegion s k || s.clk < r.activity + 16777216 then .next s
  else .next (takeFault s ctx 0 fBLKSTUCK { die := r.die, cl := r.cluster 0, attempt := r.replays })

/-! ### launch, gpatch, done (R323-R325) -/

/-- launch (R323): the descriptor is read and checked at issue; with REPLAY only GROUP, SEED and MODE are. -/
def execLaunch (h : Hdr) (f : FormS) (s : State) : Host.Outcome State Fault Refusal :=
  runSideDual s h fun i =>
    if mustWait s i then s
    else if i.l.pay.toNat % 8 ≠ 0 then takeBlock s i fALIGN i.l.pay
    else
      match readRange s i i.l.pay.toNat 40 with
      | .stop s => s
      | .ok bs bad _ s =>
        let replay := f.imm.toNat % 2 == 1
        if bad then takePoison s i
        else if !replay && !descOk s (descOf bs) then takeBlock s i fPERM i.l.pay
        else complete s i h (.launch bs replay)

/-- gpatch (R324): staged. -/
def execGpatch (h : Hdr) (_f : FormS) (s : State) : Host.Outcome State Fault Refusal :=
  runSide s h fun i => complete s i h (.gpatch i.l.pay.toNat (i.r.pay.toNat % 2 ^ 32) i.x.pay)

/-- done (R325): staged. -/
def execDoneI (h : Hdr) (_f : FormS) (s : State) : Host.Outcome State Fault Refusal :=
  runSide s h fun i => complete s i h .done

/-- A released launch reaches its context's group engine (R323): met when its first nodes have entered. -/
def performLaunch (s : State) (p : Pend) (bs : List Byte) (replay : Bool) : State :=
  let x := p.own.ctx
  let d := descOf bs
  let d := if replay then { d with first := 0, count := 0, split := 0 } else d
  let origin := (s.tasks.find? fun t => t.id == p.own.task).bind fun t => launch? s t.launch
  let o : Origin := { queue := origin.bind (·.queue), born := p.own.iv, unit := agentUnit p.who, site := pendSite p }
  if replay && (group? s x d.group).isNone then launchPerm (dropPend s p.id) x o d.group
  else
    match launchNow s x d o with
    | .wait s => s
    | .fail s => dropPend s p.id
    | .ok id s => settleLaunch (dropPend s p.id) id

/-- A released gpatch applies (R318, R324): its block's admission waited until a table was free (admitOne). -/
def performGpatch (s : State) (p : Pend) (g node : Nat) (v : Word) : State :=
  let x := p.own.ctx
  match patchFault s x g node with
  | some a => takeFault (dropPend s p.id) x (agentUnit p.who) fPERM { pendSite p with addr := a }
  | none => if patchReady s x g p.id then dropPend (applyPatch s x p.own.iv g node v) p.id else s

/-- A released done ends the issuing task (R325): every plane is torn down. -/
def performDone (s : State) (p : Pend) : State :=
  let s := dropPend s p.id
  match (s.ctx p.own.ctx).task with
  | none => s
  | some t =>
    if t.id ≠ p.own.task || t.ended then s
    else
      let s := { s with tasks := listMod (fun q => q.id == t.id) (fun q => { q with ended := true }) s.tasks }
      let s := s.modCtx t.ctx fun c => { c with task := some { t with ended := true } }
      t.regs.foldl (fun s k =>
        let r := s.region k
        let s := s.modRegion k fun r => { r with levels := [], phase := .tearing [] false [] none }
        let s := r.levels.foldl (fun s l => planeEnd s r.die r.ctx l.kref.image) s
        beginTear s k) s

end Sys2Proof.Machine
end

