-- ==== Sys2Proof/Machine/Queue.lean ====
section
/-! DEFINITION. Queues (R298-R307): their registers and states, packets, starts and completions. -/

namespace Sys2Proof.Machine

/-! ### Ownership (R298, R397) -/

/-- The active partition whose function a function is. -/
def fnPart (s : State) (fn : Nat) : Option Nat :=
  if wbit (s.devReg 0x306) 0 then (upFrom 0 16).find? fun p => ptabByte s p 0 ≠ 0 && partFn s p == fn else none
/-- The active partition that a queue belongs to. -/
def queuePart (s : State) (q : Nat) : Option Nat :=
  if wbit (s.devReg 0x306) 0 then
    (upFrom 0 16).find? fun p => ptabByte s p 0 ≠ 0 && ptabNat s p 8 2 ≤ q && q < ptabNat s p 8 2 + ptabNat s p 0xA 2
  else none
/-- Whether a function reaches a queue's block. -/
def fnReaches (s : State) (fn q : Nat) : Bool := (fnPart s fn).isSome && fnPart s fn == queuePart s q

/-- The error vector of a queue's function (R306). -/
def queueErrorVec (s : State) (q : Nat) : State :=
  match queuePart s q with | some p => partInterrupt s p 4 | none => s

/-- A queue goes to error (R306, R307). -/
def queueError (s : State) (q code : Nat) : State :=
  queueErrorVec (s.modQueue q fun v => { v with st := .error, ecode := code }) q

/-! ### Registers (R299) -/

/-- S of a ring. -/
def ringSlots (v : Queue) : Nat := 2 ^ (wbits v.base 3 0 + 4)
/-- Whether a queue's configuration is valid: SIZE and a created context of its partition. -/
def queueValid (s : State) (q : Nat) (v : Queue) : Bool :=
  wbits v.base 3 0 ≤ 12 && (s.ctx v.ctx).st ≠ .free && queuePart s q == some (s.ctx v.ctx).part

/-- A doorbell (R300, R307). -/
def ringDoorbell (s : State) (q tail : Nat) : State :=
  let v := s.queue q
  let ok := (tail + 2 ^ 32 - v.head) % 2 ^ 32 ≤ ringSlots v
  match v.st with
  | .disabled | .error => s
  | .idle =>
    if !ok then queueError s q 3
    else s.modQueue q fun v => { v with tail := tail, st := if tail == v.head then .idle else .active }
  | _ => if ok then s.modQueue q fun v => { v with tail := tail } else queueError s q 3

/-- Quiesce an active queue: an unsatisfied WAIT is withdrawn. -/
def drainQueue (v : Queue) : Queue :=
  let isWait := fun (p : Pkt) => fld p.bytes 0 1 == 5 && !p.met
  let v := match v.pkts.getLast? with
    | some p => if isWait p then { v with pkts := v.pkts.dropLast, head := p.idx } else v
    | none => v
  { v with st := if v.pkts.isEmpty then .quiesced else .draining }

/-- A command of q.ctl (R307). -/
def queueCmd (s : State) (q cmd : Nat) : State :=
  let v := s.queue q
  match cmd, v.st with
  | 1, .disabled => if queueValid s q v then s.modQueue q fun v => { v with st := .idle, head := 0, tail := 0, done := 0 } else s
  | 2, .idle => s.modQueue q fun v => { v with st := .quiesced }
  | 2, .active => s.modQueue q drainQueue
  | 3, .quiesced => s.modQueue q fun v => { v with st := if v.tail == v.head then .idle else .active }
  | 4, .idle | 4, .quiesced => s.modQueue q fun v => { v with st := .disabled }
  | 4, .error => if v.pkts.isEmpty then s.modQueue q fun v => { v with st := .disabled, ecode := 0 } else s
  | 5, .error =>
    if v.pkts.isEmpty && (s.ctx v.ctx).st ≠ .free then s.modQueue q fun v => { v with st := .quiesced, ecode := 0 } else s
  | _, _ => s

/-- A write into a queue's block (R299): fields first, then the command. -/
def queueWrite (s : State) (q off : Nat) (val : Word) : State :=
  let v := s.queue q
  match off with
  | 0x00 => if v.st == .disabled then s.modQueue q fun v => { v with base := BitVec.ofNat 64 (wbits val 55 11 * 2 ^ 11 + wbits val 3 0) } else s
  | 0x08 =>
    let s := if v.st == .disabled then s.modQueue q fun v =>
        { v with prio := wbits val 25 24, vec := wbits val 23 16, ctx := wbits val 7 0 } else s
    queueCmd s q (wbits val 63 61)
  | 0x20 => ringDoorbell s q (wbits val 31 0)
  | _ => s

/-- A store of a core or device into a queue's block: bytes of the register that it does not name are written as they read
(log 78). -/
def queueStore (s : State) (q off : Nat) (bs : List Byte) : State :=
  let old := bytesOf 8 (readQueueReg (s.queue q) (off / 8 * 8)).toNat
  queueWrite s q (off / 8 * 8) (BitVec.ofNat 64 (natOfBytes (old.take (off % 8) ++ bs ++ old.drop (off % 8 + bs.length))))

/-- A function's write to a queue's block that carries a command of q.ctl. -/
def runQueueCmd (w : QueueWrite) (cmd : Nat) (s : State) : Host.Outcome State Fault Refusal :=
  if w.q < 1024 && fnReaches s w.fn w.q && w.off == 8 && wbits w.val 63 61 == cmd then .next (queueWrite s w.q w.off w.val)
  else .next s

/-- QUEUE_ENABLE (R307). -/
def execQueueEnable (w : QueueWrite) (s : State) : Host.Outcome State Fault Refusal := runQueueCmd w 1 s
/-- QUEUE_QUIESCE (R307). -/
def execQueueQuiesce (w : QueueWrite) (s : State) : Host.Outcome State Fault Refusal := runQueueCmd w 2 s
/-- QUEUE_RESUME (R307). -/
def execQueueResume (w : QueueWrite) (s : State) : Host.Outcome State Fault Refusal := runQueueCmd w 3 s
/-- QUEUE_DISABLE (R307). -/
def execQueueDisable (w : QueueWrite) (s : State) : Host.Outcome State Fault Refusal := runQueueCmd w 4 s
/-- QUEUE_CLEAR (R307). -/
def execQueueClear (w : QueueWrite) (s : State) : Host.Outcome State Fault Refusal := runQueueCmd w 5 s
/-- QUEUE_DOORBELL (R300). -/
def execQueueDoorbell (w : QueueWrite) (s : State) : Host.Outcome State Fault Refusal :=
  if w.q < 1024 && fnReaches s w.fn w.q && w.off == 0x20 then .next (queueWrite s w.q w.off w.val) else .next s

/-! ### Starting packets (R300-R302, R306) -/

/-- The bytes that a packet's kind leaves zero (R300, R301). -/
def packetZeros (b : List Byte) : Bool :=
  let body := match fld b 0 1 with
    | 1 => zeros b 0x39 7 && fld b 0x38 1 < 2
    | 2 => zeros b 0x20 8 && zeros b 0x30 8 && fld b 0x38 1 < 2 && zeros b 0x39 7
    | 3 => zeros b 0x24 4 && zeros b 0x30 16
    | 4 => fld b 0x28 1 ≤ 1 && zeros b 0x29 23
    | 5 => fld b 0x28 1 ≤ 2 && zeros b 0x29 23
    | 6 => fld b 0x1E 2 == 0 && zeros b 0x20 32
    | _ => zeros b 0x18 40
  fld b 1 1 < 4 && zeros b 2 6 && body

/-- The 64 bytes of packet k of a queue: read at system scope, or the ECODE of what stops the read. -/
def fetchPacket (s : State) (q k : Nat) : Except Nat (List Byte) × State :=
  let v := s.queue q
  let a := wbits v.base 55 12 * 4096 + 64 * (k % ringSlots v)
  if wbit v.base 11 then (.ok (memBytes s.hostMem a 64), s)
  else
    match readV s 0 v.ctx false a 64 with
    | (.fault _ _ _, s) => (.error 4, s)
    | (.ok bs bad, s) => if bad then (.error 5, s) else (.ok bs, s)

/-- Whether a queue has a packet that it may fetch: active, one past HEAD, and no WAIT before it is in flight (R302). -/
def mayFetch (v : Queue) : Bool := v.st == .active && v.head ≠ v.tail && !(v.pkts.getLast?.any fun p => fld p.bytes 0 1 == 5)

/-- Whether a packet's BARRIER lets it start (R302). -/
def orderFree (v : Queue) (b : List Byte) : Bool := v.pkts.isEmpty || fld b 1 1 % 2 == 0

/-- Whether a queue has a packet ready to start (R302): one whose fetch fails stops its queue when it starts. -/
def readyQueue (s : State) (q : Nat) (v : Queue) : Bool :=
  mayFetch v &&
    match (fetchPacket s q v.head).1 with
    | .ok b => orderFree v b
    | .error _ => true

/-- How far a queue stands behind the last one of its PRIO that started a packet (log 112). -/
def turnOf (s : State) (q : Nat) : Nat := (q + 1023 - (tabGet? s.served (s.queue q).prio).getD 1023) % 1024

/-- Whether another queue's packet starts first (R302): one of higher PRIO, or one of equal PRIO whose turn comes before. -/
def outranked (s : State) (q : Nat) : Bool :=
  s.queues.any fun p => p.1 ≠ q && readyQueue s p.1 p.2
    && (p.2.prio > (s.queue q).prio || (p.2.prio == (s.queue q).prio && turnOf s p.1 < turnOf s q))

/-- A packet has started: HEAD advances, it is in flight, and its queue has had its turn. -/
def putPacket (s : State) (q : Nat) (p : Pkt) : State :=
  let s := { s with served := tabSet s.served (s.queue q).prio q }
  s.modQueue q fun v => { v with head := (v.head + 1) % 2 ^ 32, pkts := v.pkts ++ [p] }

/-- Start the next packet of a queue when it is of a kind (R302, R306): a packet that breaks R300 or R301 stops the
queue. No packet starts between a live update's quiesce and its first heartbeat (R408). A packet whose BARRIER does not let
it start is read again when it does (R300). -/
def startPacket (q kind : Nat) (s : State) (go : List Byte → Nat → State → State) : Host.Outcome State Fault Refusal :=
  let v := s.queue q
  if !readyQueue s q v || outranked s q || s.fw.switching || s.fw.updating then .next s
  else
    match fetchPacket s q v.head with
    | (.error c, s) => .next (queueError s q c)
    | (.ok b, s) =>
      if fld b 0 1 == 0 || fld b 0 1 > 7 then .next (queueError s q 1)
      else if !packetZeros b then .next (queueError s q 2)
      else if fld b 0 1 ≠ kind then .next s
      else .next (go b v.head s)

/-- Where the launch of a packet comes from. -/
def packetOrigin (s : State) (q k : Nat) : Origin :=
  { queue := some q, pkt := some k, site := nodeSite (homeOf s (s.queue q).ctx) 0 }

/-- Under GROUP_HOST, how FIRST + COUNT stands to the NNODE of the group's header (R306): above it, or not yet known because
its page is awaited. -/
def countCheck (s : State) (q k : Nat) (d : LDesc) : Launched :=
  if !s.groupHost then .ok 0 s
  else
    match groupRead s (homeOf s (s.queue q).ctx) (s.queue q).ctx (d.group - 60) 4 0 (packetOrigin s q k).site with
    | .ok b _ => if d.first + d.count > natOfBytes b then .fail s else .ok 0 s
    | .wait s => .wait s
    | .fail _ => .ok 0 s

/-- The launch of a packet that has started (R301, R303): its nodes enter once every read of its group is done, and a page
that is awaited keeps it waiting (R309). -/
def packetLaunch (q k : Nat) (d : LDesc) (s : State) : State :=
  let upd := fun (s : State) (f : Pkt → Pkt) => s.modQueue q fun v => { v with pkts := listMod (fun p => p.idx == k) f v.pkts }
  match launchNow s (s.queue q).ctx d (packetOrigin s q k) with
  | .wait s => upd s fun p => { p with waits := true }
  | .fail s => upd s fun p => { p with waits := false, met := true }
  | .ok id s => settleLaunch (upd s fun p => { p with waits := false, launch := some id }) id

/-- The descriptor of a LAUNCH_GROUP or REPLAY packet. -/
def packetDesc (b : List Byte) : LDesc :=
  let d := descOf (b.drop 0x18)
  if fld b 0 1 == 2 then { d with first := 0, count := 0, split := 0 } else d

/-- The packet of a kind in a queue whose launch waits for a page; it goes before a later one of its kind (log 114). -/
def waitingLaunch (s : State) (q kind : Nat) : Option Pkt :=
  (s.queue q).pkts.find? fun p => p.waits && fld p.bytes 0 1 == kind

/-- LAUNCH_GROUP (R301, R305, R306): it starts, or one that has started goes on with its launch. -/
def execLaunchGroup (q : Nat) (s : State) : Host.Outcome State Fault Refusal :=
  match waitingLaunch s q 1 with
  | some p => .next (packetLaunch q p.idx (packetDesc p.bytes) s)
  | none =>
    startPacket q 1 s fun b k s =>
      let d := packetDesc b
      if !descOk s d then queueError s q 6
      else
        match countCheck s q k d with
        | .wait s => s
        | .fail s => queueError s q 6
        | .ok _ s => packetLaunch q k d (putPacket s q { idx := k, bytes := b })

/-- REPLAY (R301): a group that is not staged raises PERM. -/
def execReplayPkt (q : Nat) (s : State) : Host.Outcome State Fault Refusal :=
  match waitingLaunch s q 2 with
  | some p => .next (packetLaunch q p.idx (packetDesc p.bytes) s)
  | none =>
  startPacket q 2 s fun b k s =>
    let x := (s.queue q).ctx
    let d := packetDesc b
    if (group? s x d.group).isNone then
      putPacket (launchPerm s x { site := nodeSite (homeOf s x) 0 } d.group) q { idx := k, bytes := b, met := true }
    else packetLaunch q k d (putPacket s q { idx := k, bytes := b })

/-- PATCH (R301, R318): the patch waits for its table (PATCH_APPLY). -/
def execPatchPkt (q : Nat) (s : State) : Host.Outcome State Fault Refusal :=
  startPacket q 3 s fun b k s =>
    let x := (s.queue q).ctx
    let g := fld b 0x18 8
    let n := fld b 0x20 4
    let bad := match group? s x g with | none => true | some v => n ≥ v.nnode
    if bad then putPacket (launchPerm s x { site := nodeSite (homeOf s x) 0 } g) q { idx := k, bytes := b, met := true }
    else
      let (id, s) := s.newKey
      let s := { s with patches := s.patches ++ [{ id := id, ctx := x, group := g, node := n, param := BitVec.ofNat 64 (fld b 0x28 8), queue := some (q, k) }] }
      putPacket s q { idx := k, bytes := b }

/-- SIGNAL (R303): it performs at its completion. -/
def execSignalPkt (q : Nat) (s : State) : Host.Outcome State Fault Refusal :=
  startPacket q 4 s fun b k s => putPacket s q { idx := k, bytes := b }

/-- WAIT (R303): its word is read by WATCH_REREAD. -/
def execWaitPkt (q : Nat) (s : State) : Host.Outcome State Fault Refusal :=
  startPacket q 5 s fun b k s => putPacket s q { idx := k, bytes := b, lastRead := s.clk }

/-- SEAL_REQ (R303, R346). -/
def execSealReqPkt (q : Nat) (s : State) : Host.Outcome State Fault Refusal :=
  startPacket q 6 s fun b k s =>
    let iv := fld b 0x18 6
    let n := if iv == 0 then s.iv else iv
    let s := putPacket s q { idx := k, bytes := b, target := n }
    if n ≥ s.iv then requestClose s .packet else s

/-- NOP (R303). -/
def execNopPkt (q : Nat) (s : State) : Host.Outcome State Fault Refusal :=
  startPacket q 7 s fun b k s => putPacket s q { idx := k, bytes := b, met := true }

/-! ### Completion (R303, R304) -/

/-- Whether an atomic holds a line of a range that the front end is about to reach at its home bank (R162, R252): the
access waits. -/
def frontHeld (s : State) (x va n : Nat) : Bool :=
  (vCuts (n / 64 + 2) va n).any fun p =>
    match (xlateNow s 0 x p.1 kLoad false).1 with
    | .ok pa _ => s.holds.any fun h => h.place == 100 && locLine h.loc == .mem (lineOf pa)
    | _ => false

/-- Store of a queue front end at system scope. It carries no interval, and a rollback does not withdraw it (R303), so it
performs as a host write does (R341). -/
def frontPut (s : State) (x va : Nat) (bs : List Byte) : Except (Nat × Nat × Nat) State :=
  match (vCuts (bs.length / 64 + 2) va bs.length).foldl (fun (acc : Except (Nat × Nat × Nat) (State × List Byte)) p =>
      match acc with
      | .error e => .error e
      | .ok (s, rest) =>
        match xlateNow s 0 x p.1 kWrite false with
        | (.ok pa _, s) => if physFault s pa kWrite then .error (fPERM, p.1, 0) else .ok (hostPut s pa (rest.take p.2), rest.drop p.2)
        | (.fault c l, _) => .error (c, p.1, l)
        | (.miss, _) => .error (fXLATE, p.1, 0)) (.ok (s, bs)) with
  | .ok (s, _) => .ok s
  | .error e => .error e

/-- A fault of a packet's work goes to the bound context (R306). The answer says whether its page may yet be served. -/
def frontFault (s : State) (x : Nat) (e : Nat × Nat × Nat) : Bool × State :=
  let site := nodeSite (homeOf s x) 0
  if e.1 == fXLATE && s.pageHost then
    (true, if isPending s x e.2.1 then s else takeFault s x 0 e.1 { site with addr := xAddr e.2.1 kWrite e.2.2 })
  else (false, takeFault s x 0 e.1 { site with addr := xAddr e.2.1 kWrite e.2.2 })

/-- A SIGNAL's write or add (R303): none while its page is awaited or an atomic holds its line. -/
def doSignal (s : State) (x : Nat) (b : List Byte) : Option State × State :=
  let a := fld b 0x18 8
  let v := fld b 0x20 8
  let old := if fld b 0x28 1 == 0 then some 0 else
    match (readV s 0 x false a 8).1 with | .ok bs _ => some (natOfBytes bs) | .fault _ _ _ => none
  let put := match old with
    | some o => frontPut s x a (bytesOf 8 ((o + v) % 2 ^ 64))
    | none => match (readV s 0 x false a 8).1 with | .fault c va l => .error (c, va, l) | .ok _ _ => .ok s
  if frontHeld s x a 8 then (none, s)
  else
    match put with
    | .ok s => (some s, s)
    | .error e =>
      match frontFault s x e with
      | (true, s) => (none, s)
      | (false, s) => (some s, s)

/-- Whether a started packet is complete (R303). -/
def packetMet (s : State) (p : Pkt) : Bool :=
  p.met ||
    match fld p.bytes 0 1 with
    | 1 | 2 => (p.launch.bind (launch? s)).any fun l => l.ended && l.ivs.all (· ≤ s.sealed)
    | 6 => p.target ≤ s.sealed
    | _ => false

/-- The completion step of a queue's oldest packet: CVAL, the vector, DONE (R304, R307). CADDR is a host bus address when the
ring is in host memory, else a virtual address (log 36). -/
def completePacket (s : State) (q : Nat) (p : Pkt) : State :=
  let v := s.queue q
  let done := fun (s : State) =>
    let s := if fld p.bytes 1 1 / 2 % 2 == 1 then
        match queuePart s q with | some n => hostInterrupt s (partFn s n) v.vec | none => s
      else s
    let s := match p.launch with
      | some id => { s with launches := s.launches.filter fun l => l.id ≠ id }
      | none => s
    s.modQueue q fun v =>
      let v := { v with pkts := v.pkts.drop 1, done := (v.done + 1) % 2 ^ 32 }
      { v with st := if v.st == .active && v.pkts.isEmpty && v.head == v.tail then .idle
                     else if v.st == .draining && v.pkts.isEmpty then .quiesced else v.st }
  let caddr := fld p.bytes 8 8
  if caddr == 0 then done s
  else if wbit v.base 11 then done { s with hostMem := memPut s.hostMem caddr ((p.bytes.drop 0x10).take 8) }
  else if frontHeld s v.ctx caddr 8 then s
  else
    match frontPut s v.ctx caddr ((p.bytes.drop 0x10).take 8) with
    | .ok s => done s
    | .error e =>
      match frontFault s v.ctx e with
      | (true, s) => s
      | (false, s) => done s

/-- PACKET_COMPLETE (R303, R304): the oldest packet in flight, when it is complete; a SIGNAL performs then. -/
def execPacketComplete (q : Nat) (s : State) : Host.Outcome State Fault Refusal :=
  match (s.queue q).pkts with
  | [] => .next s
  | p :: _ =>
    if packetMet s p then .next (completePacket s q p)
    else if fld p.bytes 0 1 == 4 then
      match doSignal s (s.queue q).ctx p.bytes with
      | (some s, _) => .next (completePacket (s.modQueue q fun v =>
          { v with pkts := listMod (fun w => w.idx == p.idx) (fun w => { w with met := true }) v.pkts }) q { p with met := true })
      | (none, s) => .next s
    else .next s

/-- COND of a WAIT (R301). -/
def waitCond (c a b : Nat) : Bool :=
  match c with
  | 0 => a ≥ b
  | 1 => a == b
  | _ => a ≠ b

/-- A WAIT packet of queue k, or the H node that is task k, reads its word again (R415). -/
def watchReread (isQueue : Bool) (k : Nat) (s : State) : State :=
  if isQueue then
    match (s.queue k).pkts.getLast? with
    | none => s
    | some p =>
      if fld p.bytes 0 1 ≠ 5 || p.met || frontHeld s (s.queue k).ctx (fld p.bytes 0x18 8) 8 then s
      else
        let x := (s.queue k).ctx
        let mark := fun (s : State) (m : Bool) => s.modQueue k fun v =>
          { v with pkts := listMod (fun w => w.idx == p.idx) (fun w => { w with met := m, lastRead := s.clk }) v.pkts }
        match readV s 0 x false (fld p.bytes 0x18 8) 8 with
        | (.ok bs _, s) => mark s (waitCond (fld p.bytes 0x28 1) (natOfBytes bs) (fld p.bytes 0x20 8))
        | (.fault c va l, s) => mark (frontFault s x (c, va, l)).2 false
  else
    match s.tasks.find? fun t => t.id == k && t.kind == 3 with
    | none => s
    | some t =>
      let mark := fun (s : State) => { s with tasks := listMod (fun q => q.id == k) (fun q => { q with since := s.clk }) s.tasks }
      if frontHeld s t.ctx (t.param.toNat + 16) 8 then s
      else
        match readV s (homeOf s t.ctx) t.ctx false (t.param.toNat + 16) 8 with
        | (.ok bs _, s) => if natOfBytes bs ≠ 0 then completeTask s t else mark s
        | (.fault c va l, s) => mark (frontFault s t.ctx (c, va, l)).2

/-- WATCH_REREAD (R415). -/
def execWatchReread (isQueue : Bool) (k : Nat) (s : State) : Host.Outcome State Fault Refusal := .next (watchReread isQueue k s)

/-- The queues bound to a context that is destroyed (R306, R307). -/
def orphanQueues (s : State) (x : Nat) : State :=
  s.queues.foldl (fun s q =>
    if q.2.ctx ≠ x then s
    else
      match q.2.st with
      | .disabled => s
      | .error => s.modQueue q.1 fun v => { v with pkts := [] }
      | _ => queueError (s.modQueue q.1 fun v => { v with pkts := [] }) q.1 7) s

end Sys2Proof.Machine
end

