-- ==== Sys2Proof/Machine/Interval.lean ====
section
/-! DEFINITION. Recovery intervals (R338-R361, R391): seals, rollback, region replay, cluster retirement, and seal, sealw,
irrev and ivrd, opcodes 0xBA-0xBD. -/

namespace Sys2Proof.Machine

/-! ### The instructions (R357-R361) -/

/-- N of seal and sealw, or the default of AR = 0. -/
def ivOperand (h : Hdr) (i : Issue) (dflt : Nat) : Nat := if h.ar == 1 then wbits i.l.pay 47 0 else dflt

/-- ctx.iv of an issue. -/
def issueIv (s : State) (i : Issue) : Nat := wbits (s.ctxReg (s.ctxOf i.f.u) 1) 47 0

/-- seal (R358): staged. -/
def execSealI (h : Hdr) (_f : FormS) (s : State) : Host.Outcome State Fault Refusal :=
  runSideDual s h fun i => complete s i h (.seal (ivOperand h i (issueIv s i)))

/-- sealw (R359): null at once for the task's own interval and later ones; else it waits for the seal. -/
def execSealw (h : Hdr) (_f : FormS) (s : State) : Host.Outcome State Fault Refusal :=
  runSide s h fun i =>
    let n := ivOperand h i (issueIv s i - 1)
    if mustWait s i then s
    else if n ≥ issueIv s i then giveNull s i h
    else if s.sealed ≥ n then
      let (deps, s) := linkDeps s
      give s i h { i.result (BitVec.ofNat 64 n) false with deps := deps }
    else s

/-- irrev (R360): translated at issue, staged. -/
def execIrrev (h : Hdr) (f : FormS) (s : State) : Host.Outcome State Fault Refusal :=
  let n := if f.imm.toNat % 2 == 1 then 4 else 8
  let addr := fun (i : Issue) => unitAddr s i.f.u 0 i.l.pay n kWrite
  match regSpaceStop s h true true addr with
  | some pa => .refused (.registerSpace pa)
  | none =>
    runSideDual s h fun i =>
      withAddr s i kWrite (addr i) fun loc _ _ =>
        match loc with
        | .mem pa => complete s i h (.irrev pa (bytesOf n i.r.pay.toNat))
        | _ => s

/-- ivrd (R361). -/
def execIvrd (h : Hdr) (f : FormS) (s : State) : Host.Outcome State Fault Refusal :=
  runSide s h fun i =>
    if mustWait s i then s
    else
      let v := match f.imm.toNat % 4 with
        | 0 => issueIv s i
        | 1 => s.iv
        | _ => s.sealed
      give s i h (i.tok (BitVec.ofNat 64 v))

/-- seal acts (R358): it asks once for a close, and is met when the interval has closed, or at once under SEAL_HOST. -/
def performSeal (s : State) (p : Pend) (n : Nat) : State :=
  let s := if p.step == 0 && n ≥ s.iv then requestClose s .sealInstr else s
  if s.iv > n || s.sealHost then dropPend s p.id
  else { s with pend := listMod (fun q => q.id == p.id) (fun q => { q with step := 1 }) s.pend }

/-- The die whose egress buffer takes a unit's irrev. -/
def irrevDie (p : Pend) : Nat := regDie (agentUnit p.who)

/-- irrev acts (R345, R360): its write enters the issuing die's buffer; work without an interval performs at once. -/
def performIrrev (s : State) (p : Pend) (pa : Nat) (bs : List Byte) : State :=
  let d := irrevDie p
  if p.own.iv == 0 then
    match queueBlock pa with
    | some (q, off) => queueStore (dropPend s p.id) q off bs
    | none => hostPut (dropPend s p.id) pa bs
  else
    match egressRoom s d p.own.iv 2 with
    | .ok => dropPend (s.modDie d fun v => { v with egress := v.egress ++ [{ iv := p.own.iv, pa := pa, bytes := bs, irrev := true, own := p.own }] }) p.id
    | .wait => requestClose s .irrev
    | .full => takeFault (dropPend s p.id) p.own.ctx (agentUnit p.who) fEGRESS { pendSite p with addr := BitVec.ofNat 64 pa }

/-! ### Seals (R346-R349, R391) -/

/-- A seal message has been taken from those this device sent itself. -/
def takeSealMsg (s : State) (p : Packet) : State := { s with sealMsgs := s.sealMsgs.erase p }

/-- Whether a packet is a SEAL marker of a phase, and, when it is this device's own, one that waits. -/
def isSeal (s : State) (p : Packet) (phase : Nat) : Bool :=
  p.typ == pkSEAL && fld p.body 0 1 == phase && (p.src ≠ s.devId || s.sealMsgs.contains p)

/-- Every context sees progress when dev.iv or dev.sealed changes (R317). -/
def touchAll (s : State) : State := { s with regions := s.regions.map fun r => (r.1, { r.2 with activity := s.clk }) }

/-- Interval n closes on this device (R346, R349). -/
def closeInterval (s : State) (n : Nat) : State :=
  let s := s.setDev 0x300 (BitVec.ofNat 64 (n + 1))
  touchAll { s with sealing := { s.sealing with asked := false, closedAt := tabSet s.sealing.closedAt n s.clk } }

/-- SEAL_REQUEST (R346, R391): at the leader the open interval closes; another device passes the request up. -/
def execSealRequest (p : Packet) (s : State) : Host.Outcome State Fault Refusal :=
  if !isSeal s p 0 then .next s
  else
    let s := coreInterrupt (takeSealMsg s p) 6
    if !s.leader then .next (sealUp s 0 p.iv)
    else if p.iv < s.iv then .next s
    else
      let n := s.iv
      .next (sealDown (closeInterval s n) 1 n)

/-- SEAL_CLOSE (R346): the device opens the next interval and passes the message on. -/
def execSealClose (p : Packet) (s : State) : Host.Outcome State Fault Refusal :=
  if !isSeal s p 1 then .next s
  else
    let s := coreInterrupt (takeSealMsg s p) 6
    if p.iv == s.iv then .next (sealDown (closeInterval s p.iv) 1 p.iv) else .next s

/-- Whether this device's work of an interval is over (R347): its tasks have completed, their side effects performed,
their link sends been acknowledged, their pool contributions registered (R183), remote stores of the interval have been
stored here, and no task waits to be dispatched again. -/
def ivQuiet (s : State) (n : Nat) : Bool :=
  !(s.tasks.any fun t => t.iv == n && t.kind ≠ 3) && !(s.pend.any fun p => p.own.iv == n)
    && !(s.flows.any fun f => f.unacked.any fun x => x.pkt.iv == n)
    && !(s.dies.any fun d => (d.2.journal.any fun j => j.iv == 0) || d.2.engines.any fun e => e.2.any fun j => j.own.iv == n)
    && !(s.linkJobs.any fun l => l.2.any fun j => j.iv == n)
    && !(s.pools.any fun p => p.2.parts.any fun q => q.op.isSome && q.iv == n)
    && !(s.flight.any fun f => f.iv == n) && !(s.units.any fun u => u.2.plane.ports.any fun q => q.2.held.any fun h => h.iv == n)
    && !(s.agenda.any fun m => match m with | .event (.regionReplay _ _ _) => true | _ => false)

/-- Whether interval n may seal as far as this device is concerned (R347). -/
def sealReady (s : State) (n : Nat) : Bool :=
  n == oldestUnsealed s && n < s.iv && !s.sealing.rolling && ivQuiet s n

/-- The links toward the devices below (R391). -/
def downLinks (s : State) : List Nat :=
  let down := wbits (s.devReg 0x311) 22 5
  (upFrom 0 18).filter fun n => down / 2 ^ n % 2 == 1

/-- Held writes of intervals up to n, in the order of their release (R345). -/
def released (s : State) (d n : Nat) : List Egress :=
  sortBy (fun (a b : Egress) => a.iv < b.iv) ((s.die d).egress.filter fun e => e.iv ≤ n)

/-- A held write performs (R345): it carries no interval and is never undone. -/
def releaseWrite (s : State) (e : Egress) : State := hostPut s e.pa e.bytes

/-- The held writes of a die up to interval n are released. -/
def releaseDie (s : State) (n d : Nat) : State :=
  let es := released s d n
  let s := s.modDie d fun v => { v with egress := v.egress.filter fun e => e.iv > n }
  es.foldl releaseWrite s

/-- The pools of a snapshot once interval n has sealed (R187): as they stand now, as long as no F task of a later interval
has been dispatched to its context. -/
def sealPools (s : State) (n : Nat) (v : Snap) : Snap :=
  if s.snaps.any fun w => w.ctx == v.ctx && n < w.iv && w.iv ≤ v.iv && w.ran then v else { v with pools := ctxPools s v.ctx }

/-- Interval n is sealed on this device (R347, R352, R345). -/
def sealInterval (s : State) (n : Nat) : State :=
  let s := s.setDev 0x301 (BitVec.ofNat 64 n)
  let s := { s with
    dies := s.dies.map fun (d : Nat × Die) =>
      (d.1, { d.2 with undo := d.2.undo.filter (fun e => e.iv > n), journal := d.2.journal.filter (fun j => j.iv == 0 || j.iv > n)
                       asked := d.2.asked.filter (· > n) })
    snaps := (s.snaps.filter fun v => v.iv > n).map (sealPools s n)
    launches := s.launches.filter fun l => !(l.ended && l.pkt.isNone && l.ivs.all (· ≤ n))
    sealing := { s.sealing with
      dones := s.sealing.dones.filter (fun v => v.1 > n), doneSent := s.sealing.doneSent.filter (· > n)
      closedAt := s.sealing.closedAt.filter (fun v => v.1 > n), told := s.sealing.told.filter (· > n) } }
  touchAll ((upFrom 0 8).foldl (fun s d => releaseDie s n d) s)

/-- DONE n goes up, or at the leader SEALED n goes down (R347, R391), once this device's conditions hold and every device
below has sent DONE n. -/
def tryDone (s : State) (n : Nat) : State :=
  let below := (s.sealing.dones.filter fun v => v.1 == n).length
  if !s.sealing.doneSent.contains n || below < (downLinks s).length then s
  else if s.leader then
    if n == oldestUnsealed s && n < s.iv && !s.sealing.rolling then sealDown (sealInterval s n) 3 n else s
  else sealUp s 2 n

/-- SEAL_CONDITION_MET (R347): this device's own conditions of a closed interval hold. -/
def execSealConditionMet (iv : Nat) (s : State) : Host.Outcome State Fault Refusal :=
  if !sealReady s iv || s.sealing.doneSent.contains iv then .next s
  else .next (tryDone { s with sealing := { s.sealing with doneSent := s.sealing.doneSent ++ [iv] } } iv)

/-- SEAL_DONE (R347, R391): a device below is done. -/
def execSealDone (p : Packet) (s : State) : Host.Outcome State Fault Refusal :=
  if !isSeal s p 2 then .next s
  else
    let s := coreInterrupt (takeSealMsg s p) 6
    if p.iv ≤ s.sealed || s.sealing.dones.contains (p.iv, p.src) then .next s
    else .next (tryDone { s with sealing := { s.sealing with dones := s.sealing.dones ++ [(p.iv, p.src)] } } p.iv)

/-- SEAL_SEALED (R347). -/
def execSealSealed (p : Packet) (s : State) : Host.Outcome State Fault Refusal :=
  if !isSeal s p 3 then .next s
  else
    let s := coreInterrupt (takeSealMsg s p) 6
    if p.iv == oldestUnsealed s && p.iv < s.iv then .next (sealDown (sealInterval s p.iv) 3 p.iv) else .next s

/-- The place of a fault or notice that no unit raises. -/
def contextSite (s : State) (x : Nat) : FaultRec := { die := homeOf s x, cl := (s.region (regKey x 0)).origin, tarn := 0xFE }

/-- SEAL_TIMEOUT (R348): every context with an unfinished task of the oldest closed interval gets a notice, once. -/
def execSealTimeout (s : State) : Host.Outcome State Fault Refusal :=
  let n := oldestUnsealed s
  let lim := wbits (s.devReg 0x302) 31 0
  match tabGet? s.sealing.closedAt n with
  | none => .next s
  | some t =>
    if lim == 0 || s.clk ≤ t + lim * 1024 || s.sealing.told.contains n then .next s
    else
      let xs := (s.tasks.filter fun q => q.iv == n).foldl (fun l t => setAdd l t.ctx) []
      let s := { s with sealing := { s.sealing with told := s.sealing.told ++ [n] } }
      .next (xs.foldl (fun s x => takeNotice s x 0x60 { contextSite s x with iv := n }) s)

/-! ### Discarding work (R350, R354) -/

/-- Everything that waits for a firing of some units is withdrawn. -/
def dropFirings (s : State) (us : List Nat) : State :=
  let gone := fun (f : FireRef) => us.contains f.u
  { s with
    holds := s.holds.filter (fun h => !gone h.f || s.pend.any (fun p => p.eff == Eff.hold h.id)), oaWaits := s.oaWaits.filter (fun w => !gone w.f)
    walks := s.walks.filter (fun w => match w.who with | .fire f => !gone f | _ => true)
    pools := s.pools.map fun (p : Nat × Pool) => (p.1, { p.2 with waits := p.2.waits.filter fun w =>
      match w.asker with | .fire f _ => !gone f | _ => true })
    dies := s.dies.map fun (d : Nat × Die) => (d.1, { d.2 with leaves := d.2.leaves.filter fun l =>
      match l.who with | .mmaOne f _ => !gone f | .inst f _ => !gone f | .kseq u _ => !us.contains u | _ => true }) }

/-- Released operations that a test selects are discarded, and count for nothing. -/
def dropPends (s : State) (out : Pend → Bool) : State :=
  let ids := (s.pend.filter out).map (·.id)
  { s with
    pend := s.pend.filter (fun p => !out p), outstanding := s.outstanding.filter (fun k => !ids.contains k)
    stages := s.stages.filter (fun g => match g.who with | .kload k => !ids.contains k | _ => true)
    pools := s.pools.map fun (p : Nat × Pool) => (p.1, { p.2 with waits := p.2.waits.filter fun w =>
      match w.asker with | .pend k => !ids.contains k | _ => true }) }

/-- The staged effects of a region's running blocks count for nothing. -/
def dropStaged (s : State) (us : List Nat) : State :=
  let ids := us.flatMap fun u => (s.unit u).plane.ops.flatMap fun o => o.2.firings.flatMap fun g => g.staged.map (·.id)
  { s with outstanding := s.outstanding.filter fun k => !ids.contains k }

/-! ### Rollback (R350) -/

/-- Apply the undo entries of a die above t, the newest interval first. -/
def undoDie (s : State) (t d : Nat) : State :=
  let es := sortBy (fun (a b : Undo) => a.iv > b.iv) ((s.die d).undo.filter fun e => e.iv > t)
  let s := s.modDie d fun v => { v with undo := v.undo.filter fun e => e.iv ≤ t }
  es.foldl (fun s e =>
    let s := physPut s e.line e.data
    { s with poison := if e.poison then setAdd s.poison e.line else s.poison.filter (· ≠ e.line) }) s

/-- A pool as it was, with the partials and node values of intervals up to t that have come since (R187). Reads and settles
that wait go on waiting. -/
def rolledPool (t : Nat) (was now : Pool) : Pool :=
  let same := fun (q r : Partial) => q.idx == r.idx && q.gen == r.gen
  let old := was.parts.filter (·.iv ≤ t)
  let new := now.parts.filter fun q => q.iv ≤ t && q.gen ≥ was.gen && !old.any (same q)
  { was with parts := old ++ new, waits := now.waits, sent := [], remotes := now.remotes.filter (·.iv ≤ t) }

/-- The pools of a context go back (R186, R187): those dropped since are there again, those declared since are not. -/
def restorePoolSnap (s : State) (t : Nat) (v : Snap) : State :=
  let x := v.ctx
  let others := s.pools.filter fun (p : Nat × Pool) => p.1 / 512 ≠ x
  let back := v.pools.map fun (p : Nat × Pool) => (p.1, rolledPool t p.2 ((tabGet? s.pools p.1).getD {}))
  let s : State := { s with pools := back.foldl (fun (l : Tab Pool) (p : Nat × Pool) => tabSet l p.1 p.2) others }
  setUsed s x 0x15 ((back.map fun p => p.2.resv).sum)

/-- A group as it was (R311): a table that a launch which stays has pinned keeps what it holds (log 110). -/
def rolledGroup (s : State) (was now : Group) : Group :=
  let keep := fun (t : Nat) (g : Group) => if tabPinned s now.ctx now.addr t then g.setTab t (now.tab t) else g
  keep 0 (keep 1 was)

/-- The number of a context's next launch (R311): as it was, past those of the launches made since that stay (log 110). -/
def rolledLaunchNo (s : State) (x was : Nat) : Nat :=
  let past := fun (l : Launch) => (l.num + 2 ^ 32 - was) % 2 ^ 32
  (s.launches.filter fun l => l.ctx == x && past l < 2 ^ 31).foldl (fun n l => max n (was + past l + 1)) was % 2 ^ 32

/-- A context's registers, counters, pools, groups and launch numbers go back to what they were before interval t + 1 (R143,
R187, R236, R311). -/
def restoreSnap (s : State) (t : Nat) (v : Snap) : State :=
  let x := v.ctx
  let reg := fun (n : Nat) => (tabGet? v.regs n).getD 0
  let keep := 0x11 :: upFrom 0x40 48
  let no := rolledLaunchNo s x v.launchNo
  let s := s.modCtx x fun c => { c with
    regs := keep.foldl (fun r n => if (tabGet? r n).getD 0 == reg n then r else tabSet r n (reg n)) c.regs
    tl := v.tl, rel := v.rel, launchNo := no }
  let s := restorePoolSnap s t v
  let old := fun (g : Group) => v.groups.find? fun h => h.addr == g.addr
  { s with groups := s.groups.map fun (g : Group) => if g.ctx == x then (match old g with | some h => rolledGroup s h g | none => g) else g }

/-- The F task of a context above t is discarded (R290): its regions are freed, and a save area is forgotten. -/
def discardTask (s : State) (x : Nat) : State :=
  let ks := taskRegions s x ++ (((s.ctx x).task.map (·.regs)).getD [])
  let ks := ks.foldl setAdd []
  let us := ks.flatMap fun k => (s.region k).units
  let s := dropStaged (dropFirings s us) us
  let s := ks.foldl freeRegion s
  let s := s.setCtx x 1 0
  s.modCtx x fun c => { c with st := .idle, task := none, saved := none, pends := [], preempt := false, resume := false }

/-- Whether a context moves to idle at a rollback to t (R290). -/
def rollsBack (s : State) (x t : Nat) : Bool :=
  match (s.ctx x).st with
  | .stopped => true
  | .running | .checkpointing | .saved | .resuming => (s.ctxReg x 1).toNat > t
  | _ => false

/-- A launch as a rollback to t leaves it (R311, R321): its re-dispatched nodes are ready, and the counts of the others
follow from the nodes that stay complete. -/
def rolledLaunch (l : Launch) (redo : List Nat) (t : Nat) : Launch :=
  let nodes := l.nodes.map fun (n : Nat × LNode) => if redo.contains n.1 then (n.1, { n.2 with st := NodeSt.ready }) else n
  let complete := fun (k : Nat) => (tabGet? nodes k).any fun n => n.st == NodeSt.complete
  let nodes := nodes.map fun (n : Nat × LNode) =>
    if n.2.st == NodeSt.waiting || (n.2.st == NodeSt.ready && !redo.contains n.1 && !l.hostFed) then
      let left := n.2.nrec.pred - (nodes.filter fun m => complete m.1 && m.2.nrec.succ.contains n.1).length
      (n.1, { n.2 with left := left, st := if left == 0 then NodeSt.ready else NodeSt.waiting, noPlace := n.2.noPlace && left == 0 })
    else n
  { l with
    nodes := nodes, ivs := l.ivs.filter (· ≤ t), ended := nodes.all fun n => n.2.st == NodeSt.complete
    pinned := nodes.any fun n => n.2.st == NodeSt.waiting || n.2.st == NodeSt.ready }

/-- The launches, and the groups they staged, of tasks of intervals above t go (R311, R350); a group that a launch which stays
uses is kept (log 110). -/
def dropLaunches (s : State) (t : Nat) : State :=
  let ls := s.launches.filter fun (l : Launch) => l.born ≤ t
  { s with
    tasks := s.tasks.filter (fun (q : Task) => q.iv ≤ t)
    outstanding := s.outstanding.filter (fun k => !((s.tasks.filter fun (q : Task) => q.iv > t).any fun q => q.id == k))
    launches := ls
    groups := s.groups.filter fun (g : Group) => g.born ≤ t || ls.any fun (l : Launch) => l.ctx == g.ctx && l.group == g.addr }

/-- The group engines go back (R350 step 5): journaled tasks wait to be dispatched again, and list heads move into the pools
as entries free (R313). -/
def rollGroups (s : State) (t : Nat) : State :=
  let alive := fun (id : Nat) => (launch? s id).isSome
  let redo : Nat → List Nat := fun id => s.dies.flatMap fun (d : Nat × Die) =>
    (d.2.journal.filter fun (j : Journal) => j.launch == id && (j.iv > t || j.iv == 0)).map (·.node)
  let ls : List Launch := s.launches.map fun (l : Launch) => rolledLaunch l (redo l.id) t
  let s := { s with
    launches := ls
    patches := s.patches.filter (fun (p : Patch) => p.opId.isNone)
    dies := s.dies.map fun (d : Nat × Die) =>
      (d.1, { d.2 with
        journal := (d.2.journal.filter fun (j : Journal) => alive j.launch).map fun (j : Journal) => if j.iv > t then { j with iv := 0 } else j
        ready := d.2.ready.filter fun (e : Ready) =>
          (ls.find? fun (l : Launch) => l.id == e.launch).any fun (l : Launch) => (tabGet l.nodes e.node).st == NodeSt.ready && !(redo e.launch).contains e.node }) }
  let xs := s.launches.foldl (fun l (q : Launch) => setAdd l q.ctx) (s.groups.foldl (fun l (g : Group) => setAdd l g.ctx) [])
  let s := xs.foldl countArea s
  enterWaiting ((upFrom 0 8).foldl refillPool s)

/-- Packets numbered again from k up. -/
def renumber (k : Nat) : List Sent → List Sent
  | [] => []
  | x :: r => { x with pkt := { x.pkt with flow := k } } :: renumber (k + 1) r

/-- Flows after a rollback to t (R393): sends above it are gone, and numbers start from 0 again. -/
def rollFlows (s : State) (t : Nat) : State :=
  let s := { s with
    flows := s.flows.map fun (f : Flow) =>
      let keep : List Sent := renumber 0 (f.unacked.filter fun (x : Sent) => x.pkt.iv ≤ t)
      { f with unacked := keep, next := keep.length, stuck := none, told := false, off := false }
    flowsIn := [], shore := [], rx := s.rx.filter (fun (t : ShoreTok) => t.pkt.typ == pkVALUE), mcAcks := []
    linkJobs := s.linkJobs.map fun (l : Nat × List LinkJob) => (l.1, l.2.filter fun (j : LinkJob) => j.iv ≤ t) }
  s.flows.foldl resendFlow s

/-- Leave of copy jobs and loads that are gone ends (R404). -/
def sweepLeaves (s : State) : State :=
  let alive := fun (l : Leave) => match l.who with
    | .copy d _ e id => (jobsOf s d e).any fun j => j.id == id
    | .load d _ t => s.stages.any fun g => g.die == d && g.who == .task t
    | _ => true
  { s with dies := s.dies.map fun (d : Nat × Die) => (d.1, { d.2 with leaves := d.2.leaves.filter alive }) }

/-- A rollback to t on this device (R350), steps 1 to 5. What stores replaced before it is read no more (log 86). -/
def rollBackTo (s : State) (t : Nat) : State :=
  let s := dropPends s fun (p : Pend) => p.own.iv > t
  let s := { s with dies := s.dies.map fun (d : Nat × Die) =>
    (d.1, { d.2 with engines := d.2.engines.map fun (e : Nat × List Job) => (e.1, e.2.filter fun (j : Job) => j.own.iv ≤ t) }) }
  let s := rollFlows s t
  let s := (upFrom 0 8).foldl (fun s d => undoDie s t d) s
  let s := { s with
    dies := s.dies.map fun (d : Nat × Die) => (d.1, { d.2 with egress := d.2.egress.filter fun (e : Egress) => e.iv ≤ t })
    outstanding := s.outstanding.filter fun k => !(s.pools.any fun p => p.2.parts.any fun q => q.op == some k && q.iv > t)
    pools := s.pools.map fun (p : Nat × Pool) =>
      (p.1, { p.2 with parts := p.2.parts.filter (fun (q : Partial) => q.iv ≤ t), remotes := p.2.remotes.filter fun (r : RemoteNode) => r.iv ≤ t }) }
  let xs := (s.ctxs.map Prod.fst).filter fun x => rollsBack s x t
  let s : State := { s with stages := s.stages.filter fun (g : Stage) => match g.who with
    | .task k => !(s.tasks.any fun q => q.id == k && q.iv > t)
    | .resume x | .call x _ => !xs.contains x
    | _ => true }
  let s := xs.foldl discardTask s
  let s := dropLaunches s t
  let s := s.ctxs.foldl (fun s c =>
    match (sortBy (fun (a b : Snap) => a.iv < b.iv) (s.snaps.filter fun v => v.ctx == c.1 && v.iv > t)).head? with
    | some v => restoreSnap s t v
    | none => s) s
  let s := { s with snaps := s.snaps.filter fun v => v.iv ≤ t }
  let r := s.devReg 0x304
  let s := s.setDev 0x304 (BitVec.ofNat 64 (satAt 0xFFFF (wbits r 63 48 + 1) * 2 ^ 48 + t))
  let s := s.setDev 0x300 (BitVec.ofNat 64 (t + 1))
  let q := s.sealing
  let s := { s with sealing := { q with
    asked := false, dones := q.dones.filter (fun v => v.1 ≤ t), doneSent := q.doneSent.filter (· ≤ t), rolling := false
    closedAt := q.closedAt.filter (fun v => v.1 ≤ t), told := q.told.filter (· ≤ t)
    tries := if q.lastTarget == some t then q.tries + 1 else 1, lastTarget := some t } }
  sweepLeaves (touchAll (rollGroups { s with hist := [] } t))

/-- A rollback, or the stop that takes its place when it would be the third in succession to one target (R350): it stops
every context with a task dispatched in an interval above t, complete or not (R364, log 39). -/
def rollBack (s : State) (t : Nat) : State :=
  let s := { s with ctxs := s.ctxs.map fun (c : Nat × Ctx) => (c.1, { c.2 with rolls := false }) }
  if s.sealing.lastTarget == some t && s.sealing.tries ≥ 2 then
    let live := (s.tasks.filter fun q => q.iv > t).foldl (fun l q => setAdd l q.ctx) []
    let xs := s.dies.foldl (fun l (d : Nat × Die) => (d.2.journal.filter fun j => j.iv > t).foldl (fun l j => setAdd l j.ctx) l) live
    let s := { s with sealing := { s.sealing with rolling := false } }
    (xs.filter fun x => (s.ctx x).st ≠ .free).foldl (fun s x =>
      (stopWith s x fPOISON (contextSite s x)).modCtx x fun c => { c with st := .stopped }) s
  else rollBackTo s t

/-- SEAL_ROLLBACK (R350, R391): at the leader a request fixes the target dev.sealed; ROLLBACK t from the link toward the
leader is carried out and passed on; a request from below is passed up. -/
def execSealRollback (p : Packet) (s : State) : Host.Outcome State Fault Refusal :=
  if !isSeal s p 4 then .next s
  else
    let s := coreInterrupt (takeSealMsg s p) 6
    if s.leader then
      let t := s.sealed
      .next (sealDown (rollBack s t) 4 t)
    else if p.src == (s.link (wbits (s.devReg 0x311) 4 0)).peer then .next (sealDown (rollBack s p.iv) 4 p.iv)
    else .next (sealUp s 4 p.iv)

/-! ### Region replay (R353, R354) -/

/-- Whether the active plane of a region may be replayed. -/
def mayReplay (s : State) (k : Nat) : Bool :=
  let r := s.region k
  r.kref.isSome && (((s.ctx r.ctx).task.map (·.idem)).getD false) && !r.nonIdem && !r.thawed && r.replays < 3
    && r.clusters.all fun c => (s.unit (tarn0 r.die c)).plane.ports.all fun p => !springPort p.1 || !p.2.bufFull

/-- The active plane goes: tokens, firings, streams that instructions started, and what waits for them. -/
def dropPlaneWork (s : State) (k : Nat) : State :=
  let r := s.region k
  let act := (r.kref.getD {}).act
  let us := r.units
  let s := dropStaged (dropFirings s us) us
  let s := dropPends s fun p => p.own.reg == k && p.own.act == act && (effCl p.eff).isSome
  let s := r.clusters.foldl (fun s c =>
    let s := (upFrom 0 19).foldl (fun s p => endStream s r.die c p) s
    ((s.cluster r.die c).queue.filter fun m => m.own.reg == k && m.own.act == act).foldl (fun s m => cmdDone s r.die c m.id) s) s
  let inner := fun (a : Agent) => match a with
    | .oper u _ => us.contains u
    | .port d c _ => us.contains (tarn0 d c)
    | .arbiter x q => x == r.ctx && q == k
    | _ => false
  let s := { s with
    flight := s.flight.filter (fun f => !(us.contains (destAt f.dst) && inner f.src))
    dies := s.dies.map fun (d : Nat × Die) => (d.1, { d.2 with egress := d.2.egress.filter fun e => !(e.own.reg == k && e.own.act == act) }) }
  let s := (upFrom 0 16).foldl (fun s b => if (bar s k b).depth == depthOf s k then resetBarrier s k b else s) s
  let s := endSequences s r.die us
  s.modRegion k fun r =>
    { r with
      calls := r.calls.filter (fun c => c.act ≠ act), tagReqs := [], phase := .run
      lists := r.lists.map fun l => (l.1, { l.2 with live := l.2.live.filter (fun i => !l.2.since.contains i), cursor := l.2.cur0, since := [] }) }

/-- A tier-2 fault of a region, counted against its cluster 0 (R353; log 66). -/
def countFault (s : State) (x k : Nat) : State := countAt s x (s.region k).die ((s.region k).cluster 0)

/-- REGION_REPLAY (R353, R354): a tier-2 fault of a region; it replays, or escalates. -/
def execRegionReplay (ctx reg code : Nat) (s : State) : Host.Outcome State Fault Refusal :=
  let k := if reg / 64 == ctx then reg else regKey ctx reg
  let r := s.region k
  match r.kref with
  | none => .next s
  | some kr =>
    let site : FaultRec := { die := r.die, cl := r.cluster 0, attempt := r.replays }
    let s := countFault s ctx k
    if !mayReplay s k then .next (takeFault s ctx 0 fREPLAY site)
    else
      match imageOf s r.die ctx kr.image with
      | none => .next (takeFault s ctx 0 fREPLAY site)
      | some img =>
        let s := writeRecord s ctx { site with code := code, outcome := 3 }
        let s := dropPlaneWork s k
        let s := s.modRegion k fun r => { r with replays := r.replays + 1 }
        .next (activate s k img kr .dispatch (((s.ctx ctx).task.map (·.id)).getD 0) true true [])

/-! ### Cluster retirement (R356) -/

/-- The quadrant of a cluster: four of 4 × 4 (R11). -/
def quadrant (c : Nat) : Nat := c / 32 * 2 + c % 8 / 4
/-- Whether a quadrant's spare has been taken. -/
def spareTaken (s : State) (d q : Nat) : Bool := s.clTab.any fun e => e.1 / 64 == d && quadrant (e.1 % 64) == q && e.2.spare

/-- The contexts with a region on a cluster. -/
def clusterCtxs (s : State) (d c : Nat) : List Nat :=
  (s.regions.filter fun r => r.2.die == d && r.2.clusters.contains c && (s.ctx r.2.ctx).st ≠ .free).foldl (fun l r => setAdd l r.2.ctx) []

/-- CLUSTER_RETIREMENT (R356): the contexts on the cluster are pre-empted; once none runs on it, a spare of its quadrant
takes its place, or it goes out of service. -/
def execClusterRetirement (die cl : Nat) (s : State) : Host.Outcome State Fault Refusal :=
  let c := clKey die cl
  if !s.fw.retire.contains c then .next s
  else
    let xs := clusterCtxs s die cl
    let s := xs.foldl startPreempt s
    if xs.any fun x => let st := (s.ctx x).st; st == .running || st == .checkpointing || st == .resuming then .next s
    else
      let s := { s with fw := { s.fw with retire := s.fw.retire.filter (· ≠ c) } }
      let s := if spareTaken s die (quadrant cl) then
          let s := { s with clTab := tabMod s.clTab c fun v => { v with out := true, spare := false } }
          let s := { s with regions := s.regions.map fun r =>
            if r.2.die == die && r.2.clusters.contains cl then (r.1, { r.2 with outOfService := true }) else r }
          xs.foldl (fun s x => takeNotice s x fPERM { die := die, cl := cl, tarn := 0xFE }) s
        else { s with clTab := tabMod s.clTab c fun v => { v with spare := true } }
      .next (xs.foldl (fun s x => s.modCtx x fun v => if v.st == .saved then { v with resume := true } else v) s)

end Sys2Proof.Machine
end

