-- ==== Sys2Proof/Machine/Pages.lean ====
section
/-! DEFINITION. Table walks, invalidations and pending faults (R365-R376). -/

namespace Sys2Proof.Machine

/-! ### Who a walk's fault finds (R367, R375) -/

/-- The first job of a link engine. -/
def linkHead (s : State) (n : Nat) : Option LinkJob := (tabGet s.linkJobs n).head?

/-- A link engine's job is over without its node completing: the code is recorded to its context (R390). -/
def linkJobFault (s : State) (n : Nat) (j : LinkJob) (code : Nat) (addr : Word) : State :=
  let s := { s with linkJobs := tabMod s.linkJobs n fun l => l.filter fun k => k.id ≠ j.id }
  takeFault s j.ctx 0 code { die := homeOf s j.ctx, tarn := 0xFE, addr := addr, iv := j.iv }

/-- The fault of a walk goes against the access that caused it: a firing's block aborts, a stream, job or transfer
pauses or ends. An access that is gone takes no fault. -/
def chargeWalk (s : State) (w : Walk) (code : Nat) (addr : Word) : State :=
  let waits := code == fXLATE
  match w.who with
  | .fire f =>
    match s.firing? f with
    | some g => if g.st == .running && g.started then blockFault s f w.slot code addr else s
    | none => s
  | .port d c p =>
    let u := tarn0 d c
    if (s.port d c p).stream.isNone || s.ctxOf u ≠ w.ctx then s
    else if waits then portWaits (takeFault s w.ctx u code { portSite s d c p with addr := addr }) d c p w.va
    else portFault s d c p code addr
  | .engine d e =>
    match (jobsOf s d e).head? with
    | none => s
    | some j =>
      if waits then takeFault s j.own.ctx 0 code { engineSite d j.cl with addr := addr, iv := j.own.iv }
      else jobFault s d e j code addr
  | .link n =>
    match linkHead s n with
    | none => s
    | some j =>
      if waits then takeFault s j.ctx 0 code { die := homeOf s j.ctx, tarn := 0xFE, addr := addr, iv := j.iv }
      else linkJobFault s n j code addr
  | .pend k =>
    match s.pend.find? fun p => p.id == k with
    | none => s
    | some p =>
      let s' := takeFault s p.own.ctx (agentUnit p.who) code { pendSite p with addr := addr }
      if waits then s' else dropPend s' k
  | .other => s

/-! ### Pending entries (R376) -/

/-- The page of an address. -/
def pageOf (va : Nat) : Nat := va % 2 ^ 56 / 65536 * 65536

/-- Change the pending entry of a page. -/
def modPending (s : State) (x va : Nat) (f : PendFault → PendFault) : State :=
  s.modCtx x fun c => { c with pends := listMod (fun p => p.va == pageOf va) f c.pends }
/-- A pending entry ends. -/
def dropPending (s : State) (x va : Nat) : State :=
  s.modCtx x fun c => { c with pends := c.pends.filter fun p => p.va ≠ pageOf va }

/-- Whether a walk is the retry of a pending entry. -/
def isRetry (s : State) (w : Walk) : Bool :=
  w.who == .other && (s.ctx w.ctx).pends.any fun p => p.va == pageOf w.va && p.retrying

/-- A retry's walk ends (R376): the entry goes, or is pending again with a new record, of the access that made the
entry. Any other fault finds each joined
access when that access walks again. -/
def retryDone (s : State) (w : Walk) (r : XRes) : State :=
  match r with
  | .fault c l =>
    if c == fXLATE then
      let s := modPending s w.ctx w.va fun p => { p with retrying := false }
      match (s.ctx w.ctx).pends.find? fun p => p.va == pageOf w.va with
      | some p => writeRecord (countXlate s w.ctx) w.ctx { p.site with addr := xAddr w.va w.kind l }
      | none => s
    else dropPending s w.ctx w.va
  | _ => dropPending s w.ctx w.va

/-- TABLE_WALK_DONE (R365, R367-R369, R375): walk k ends; its leaf is installed, or its fault taken. -/
def execTableWalkDone (k : Nat) (s : State) : Host.Outcome State Fault Refusal :=
  match s.walks.find? fun w => w.id == k with
  | none => .next s
  | some w =>
    let s := { s with walks := s.walks.filter fun v => v.id ≠ k }
    let (r, s) := walkNow s w.die w.ctx w.va w.kind w.who.fabric w.img
    if isRetry s w then .next (retryDone s w r)
    else
      match r with
      | .fault c l => .next (chargeWalk s w c (xAddr w.va w.kind l))
      | _ => .next s

/-! ### ctx.tlbi (R373, R374) -/

/-- The physical range that a TLB entry maps. -/
def tlbRange (t : Tlb) : Nat × Nat := (leafPA t.leaf.toNat t.lvl t.va, t.size)

/-- The physical places a released or staged operation was translated to at issue. -/
def effPlaces (s : State) : Eff → List Nat
  | .store (.mem pa) bs _ _ => [pa, pa + (bs.length - 1)]
  | .hold k => match s.holds.find? fun h => h.id == k with
    | some h => (match h.loc with | Loc.mem pa => [pa] | _ => [])
    | none => []
  | .cwb ls _ | .cinv ls _ => ls
  | .irrev pa _ => [pa]
  | .pexp _ _ _ _ _ segs => segs.filterMap fun g => match g.1 with | .mem pa => some pa | _ => none
  | _ => []

/-- Whether one of some places lies in a dropped entry. -/
def inDropped (ts : List Tlb) (ps : List Nat) : Bool :=
  ts.any fun t => let r := tlbRange t; ps.any fun p => r.1 ≤ p && p < r.1 + r.2

/-- The operations that wait, at any remove, for one of some operations. -/
def dependents (s : State) : Nat → List Nat → List Nat
  | 0, ks => ks
  | n + 1, ks => dependents s n (setUnion ks ((s.pend.filter fun p => p.deps.any ks.contains).map (·.id)))

/-- The accesses that were translated through dropped entries and have not performed (R374): what waits for the write
itself is not among them. -/
def invWaits (s : State) (x : Nat) (ts : List Tlb) (opId : Option Nat) : List Nat :=
  let later := dependents s s.pend.length opId.toList
  let released := (s.pend.filter fun p => p.own.ctx == x && inDropped ts (effPlaces s p.eff)).map (·.id)
  let staged := (s.units.filter fun u => s.ctxOf u.1 == x).flatMap fun u => u.2.plane.ops.flatMap fun o =>
    o.2.firings.flatMap fun g => (g.staged.filter fun t => inDropped ts (effPlaces s t.eff)).map (·.id)
  (released ++ staged).filter fun k => !later.contains k

/-- Retry the pending entries that a write covers (R376): one new walk each. -/
def retryPending (s : State) (x : Nat) (all : Bool) (va : Nat) : State :=
  ((s.ctx x).pends.filter fun p => !p.retrying && (all || p.va == pageOf va)).foldl (fun s p =>
    let (k, s) := s.newKey
    let s := modPending s x p.va fun p => { p with retrying := true }
    { s with walks := s.walks ++ [{ id := k, die := homeOf s x, ctx := x, va := p.site.addr.toNat % 2 ^ 56, kind := bits p.site.addr.toNat 57 56, who := .other }] }) s

/-- A write of ctx.tlbi (R373, R374, R376): entries are dropped, pending faults retried, and the write is complete when
no access through a dropped entry is left. -/
def tlbiWrite (s : State) (x : Nat) (val : Word) (opId : Option Nat) : State :=
  let all := wbit val 63
  let va := wbits val 55 16 * 65536
  let hit := fun (t : Tlb) => t.ctx == x && (all || (t.va ≤ va && va < t.va + t.size))
  let gone := s.tlbs.filter hit
  let s := { s with tlbs := s.tlbs.filter fun t => !hit t }
  let s := if wbit val 62 then retryPending s x all va else s
  let (k, s) := s.newKey
  { s with invs := s.invs ++ [{ id := k, ctx := x, opId := opId, wait := invWaits s x gone opId }] }

/-- TLBI_COMPLETE (R374): the accesses have performed, and the swr's completion is met. -/
def execTlbiComplete (k : Nat) (s : State) : Host.Outcome State Fault Refusal :=
  match s.invs.find? fun v => v.id == k with
  | none => .next s
  | some v =>
    if !(s.live v.wait).isEmpty then .next s
    else
      let s := { s with invs := s.invs.filter fun w => w.id ≠ k }
      match v.opId with
      | some n => .next (dropPend s n)
      | none => .next s

end Sys2Proof.Machine
end

