-- ==== Sys2Proof/Machine/Link.lean ====
section
/-! DEFINITION. Dyvis links (R377-R393): link states, remote sends, what a device does with a packet it receives, and the
link engines. -/

namespace Sys2Proof.Machine

/-! ### Link states (R380, R381, R393) -/

/-- The lanes of a lane set. -/
def lanesOf (mask : Nat) : Nat := countOnes 8 (mask % 256)
/-- MINW as a number of lanes (R380). -/
def minLanes (s : State) (n : Nat) : Nat :=
  match wbits (s.devReg (0x320 + n)) 21 20 with | 0 => 8 | 1 => 4 | _ => 2
/-- dev.lctlN QERR. -/
def quarantineAt (s : State) (n : Nat) : Nat := wbits (s.devReg (0x320 + n)) 15 0

/-- The state of a usable link by its lanes. -/
def stateOfLanes (mask : Nat) : LinkSt := if lanesOf mask == 8 then .up else .degraded

/-- The flows whose packets go out on a link. -/
def flowsVia (s : State) (n : Nat) : List Flow := s.flows.filter fun f => !f.mc && f.dev ≠ s.devId && f.unacked.any fun x => firstHop s f.dev x.links == some n

/-- A link stops being usable (R393): what was sent on it and not acknowledged goes again by another way, or waits. -/
def loseLink (s : State) (n : Nat) (st : LinkSt) : State :=
  let fs := flowsVia s n
  let s := s.modLink n fun l => { l with st := st }
  let s := fs.foldl (fun s f => if flowWay s f then resendFlow s f else s) s
  coreInterrupt (reviewFlows s) 4

/-- A link's mode of bring-up becomes the written one; dev.duty shows it once no link in use has the other (R18, log 113). -/
def switchLink (s : State) (n : Nat) : State :=
  let s := s.modLink n fun l => { l with host := wbit (s.devReg 0x305) 4 }
  let inUse := fun (l : Link) => l.st ≠ .off && l.st ≠ .down
  if s.links.all fun l => l.1 == n || !inUse l.2 || l.2.host == wbit (s.devReg 0x305) 4 then switchDuty s 4 else s

/-- A link starts training (R381): the switch point of its bring-up (R18). -/
def trainLink (s : State) (n : Nat) : State := coreInterrupt ((switchLink s n).modLink n fun l => { l with st := .train }) 4

/-- A command of dev.lctlN (R380, R381). -/
def linkCmd (s : State) (n cmd : Nat) : State :=
  let l := s.link n
  match cmd, l.st with
  | 1, .off | 1, .down => trainLink s n
  | 2, .up | 2, .degraded => loseLink s n .off
  | 2, .train | 2, .quiet | 2, .down => coreInterrupt (s.modLink n fun l => { l with st := .off }) 4
  | 3, .quiet => trainLink (s.modLink n fun l => { l with retries := 0, window := 0 }) n
  | 4, .up | 4, .degraded =>
    if lanesOf l.lanes ≥ minLanes s n then s.modLink n fun l => { l with st := stateOfLanes l.lanes } else s
  | _, _ => s

/-- LINK_TRAINED (R381): training ends with the lanes that work and the peer found. -/
def execLinkTrained (n lanes peer peerLink rtt : Nat) (s : State) : Host.Outcome State Fault Refusal :=
  if n ≥ 18 || (s.link n).st ≠ .train then .next s
  else
    if lanesOf lanes < minLanes s n then .next (coreInterrupt (s.modLink n fun l => { l with st := .down }) 4)
    else
      let s := s.modLink n fun l =>
        { l with st := stateOfLanes lanes, lanes := lanes % 256, peer := peer % 4096, peerLink := peerLink % 32, rtt := rtt, seen := s.clk
                 window := 0, flits := 0 }
      .next (coreInterrupt (reviewFlows s) 4)

/-- LANE_LOST (R381): the link goes on with the lanes left, or is down. -/
def execLaneLost (n lanes : Nat) (s : State) : Host.Outcome State Fault Refusal :=
  let left := (s.link n).lanes &&& lanes
  if n ≥ 18 || !linkUsable s n || left == (s.link n).lanes then .next s
  else
    let s := s.modLink n fun l => { l with lanes := left }
    if lanesOf left < minLanes s n then .next (loseLink s n .down)
    else .next (coreInterrupt (s.modLink n fun l => { l with st := stateOfLanes left }) 4)

/-- LINK_QUARANTINE (R381): QERR retransmissions in 2^20 flits. -/
def execLinkQuarantine (n : Nat) (s : State) : Host.Outcome State Fault Refusal :=
  if n < 18 && linkUsable s n && quarantineAt s n ≠ 0 && (s.link n).window ≥ quarantineAt s n then .next (loseLink s n .quiet)
  else .next s

/-- PEER_SILENT_TIMEOUT (R381). -/
def execPeerSilentTimeout (n : Nat) (s : State) : Host.Outcome State Fault Refusal :=
  if n < 18 && linkUsable s n && s.clk ≥ (s.link n).seen + 1048576 then .next (loseLink s n .down) else .next s

/-- RETRIES rises, saturating (R380). -/
def countRetry (s : State) (n : Nat) : State := s.modLink n fun l => { l with retries := satAt 0xFFFF (l.retries + 1) }

/-- FLIT_RETRANSMIT (R379, R381). -/
def execFlitRetransmit (n : Nat) (s : State) : Host.Outcome State Fault Refusal :=
  if n < 18 && linkUsable s n then .next ((countRetry s n).modLink n fun l => { l with window := l.window + 1 }) else .next s

/-- LINK_FLOW_TIMEOUT (R393): a flow has waited 2^20 cycles for a usable link; each sending context
gets one notice. -/
def execLinkFlowTimeout (k : Nat) (s : State) : Host.Outcome State Fault Refusal :=
  match s.flows.find? fun f => f.id == k with
  | none => .next s
  | some f =>
    match f.stuck with
    | none => .next s
    | some t =>
      if f.told || s.clk < t + 1048576 then .next s
      else
        let s := { s with flows := listMod (fun g => g.id == k) (fun g => { g with told := true }) s.flows }
        let xs := f.unacked.foldl (fun l x => match x.src with | some y => setAdd l y | none => l) []
        .next (xs.foldl (fun s y =>
          let who := ((f.unacked.find? fun x => x.src == some y).map (·.who)).getD .none
          takeNotice s y 0x80 { pendSite { who := who } with addr := BitVec.ofNat 64 f.dev }) s)

/-! ### Remote routes (R382-R384) -/

/-- A remote route entry read out (R382). -/
structure Route where
  dev   : Nat := 0
  mc    : Bool := false
  ctx   : Nat := 0
  route : Nat := 0
  links : Nat := 0
  deriving DecidableEq, Repr, Inhabited

/-- The entry's fields; none when a zero field is not zero. -/
def routeOf (b : List Byte) : Option Route :=
  let d := fld b 0 2
  let mc := d / 2 ^ 15 == 1
  if !zeros b 3 1 || !zeros b 12 4 || fld b 4 4 / 2 ^ 22 ≠ 0 || fld b 8 4 / 2 ^ 18 ≠ 0 || (if mc then bits d 14 8 else bits d 14 12) ≠ 0
  then none
  else some { dev := if mc then d % 256 else d % 4096, mc := mc, ctx := fld b 2 1, route := fld b 4 4, links := fld b 8 4 }

/-- The virtual address of entry k of a context's table. -/
def routeVA (s : State) (x k : Nat) : Nat := wbits (s.ctxReg x 0x23) 55 8 * 256 + 16 * k

/-- Whether a send of a context to a group is permitted: only at its root (R384). -/
def groupRoot (s : State) (g : Nat) : Bool := mcIn (groupEntry s g) == 31

/-- The route of a send, or the fault of its out (R382, R384, R158). -/
inductive RouteRes where
  | ok (r : Route) (s : State)
  | fault (code : Nat) (addr : Word) (s : State)
  deriving Repr

/-- Read the route of entry k (R382): it is read when a send performs. -/
def readRoute (s : State) (d x k : Nat) : RouteRes :=
  let va := routeVA s x k
  if !wbit (s.ctxReg x 0x23) 0 then .fault fPERM (BitVec.ofNat 64 k) s
  else
    match readV s d x false va 16 with
    | (.fault c a l, s) => .fault c (xAddr a kLoad l) s
    | (.ok bs bad, s) =>
      if bad then .fault fPOISON (BitVec.ofNat 64 va) s
      else
        match routeOf bs with
        | none => .fault fPERM (BitVec.ofNat 64 k) s
        | some r => if r.mc && !groupRoot s r.dev then .fault fPERM (BitVec.ofNat 64 k) s else .ok r s

/-- A token as the 16 bytes of R64 with its route, and its compute die in bits [27:25], which R64 leaves zero (log 29). -/
def tokenBytes (t : Token) (route : Nat) : List Byte :=
  let f := fun (b : Bool) (k : Nat) => if b then 2 ^ k else 0
  bytesOf 8 (t.lreg.toNat * 2 ^ 60 + t.iter.toNat * 2 ^ 48 + t.sq.toNat * 2 ^ 40 + f t.x 39 + f t.p 38 + f t.n 37
    + bits route 20 18 * 2 ^ 25 + bits route 21 21 * 2 ^ 24 + bits route 17 0 * 2 ^ 6) ++ bytesOf 8 t.pay.toNat

/-- The token of such bytes. -/
def tokenOf (b : List Byte) : Token :=
  let w := BitVec.ofNat 64 (fld b 0 8)
  { pay := BitVec.ofNat 64 (fld b 8 8), lreg := BitVec.ofNat 4 (wbits w 63 60), iter := BitVec.ofNat 12 (wbits w 59 48)
    sq := BitVec.ofNat 8 (wbits w 47 40), x := wbit w 39, p := wbit w 38, n := wbit w 37 }

/-- The place of such bytes on this device. -/
def tokenDest (b : List Byte) : Dest :=
  let w := BitVec.ofNat 64 (fld b 0 8)
  let d := wbits w 27 25
  let c := wbits w 23 18
  if wbit w 24 then .chan (nodeKey d c) (wbits w 12 10) (wbits w 9 6)
  else if wbit w 13 then .port d c (wbits w 10 6)
  else .chan (unitKey d c (wbits w 17 14)) (wbits w 12 10) (wbits w 9 6)

/-- A fault that a device reported for a send (R383, R390): its record has OUTCOME 2, and the context stops. -/
def sendFails (s : State) (x code iv : Nat) (site : FaultRec) : State :=
  stopContext (writeRecord s x { site with code := code, outcome := 2, iv := iv }) x

/-- Whether a device is none: the routing table is on and gives no link toward it (R383). -/
def noDevice (s : State) (dev : Nat) : Bool := wbit (s.devReg 0x312) 0 && dev ≠ s.devId && routeLinks s dev == 0

/-- A remote send performs (R383, R384): the token goes out on its flow. A group with no member needs nothing more. -/
def sendRemote (s : State) (a : Agent) (x iv : Nat) (r : Route) (t : Token) : State :=
  if !r.mc && noDevice s r.dev then sendFails s x 0x80 iv { pendSite { who := a } with tag := t.tag, sq := t.sq.toNat }
  else if r.mc && (mcNeed s { dst := r.dev } 31).want.isEmpty then s
  else
    (flowSend s a x r.dev r.mc r.ctx r.links
      { typ := pkTOKEN, p := t.p, x := t.x, iv := iv, deps := t.deps, body := tokenBytes t r.route ++ bytesOf 8 0 }).2

/-! ### Acknowledgements (R378, R383, R384, R390) -/

/-- The head job of a link engine ends. -/
def endLinkJob (s : State) (n id : Nat) : State :=
  { s with linkJobs := tabMod s.linkJobs n fun l => l.filter fun j => j.id ≠ id }

/-- What an engine has sent and not had acknowledged. -/
def engineUnacked (s : State) (n : Nat) : Bool := s.flows.any fun f => f.unacked.any fun x => x.who == .link n

/-- A job whose WRITEs have all been sent and acknowledged is complete (R390). -/
def jobMaybeDone (s : State) (n : Nat) : State :=
  match linkHead s n with
  | none => s
  | some j => if j.pos ≥ j.bytes && !engineUnacked s n then (endLinkJob s n j.id).meet j.id else s

/-- A packet of a flow has been acknowledged (R383, R390). -/
def ackFlow (s : State) (dev : Nat) (mc : Bool) (unit ctx flow status : Nat) : State :=
  match s.flows.find? fun f => f.dev == dev && f.mc == mc && f.unit == unit && f.ctx == ctx with
  | none => s
  | some f =>
    match f.unacked.find? fun x => x.pkt.flow == flow with
    | none => s
    | some x =>
      let p := x.pkt
      let s := { s with flows := listMod (fun g => g.id == f.id) (fun g => { g with unacked := g.unacked.filter fun y => y.pkt.flow ≠ flow }) s.flows }
      match x.who, x.src with
      | _, none => s
      | .link n, some y =>
        if status == 0 then jobMaybeDone s n
        else
          let s := { s with flows := s.flows.map fun (g : Flow) => { g with unacked := g.unacked.filter fun z => z.who ≠ .link n } }
          let s := match linkHead s n with | some j => endLinkJob s n j.id | none => s
          sendFails s y status p.iv { die := homeOf s y, tarn := 0xFE }
      | a, some y =>
        if status == 0 then touchCtx s y
        else
          let t := if p.typ == pkTOKEN then tokenOf p.body else {}
          sendFails s y status p.iv { pendSite { who := a } with tag := t.tag, sq := t.sq.toNat }

/-- One ACK of a group's packet has come from a link (31: this device's own). When none is missing, the packet is
acknowledged at the root, or an ACK goes on toward it (R384). -/
def mcCollect (s : State) (a : McAck) (n status : Nat) : State :=
  let b := { a with want := a.want.filter (· ≠ n), status := if a.status == 0 then status else a.status }
  if !b.want.isEmpty then { s with mcAcks := listMod (fun c => c == a) (fun _ => b) s.mcAcks }
  else
    let s := { s with mcAcks := s.mcAcks.filter fun c => c ≠ a }
    if b.from_ == 31 then ackFlow s b.group true b.unit b.ctx b.flow b.status
    else onLink s b.from_ { ackOf { ctx := b.ctx, unit := b.unit, flow := b.flow } b.status with src := s.devId, dst := b.src }

/-- This device acknowledges a packet that reached it on link n (R378, R384). -/
def sendAck (s : State) (n : Nat) (p : Packet) (status : Nat) : State :=
  if p.mc then
    match s.mcAcks.find? fun a => mcFor a p.src p.unit p.ctx p.flow p.dst with
    | some a => mcCollect s a 31 status
    | none => onLink s n { ackOf p status with src := s.devId, dst := p.src }
  else if p.src == s.devId then ackFlow s s.devId false p.unit p.ctx p.flow status
  else answer s n p.src (ackOf p status)

/-! ### Receiving (R378, R379, R383, R384) -/

/-- Whether a packet waits at this device's shore. -/
def atShore (s : State) (n : Nat) (p : Packet) : Bool := s.shore.contains { link := n, pkt := p }

/-- A packet comes by a usable link; its peer has been heard. -/
def arrives (s : State) (n : Nat) : Bool := n < 18 && linkUsable s n
def heard (s : State) (n : Nat) : State := s.modLink n fun l => { l with seen := s.clk }

/-- Whether a packet waits in the receive buffer of the link it came by (R379). -/
def inRx (s : State) (n : Nat) (p : Packet) : Bool := s.rx.contains { link := n, pkt := p }
/-- Whether a packet is here to be acted on: it waits in its buffer, or comes now. -/
def comes (s : State) (n : Nat) (p : Packet) : Bool := inRx s n p || arrives s n
/-- A packet is taken: out of its buffer, or as it comes. -/
def took (s : State) (n : Nat) (p : Packet) : State :=
  if inRx s n p then { s with rx := s.rx.erase { link := n, pkt := p } } else heard s n
/-- A packet that cannot be acted on yet waits where it is: at the shore, or in the buffer of its link. -/
def waitsRx (s : State) (n : Nat) (p : Packet) : State :=
  if atShore s n p || inRx s n p then s else { heard s n with rx := s.rx ++ [{ link := n, pkt := p }] }

/-- Pass on a packet for another device (R383): by the lowest-numbered usable link of its entry. With no entry the device
does not exist, and with no usable link the packet waits in the buffer of the link it came by. -/
def passOn (s : State) (n : Nat) (p : Packet) : State :=
  match firstHop s p.dst 0 with
  | some m => onLink (took s n p) m p
  | none =>
    if !noDevice s p.dst then waitsRx s n p
    else if p.typ == pkACK then took s n p
    else onLink (took s n p) n { ackOf p 0x80 with src := s.devId, dst := p.src }

/-- What a device remembers of a packet's flow (R379). -/
def sameFlow (p : Packet) (f : FlowIn) : Bool := f.dev == p.src && f.unit == p.unit && f.ctx == p.ctx && f.mc == p.mc
def flowIn (s : State) (p : Packet) : FlowIn :=
  (s.flowsIn.find? (sameFlow p)).getD { dev := p.src, unit := p.unit, ctx := p.ctx, mc := p.mc }
def modFlowIn (s : State) (p : Packet) (f : FlowIn → FlowIn) : State :=
  { s with flowsIn := f (flowIn s p) :: s.flowsIn.filter fun g => !sameFlow p g }
/-- The flow has been acted on up to a packet. -/
def passFlow (s : State) (p : Packet) : State := modFlowIn s p fun f => { f with next := p.flow + 1 }

/-- Packets of one flow that wait at the shore. -/
def shoreOf (s : State) (p : Packet) : List ShoreTok :=
  s.shore.filter fun t => t.pkt.src == p.src && t.pkt.unit == p.unit && t.pkt.ctx == p.ctx && t.pkt.mc == p.mc && t.pkt.typ == p.typ

/-- What becomes of an arriving packet of a flow before its kind acts (R379, R384, R392). -/
inductive Intake where
  | no (s : State)
  | act (s : State)

/-- The copies of a group's packet go on, and the ACKs they need are collected; a packet that needs none is acknowledged. -/
def mcForward (s : State) (n : Nat) (p : Packet) : State :=
  let a := mcNeed s p n
  if a.want.isEmpty then onLink s n { ackOf p 0 with src := s.devId, dst := p.src }
  else
    let s := { s with mcAcks := s.mcAcks ++ [a] }
    (a.want.filter (· ≠ 31)).foldl (fun s m => onLink s m p) s

/-- A packet that has been acted on before: its ACK is sent again (R393), or its copies whose ACKs are missing. One that
waits at the shore has its ACK to come. -/
def repeated (s : State) (n : Nat) (p : Packet) : State :=
  if s.shore.any fun t => t.pkt == p then s
  else if !p.mc then answer s n p.src (ackOf p 0)
  else
    match s.mcAcks.find? fun a => mcFor a p.src p.unit p.ctx p.flow p.dst with
    | some a => (a.want.filter (· ≠ 31)).foldl (fun s m => onLink s m p) s
    | none => onLink s n { ackOf p 0 with src := s.devId, dst := p.src }

/-- Poison arrives by link (R392): the device asks for a rollback, or under TRIAGE_HOST stops the context that the packet
names with a POISON record, and a context without work has the record only (R351; log 117). -/
def linkPoison (s : State) (p : Packet) : State :=
  let site : FaultRec := { die := homeOf s p.ctx, tarn := 0xFE, iv := p.iv }
  if !s.triageHost then requestRollback s
  else
    match (s.ctx p.ctx).st with
    | .running | .checkpointing | .resuming => takeFault s p.ctx 0 fPOISON site
    | .stopped => s
    | _ => writeRecord s p.ctx { site with code := fPOISON, outcome := 2 }

/-- Take in a packet from link n: passed on, dropped, refused as poison, late in its flow, early (it waits for its turn), or
to be acted on. A packet that waits at this device's shore has been through all this. -/
def intake (s : State) (n : Nat) (p : Packet) : Intake :=
  if atShore s n p then
    (if (shoreOf s p).head? == some { link := n, pkt := p } then .act { s with shore := s.shore.erase { link := n, pkt := p } } else .no s)
  else if !comes s n p then .no s
  else if !p.mc && p.dst ≠ s.devId then .no (passOn s n p)
  else if p.mc && mcIn (groupEntry s p.dst) ≠ n then .no (countRetry (took s n p) n)
  else if p.p && (p.typ == pkTOKEN || p.typ == pkWRITE) then .no (linkPoison (took s n p) p)
  else if p.flow < (flowIn s p).next then .no (repeated (took s n p) n p)
  else if p.flow > (flowIn s p).next then .no (waitsRx s n p)
  else if p.mc then
    let t := mcForward (took s n p) n p
    if mcLocal (groupEntry s p.dst) then .act t else .no (passFlow t p)
  else .act (took s n p)

/-- A packet is acknowledged and its flow goes on. One from this device's own shore has no place in a receiving flow. -/
def accept (s : State) (n : Nat) (p : Packet) (status : Nat) : State :=
  sendAck (if n == 31 || p.flow ≠ (flowIn s p).next then s else passFlow s p) n p status

/-! ### TOKEN (R383, R379) -/

/-- Tell a sender that a flow of tokens is off or on (R379); the header names the flow. -/
def sendCtl (s : State) (n : Nat) (p : Packet) (off : Bool) : State :=
  let s := modFlowIn s p fun f => { f with off := off }
  if p.src == s.devId then
    { s with flows := s.flows.map fun (f : Flow) => if f.unit == p.unit && f.ctx == p.ctx && f.mc == p.mc then { f with off := off } else f }
  else answer s n p.src { typ := pkCTL, ctx := p.ctx, unit := p.unit, body := bytesOf 4 0 ++ bytesOf 4 (if off then 1 else 0) }

/-- A token is held at the shore in its place (R379, R383): 256 of a flow turn it off. -/
def holdToken (s : State) (n : Nat) (p : Packet) (back : Bool) : State :=
  let t : ShoreTok := { link := n, pkt := p }
  let s := { s with shore := if back then t :: s.shore else s.shore ++ [t] }
  if (shoreOf s p).length ≥ 256 && !(flowIn s p).off then sendCtl s n p true else s

/-- A token has left the shore: at 128 the flow is on again. -/
def leaveShore (s : State) (n : Nat) (p : Packet) : State :=
  if (flowIn s p).off && (shoreOf s p).length ≤ 128 then sendCtl s n p false else s

/-- Whether a context receives nothing for now (R383). -/
def ctxWaits (s : State) (x : Nat) : Bool :=
  (s.ctx x).st == .checkpointing || (s.ctx x).st == .saved || (s.ctx x).st == .resuming

/-- What a device does with a token for a context (R383, R95). -/
inductive Landing where
  | held
  | refused
  | lands (d : Dest)
  deriving DecidableEq, Repr, Inhabited

def landing (s : State) (p : Packet) : Landing :=
  let st := (s.ctx p.ctx).st
  if st == .free || st == .idle then .refused
  else if ctxWaits s p.ctx then .held
  else
    let d := tokenDest p.body
    let u := destAt d
    if !(s.unit u).owner.any fun k => k / 64 == p.ctx then .refused
    else if destOpen s d then .lands d else .held

/-- A token enters its destination's route, with the sender's interval when it is a remote store (R383). The set it was sent
with has performed, and it orders what follows (R251; log 102). -/
def landToken (s : State) (p : Packet) (d : Dest) : State :=
  let (k, s) := s.newKey
  let (deps, s) := linkDeps s
  let t := { tokenOf p.body with deps := deps }
  let iv := match d with | .port _ _ _ => p.iv | .chan _ _ _ => 0
  { s with flight := s.flight ++ [{ id := k, ctx := p.ctx, src := .shore p.src p.unit, dst := d, item := .tok t, iv := iv }] }

/-- TOKEN (R378, R379, R383): a token from link n, or from this device's shore, is delivered, held or refused. -/
def execTokenPkt (n : Nat) (p : Packet) (s : State) : Host.Outcome State Fault Refusal :=
  if p.typ ≠ pkTOKEN then .next s
  else
    let was := atShore s n p
    match intake s n p with
    | .no s => .next s
    | .act t =>
      match landing t p with
      | .lands d =>
        if !was && !(shoreOf t p).isEmpty then .next (holdToken (if n == 31 then t else passFlow t p) n p false)
        else .next (leaveShore (accept (landToken t p d) n p 0) n p)
      | .refused =>
        if !was && !(shoreOf t p).isEmpty then .next (holdToken (if n == 31 then t else passFlow t p) n p false)
        else .next (leaveShore (accept t n p fNOHANDLER) n p)
      | .held => if was then .next s else .next (holdToken (if n == 31 then t else passFlow t p) n p false)

/-! ### WRITE (R390) -/

/-- Store the bytes of a WRITE: the state, with a status; none while it waits. -/
def writeRemote (s : State) (p : Packet) : Option (Nat × State) :=
  let x := p.ctx
  let d := homeOf s x
  let va := fld p.body 0 8
  let bs := p.data.take (fld p.body 8 2)
  let segs := (vCuts (bs.length / 64 + 2) va bs.length).foldl (fun (acc : Except Nat (List (Nat × Nat × Nat)) × State) c =>
    match acc with
    | (.error e, s) => (.error e, s)
    | (.ok l, s) =>
      match xlateNow s d x c.1 kWrite false with
      | (.ok pa leaf, s) => if physFault s pa kWrite then (.error fPERM, s) else (.ok (l ++ [(pa, c.2, pteClass leaf)]), s)
      | (.fault code _, s) => (.error code, s)
      | (.miss, s) => (.error fXLATE, s)) (.ok [], s)
  match segs with
  | (.error e, s) => some (e, s)
  | (.ok l, s) =>
    if l.any fun g => lineHeld s (.mem g.1) d then none
    else
      match roomOf s p.iv l with
      | .wait => none
      | .full => some (fEGRESS, s)
      | .ok => some (0, writeSegs s { ctx := x, iv := p.iv } l bs)

/-- WRITE (R378, R384, R390): translated in context CTX, performed under the sender's interval, acknowledged. -/
def execWritePkt (n : Nat) (p : Packet) (s : State) : Host.Outcome State Fault Refusal :=
  if p.typ ≠ pkWRITE then .next s
  else if (atShore s n p || ((p.dst == s.devId || p.mc) && comes s n p)) && ctxWaits s p.ctx then .next (waitsRx s n p)
  else
    match intake s n p with
    | .no s => .next s
    | .act t =>
      match writeRemote t p with
      | some (st, t) => .next (accept t n p st)
      | none => .next (waitsRx s n p)

/-! ### PART (R386-R389) -/

/-- The bytes of one message of a pool's node: value, mask, records (R378, R388). -/
def partSizes (p : Pool) (cnt : Nat) : Nat × Nat :=
  (if p.fmt == 0 then poolBytes p.decl else p.decl.len + p.decl.len / 32, (cnt + 7) / 8)

/-- The records of a message. -/
def recordsOf : Nat → List Byte → List (List Byte)
  | 0, _ => []
  | n + 1, b => b.take 16 :: recordsOf n (b.drop 16)

/-- A contributor record read out (R172). -/
def contribOf (b : List Byte) : Contrib :=
  let f := fld b 9 1
  { dev := fld b 0 2, kind := fld b 2 1 / 16, die := fld b 2 1 % 8, oper := fld b 3 1, unit := fld b 4 2, tag := fld b 6 2, attempt := fld b 8 1
    x := f % 2 == 1, p := f / 2 % 2 == 1, gen := f / 4 % 4, csum := fld b 12 4 }

/-- A node's value out of its bytes: elements, or MX codes and scales decoded exactly (R29, R388). -/
def partValue (p : Pool) (b : List Byte) : List Word :=
  if p.fmt == 0 then elemsOf (poolTy p.decl) p.decl.len b
  else
    let f := if p.fmt == 2 then Fmt.e5m2 else Fmt.e4m3
    (upFrom 0 p.decl.len).map fun i =>
      BitVec.ofNat 64 (encodeNum .f32 .rne false 0 (mxNum f (fld b (p.decl.len + i / 32) 1) (fld b i 1))).1

/-- Whether the data of a message is whole: the records of its present leaves have arrived. -/
def partWhole (p : Pool) (cnt : Nat) (data : List Byte) : Bool :=
  let (v, m) := partSizes p cnt
  let present := ((upFrom 0 m).map fun k => countOnes 8 (fld data (v + k) 1)).sum
  data.length ≥ v + m && data.length ≥ v + m + 16 * present

/-- The node of a whole message (R386, R388, R389), with its bytes, the interval of its packets, and the set that orders what
reads it (R183, R251). -/
def partNode (p : Pool) (pk : Packet) (g : Nat) (data : List Byte) (deps : List Nat) : RemoteNode :=
  let lo := fld pk.body 8 2
  let cnt := fld pk.body 10 2
  let (v, m) := partSizes p cnt
  let mask := (upFrom 0 cnt).map fun i => fld data (v + i / 8) 1 / 2 ^ (i % 8) % 2 == 1
  let present := (upFrom 0 cnt).filter fun i => mask.getD i false
  let rs := recordsOf present.length (data.drop (v + m))
  let broken := p.decl.chk == 1 && csumBytes data ≠ fld pk.body 4 4
  let bad := (present.zip rs).filter fun r => broken || fld r.2 9 1 / 2 % 2 == 1 || (pk.p && cnt == 1)
  { iv := pk.iv, deps := deps, enc := data.take v, lo := lo, cnt := cnt, gen := g, mask := mask, value := partValue p data, x := pk.x, bad := bad.map fun r => lo + r.1, recs := rs.map contribOf }

/-- A node value arrives (R386, R387): it takes the place of an earlier one; for a closed generation the leaves newly
present count as late. -/
def partArrive (s : State) (x n : Nat) (p : Pool) (pk : Packet) (data : List Byte) : State :=
  let same := fun (a : RemoteNode) (r : RemoteNode) => r.lo == a.lo && r.cnt == a.cnt && r.gen == a.gen
  let put := fun (p : Pool) (a : RemoteNode) => { p with remotes := a :: p.remotes.filter fun r => !same a r }
  let (deps, s) := linkDeps s
  match genOf s p (fld pk.body 0 4 / 512 % 4) with
  | (none, p) =>
    let a := partNode p pk (p.gen - 1) data deps
    let old := ((p.remotes.find? (same a)).map (·.mask)).getD []
    let more := ((upFrom 0 a.cnt).filter fun i => a.mask.getD i false && !old.getD i false).length
    s.setPool x n { put p a with late := satAt 255 (p.late + more) }
  | (some g, p) => sendParts (runPool (s.setPool x n (put p (partNode p pk g data deps))) x n) x n g

/-- PART (R386, R389): the packets of one message are gathered; the node waits for the pool's declaration. -/
def execPartPkt (n : Nat) (p : Packet) (s : State) : Host.Outcome State Fault Refusal :=
  if p.typ ≠ pkPART then .next s
  else
    match intake s n p with
    | .no s => .next s
    | .act t =>
      let k := fld p.body 0 4 % 512
      match t.pool? p.ctx k with
      | none => .next (waitsRx s n p)
      | some q =>
        let whole := ((flowIn t p).part ++ [p]).flatMap (·.data)
        if partWhole q (fld p.body 10 2) whole then
          let t := modFlowIn t p fun f => { f with part := [] }
          .next (accept (touchCtx (partArrive t p.ctx k q p whole) p.ctx) n p 0)
        else .next (accept (modFlowIn t p fun f => { f with part := f.part ++ [p] }) n p 0)

/-! ### POOLOP, VALUE, ACK and CTL (R378, R379, R387) -/

/-- The kind of a request by its opcode. -/
def poolopKind (op : Nat) : Option WaitKind :=
  match op with
  | 0x92 => some .prd
  | 0x93 => some .pset
  | 0x94 => some .pswap
  | 0x95 => some .pexp
  | 0x96 => some .pstat
  | _ => none

/-- POOLOP (R387): a read, settle or status request of another device joins the root's queue. -/
def execPoolopPkt (n : Nat) (p : Packet) (s : State) : Host.Outcome State Fault Refusal :=
  if p.typ ≠ pkPOOLOP then .next s
  else
    match intake s n p with
    | .no s => .next s
    | .act t =>
      let imm := fld p.body 1 2
      let unit := fld p.body 4 4
      let k := fld p.body 8 2
      let ask : Asker := .remote p.src unit p.flow p.ctx
      match poolopKind (fld p.body 0 1) with
      | none => .next (accept t n p 0)
      | some kind =>
        match t.pool? p.ctx k with
        | none => .next (accept (answer t n p.src (valuePacket {} false p.flow unit p.ctx (.fault 0x33 0 {}))) n p 0)
        | some q =>
          if !poolTakes q then .next (waitsRx s n p)
          else
            let (id, t) := t.newKey
            let w : Wait := { id := id, kind := kind, tol := imm / 8 % 2 == 1, cur := imm / 4 % 2 == 1, asker := ask }
            .next (accept (poolArrive t p.ctx k w (imm % 4)) n p 0)

/-- Who asked, as the UNIT of its request. -/
def askerUnit (s : State) (a : Asker) : Nat :=
  match a with
  | .fire f _ => unitField (agentContrib s (.oper f.u f.op))
  | .pend k => unitField (agentContrib s ((s.pend.find? fun q => q.id == k).getD {}).who)
  | .gone | .remote _ _ _ _ => 0

/-- The result that a VALUE carries (R378, R387), with the set that orders what follows it (R183, R251). -/
def valueOf (q : Pool) (w : Wait) (p : Packet) (deps : List Nat) : WaitRes :=
  let c := fld p.body 4 4
  if c ≠ 0 then .fault c 0 (contribOf p.data)
  else if w.kind == .pset then .value [] p.x deps
  else if w.kind == .pstat then .value [BitVec.ofNat 64 (fld p.data 0 8)] p.x deps
  else .value (elemsOf (poolTy q.decl) q.decl.len p.data) p.x deps

/-- VALUE (R387): the answer of the root finds the request that waits for it. -/
def execValuePkt (n : Nat) (p : Packet) (s : State) : Host.Outcome State Fault Refusal :=
  if p.typ ≠ pkVALUE || !comes s n p then .next s
  else
    if p.dst ≠ s.devId then .next (passOn s n p)
    else
      let s := took s n p
      let mine := fun (w : Wait) => w.remote && w.res.isNone && w.flow == fld p.body 0 4 && askerUnit s w.asker == p.unit
      match s.pools.find? fun q => q.1 / 512 == p.ctx && q.2.map.getD 0 0 == p.src && q.2.waits.any mine with
      | none => .next s
      | some (k, q) =>
        match q.waits.find? mine with
        | none => .next s
        | some w =>
          let (deps, s) := linkDeps s
          .next (deliverWaits (s.setPool p.ctx (k % 512) (setRes q w.id (valueOf q w p deps))) p.ctx (k % 512))

/-- ACK (R378, R383, R384): it completes a packet of a flow, or counts toward a group's. -/
def execAckPkt (n : Nat) (p : Packet) (s : State) : Host.Outcome State Fault Refusal :=
  if p.typ ≠ pkACK || !comes s n p then .next s
  else
    let flow := fld p.body 0 4
    match s.mcAcks.find? fun a => a.src == p.dst && a.unit == p.unit && a.ctx == p.ctx && a.flow == flow && a.want.contains n with
    | some a => .next (mcCollect (took s n p) a n (fld p.body 4 4))
    | none =>
      if p.dst ≠ s.devId then .next (passOn s n p)
      else .next (ackFlow (took s n p) p.src false p.unit p.ctx flow (fld p.body 4 4))

/-- CTL (R379): a flow of tokens is turned off or on. -/
def execCtlPkt (n : Nat) (p : Packet) (s : State) : Host.Outcome State Fault Refusal :=
  if p.typ ≠ pkCTL || !comes s n p then .next s
  else
    if p.dst ≠ s.devId then .next (passOn s n p)
    else
      let s := took s n p
      let off := fld p.body 4 1 % 2 == 1
      .next { s with flows := s.flows.map fun (f : Flow) =>
        if f.unit == p.unit && f.ctx == p.ctx && (f.mc || f.dev == p.src) then { f with off := off } else f }

/-- Whether a TYPE byte names a kind of packet (R378). -/
def knownType (t : BitVec 8) : Bool := [pkWRITE, pkACK, pkTOKEN, pkSEAL, pkPART, pkVALUE, pkCTL, pkPOOLOP].contains t

/-- OTHER_TYPE_PACKET (R378): dropped, and counted in RETRIES. -/
def execOtherTypePacket (n : Nat) (p : Packet) (s : State) : Host.Outcome State Fault Refusal :=
  if knownType p.typ || !arrives s n then .next s else .next (countRetry (heard s n) n)

/-! ### Link engines (R390) -/

/-- The die a link lies on (R10). -/
def linkDie (n : Nat) : Nat := ((upFrom 0 8).find? fun d => (dieLinks d).contains n).getD 0

/-- The place of a fault of a link engine. -/
def linkSite (s : State) (j : LinkJob) : FaultRec := { die := homeOf s j.ctx, tarn := 0xFE, iv := j.iv }

/-- MCOPY_WRITE_SEND (R390): the engine of link n reads the next part of its first job's source and sends it. -/
def execMcopyWriteSend (n : Nat) (s : State) : Host.Outcome State Fault Refusal :=
  match linkHead s n with
  | none => .next s
  | some j =>
    if j.pos ≥ j.bytes then .next s
    else
      let d := linkDie n
      match readRoute s d j.ctx j.route with
      | .fault c a s => if c == fXLATE && s.pageHost then .next (takeFault s j.ctx 0 c { linkSite s j with addr := a }) else .next (linkJobFault s n j c a)
      | .ok r s =>
        if !r.mc && noDevice s r.dev then .next (sendFails (endLinkJob s n j.id) j.ctx 0x80 j.iv (linkSite s j))
        else
          let k := min 2048 (j.bytes - j.pos)
          let w : Reacher := { d := d, x := j.ctx, who := .link n, site := linkSite s j }
          match reachAll s w kLoad (vCuts (k / 64 + 2) (j.src + j.pos) k) with
          | .wait s => .next s
          | .fail s => .next (endLinkJob s n j.id)
          | .ok segs s =>
            let (bs, bad, _, s) := readSegs s j.floor j.since segs
            let s := { s with linkJobs := tabMod s.linkJobs n (listMod (fun (i : LinkJob) => i.id == j.id) fun i => { i with pos := i.pos + k }) }
            if r.mc && (mcNeed s { dst := r.dev } 31).want.isEmpty then .next (jobMaybeDone s n)
            else
              let p : Packet := { typ := pkWRITE, p := bad, iv := j.iv, data := bs, body := bytesOf 8 (j.dst + j.pos) ++ bytesOf 2 k }
              .next (flowSend s (.link n) j.ctx r.dev r.mc r.ctx r.links p).2

end Sys2Proof.Machine
end

