-- ==== Sys2Proof/Machine/Partition.lean ====
section
/-! DEFINITION. Partitions and the requests that functions make of firmware (R282, R397-R402). -/

namespace Sys2Proof.Machine

/-! ### Entries of the partition table (R397) -/

/-- The 256 bytes of a partition's entry. -/
def entryBytes (s : State) (p : Nat) : List Byte := memBytes s.mem (ptabEntry s p) 256
/-- Write an entry's STATE byte. -/
def setPartState (s : State) (p st : Nat) : State := hostPut s (ptabEntry s p) (bytesOf 1 st)
/-- The partitions whose STATE is not 0, while the table is on. -/
def activeParts (s : State) : List Nat :=
  if wbit (s.devReg 0x306) 0 then (upFrom 0 16).filter fun p => ptabByte s p 0 ≠ 0 else []

/-- The masks of an entry, one for each die. -/
def clusterMask (e : List Byte) (d : Nat) : Nat := fld e (0x10 + 8 * d) 8
def sliceMask (e : List Byte) (d : Nat) : Nat := fld e (0x50 + 8 * d) 8
def dramMask (e : List Byte) (d : Nat) : Nat := fld e (0x90 + 4 * d) 4

/-- Whether two ranges of numbers meet. -/
def rangesMeet (a n b m : Nat) : Bool := a < b + m && b < a + n

/-- Whether two entries overlap in a cluster, slice, way, granule, queue or function (R398). -/
def entriesMeet (a b : List Byte) : Bool :=
  ((upFrom 0 8).any fun d => (clusterMask a d &&& clusterMask b d) ≠ 0 || (sliceMask a d &&& sliceMask b d) ≠ 0
    || (dramMask a d &&& dramMask b d) ≠ 0)
    || (fld a 0xC 2 &&& fld b 0xC 2) ≠ 0
    || rangesMeet (fld a 0xB0 2) (fld a 0xB2 2) (fld b 0xB0 2) (fld b 0xB2 2)
    || rangesMeet (fld a 8 2) (fld a 0xA 2) (fld b 8 2) (fld b 0xA 2)
    || (fld a 2 1 / 128 == fld b 2 1 / 128 && fld a 2 1 % 16 == fld b 2 1 % 16)

/-- The base addresses of the granules an entry grants (R371). -/
def granules (e : List Byte) : List Nat :=
  ((upFrom 0 8).flatMap fun d => ((upFrom 0 32).filter fun g => dramMask e d / 2 ^ g % 2 == 1).map fun g => dramBase d + g * 2 ^ 31)
    ++ (upFrom (fld e 0xB0 2) (fld e 0xB2 2)).map fun g => 0x10000000000 + g * 2 ^ 31

/-- Whether the shares of the active partitions and this entry pass 64 at some point. -/
def sharesPass (s : State) (p : Nat) (e : List Byte) : Bool :=
  [5, 6, 7].any fun o => (((activeParts s).filter (· ≠ p)).map fun q => ptabByte s q o).sum + fld e o 1 > 64

/-- Whether activate and resize may use an entry, STATE apart (R397, R398). -/
def entryOkFor (s : State) (p : Nat) : Bool :=
  let e := entryBytes s p
  wbit (s.devReg 0x306) 0 && !(((activeParts s).filter (· ≠ p)).any fun q => entriesMeet e (entryBytes s q))
    && !((granules e).any (underLog s)) && !sharesPass s p e

/-! ### dev.pctl (R398, R400) -/

/-- dev.pctl PART, BUSY. -/
def pctlPart (s : State) : Nat := wbits (s.devReg 0x307) 3 0
def pctlBusy (s : State) : Bool := wbit (s.devReg 0x307) 4
/-- Set ERR and BUSY after a command. -/
def pctlEnd (s : State) (refused busy : Bool) : State :=
  let r := s.devReg 0x307
  s.setDev 0x307 (wput (wput r 8 8 (if refused then 1 else 0)) 4 4 (if busy then 1 else 0))
/-- A command written while BUSY = 1 is refused; the command in progress goes on. -/
def pctlRefuse (s : State) : State := s.setDev 0x307 (wput (s.devReg 0x307) 8 8 1)

/-- A unit that is given to a partition of another world is cleared first (R21): its SRAM, configuration store and planes. -/
def changeWorld (secure : Bool) (v : UnitS) : UnitS :=
  if v.secure == secure then v
  else { v with secure := secure, scratch := [], bad := [], l1bad := [], store := [], plane := {}, cur := none, consec := 0 }

/-- The units of the clusters that an entry grants are in its partition's world (R20, R21). -/
def settleWorlds (s : State) (p : Nat) : State :=
  let e := entryBytes s p
  (upFrom 0 8).foldl (fun s d => ((upFrom 0 64).filter fun c => clusterMask e d / 2 ^ c % 2 == 1).foldl (fun s c =>
    (nodeKey d c :: (upFrom 0 16).map (unitKey d c)).foldl (fun s u =>
      if (s.unit u).secure == (fld e 1 1 % 2 == 1) then s else s.modUnit u (changeWorld (fld e 1 1 % 2 == 1))) s) s) s

/-- Activate (R398). -/
def activatePart (s : State) (p : Nat) : State :=
  if entryOkFor s p && ptabByte s p 0 == 0 then
    let s := settleWorlds (setPartState s p 1) p
    pctlEnd { s with parts := tabSet s.parts p (entryBytes s p) } false false
  else pctlEnd s true false

/-- Release (R398): refused while the partition holds a context that is not free. -/
def releasePart (s : State) (p : Nat) : State :=
  if s.ctxs.any fun c => c.2.st ≠ .free && c.2.part == p then pctlEnd s true false
  else pctlEnd { setPartState s p 0 with parts := tabDel s.parts p } false false

/-- The clusters that a resize moves: those of one of the two entries and not of the other. -/
def movingClusters (old new : List Byte) (d : Nat) : Nat := clusterMask old d ^^^ clusterMask new d

/-- The contexts with a region on a moving cluster. -/
def movingCtxs (s : State) (old new : List Byte) : List Nat :=
  (s.regions.filter fun r => (s.ctx r.2.ctx).st ≠ .free && r.2.clusters.any fun c => movingClusters old new r.2.die / 2 ^ c % 2 == 1).foldl
    (fun l r => setAdd l r.2.ctx) []

/-- The new address of a byte whose granule moves: the granules lost and gained are paired in address order (log 31). -/
def movedPA (pairs : List (Nat × Nat)) (pa : Nat) : Nat :=
  match pairs.find? fun g => g.1 ≤ pa && pa < g.1 + 2 ^ 31 with
  | some g => g.2 + (pa - g.1)
  | none => pa

/-- The granules that move. -/
def movingGranules (old new : List Byte) : List (Nat × Nat) :=
  let a := granules old
  let b := granules new
  (a.filter fun g => !b.contains g).zip (b.filter fun g => !a.contains g)

/-- The data of moving granules goes to their new channels, undo entries with their lines (R400). -/
def moveGranules (s : State) (pairs : List (Nat × Nat)) : State :=
  let moves := fun (pa : Nat) => pairs.any fun g => g.1 ≤ pa && pa < g.1 + 2 ^ 31
  let gained := fun (pa : Nat) => pairs.any fun g => g.2 ≤ pa && pa < g.2 + 2 ^ 31
  let mem := s.mem.filter fun c => !moves c.1 && !gained c.1
  let mem := (s.mem.filter fun c => moves c.1).foldl (fun m c => memSet m (movedPA pairs c.1) c.2) mem
  let es := s.dies.flatMap fun d => d.2.undo.filter fun e => moves e.line
  let s := { s with
    mem := mem
    poison := (s.poison.filter fun l => !gained l || moves l).map (movedPA pairs)
    dirty := (s.dirty.filter fun l => !gained l || moves l).map (movedPA pairs)
    dies := s.dies.map fun (d : Nat × Die) => (d.1, { d.2 with undo := d.2.undo.filter fun e => !moves e.line }) }
  es.foldl (fun s e =>
    let l := movedPA pairs e.line
    s.modDie (homeDie l) fun d => { d with undo := d.undo ++ [{ e with line := l }] }) s

/-- The other active partitions whose entries the table has changed since they were last settled: those with which a resize
exchanges clusters or granules (R400). -/
def changedParts (s : State) (p : Nat) : List Nat := (activeParts s).filter fun q => q ≠ p && tabGet? s.parts q ≠ some (entryBytes s q)

/-- A resize ends when no context on a moving cluster runs any more and no rollback is in progress (R400). -/
def finishResize (s : State) : State :=
  let p := s.fw.resizing
  let old := (tabGet? s.parts p).getD []
  let new := entryBytes s p
  let xs := movingCtxs s old new
  let busy := xs.any fun x => let st := (s.ctx x).st; st == .running || st == .checkpointing || st == .resuming
  if busy || s.sealing.rolling then xs.foldl startPreempt s
  else
    let s := moveGranules s (movingGranules old new)
    let qs := p :: changedParts s p
    let s := { s with tlbs := s.tlbs.filter fun t => !qs.contains (s.ctx t.ctx).part && !xs.contains t.ctx }
    let s := qs.foldl settleWorlds (setPartState s p 1)
    let s := { s with parts := tabSet s.parts p (entryBytes s p) }
    let s := xs.foldl (fun s x => s.modCtx x fun c => if c.st == .saved then { c with resume := true } else c) s
    pctlEnd s false false

/-- Resize begins (R400): the contexts on moving clusters are pre-empted. -/
def resizePart (s : State) (p : Nat) : State :=
  if !entryOkFor s p then pctlEnd s true false
  else finishResize (pctlEnd (setPartState { s with fw := { s.fw with resizing := p } } p 2) false true)

/-- A command of dev.pctl: the cores hear of it (R412). -/
def pctlCmd (s : State) (cmd : Nat) : State :=
  let p := pctlPart s
  match cmd with
  | 1 | 2 | 3 =>
    let s := coreInterrupt s 3
    if pctlBusy s then pctlRefuse s
    else if cmd == 1 then activatePart s p else if cmd == 2 then resizePart s p else releasePart s p
  | _ => s

/-! ### Contexts created and destroyed (R282, R290, R402) -/

/-- One region of a region list. -/
structure ListRow where
  die    : Nat := 0
  origin : Nat := 0
  width  : Nat := 0
  height : Nat := 0
  deriving DecidableEq, Repr, Inhabited

/-- A region list read from host memory (R402); none when it cannot be read as one. -/
def regionList (s : State) (a : Nat) : Option (List ListRow) :=
  let b := memBytes s.hostMem a 520
  let n := fld b 0 1
  if a % 64 ≠ 0 || n == 0 || n > 64 || !zeros b 1 7 then none
  else
    let rows := (upFrom 0 n).map fun i => (b.drop (8 + 8 * i)).take 8
    if rows.all fun r => zeros r 4 4 then
      some (rows.map fun r => { die := fld r 0 1, origin := fld r 1 1, width := fld r 2 1, height := fld r 3 1 })
    else none

/-- A row as a region of a context. -/
def ListRow.region (r : ListRow) (x i : Nat) : Region := { ctx := x, idx := i, die := r.die, origin := r.origin, width := r.width, height := r.height }

/-- Whether a row is a rectangle of clusters of its die that a partition owns (R22, R402). -/
def rowOk (s : State) (p : Nat) (r : ListRow) : Bool :=
  r.die < 8 && r.origin < 64 && 1 ≤ r.width && 1 ≤ r.height && r.origin % 8 + r.width ≤ 8 && r.origin / 8 + r.height ≤ 8
    && (r.region 0 0).clusters.all fun c => clusterMask (entryBytes s p) r.die / 2 ^ c % 2 == 1

/-- Whether a row overlaps a region of some context. -/
def rowTaken (s : State) (r : ListRow) : Bool :=
  s.regions.any fun q => (s.ctx q.2.ctx).st ≠ .free && q.2.idx < (s.ctx q.2.ctx).nreg && q.2.die == r.die
    && q.2.clusters.any fun c => (r.region 0 0).clusters.contains c

/-- A function's registers change. -/
def modFn (s : State) (fn : Nat) (f : FnS → FnS) : State := { s with fns := tabMod s.fns fn f }

/-- A request has been served (R402): BUSY clears, and the partition's FAULTVEC is signalled. -/
def fnServed (s : State) (fn : Nat) (p : Option Nat) (err : Bool) (code : Nat) : State :=
  let s := coreInterrupt (modFn s fn fun f => { f with busy := false, err := err, code := code }) 2
  match p with
  | some p => partInterrupt s p 3
  | none => s

/-- Create a context (R282, R402): the lowest-numbered free one, with the function's partition and world and the regions
of the list. -/
def createCtx (s : State) (fn : Nat) : State :=
  match fnPart s fn with
  | none => fnServed s fn none true fPERM
  | some p =>
    match regionList s (tabGet s.fns fn).list.toNat, (upFrom 0 256).find? fun x => (s.ctx x).st == .free with
    | some rows, some x =>
      if !(rows.all (rowOk s p)) || rows.any (rowTaken s) then fnServed s fn (some p) true fPERM
      else
        let s := { s with ctxs := tabSet s.ctxs x { st := .idle, part := p, secure := ptabByte s p 1 % 2 == 1, nreg := rows.length } }
        let s := rows.zipIdx.foldl (fun s r =>
          let q := r.1.region x r.2
          let bad := q.clusters.any fun c => (tabGet s.clTab (clKey q.die c)).out
          { s with regions := tabSet s.regions (regKey x r.2) { q with outOfService := bad } }) s
        fnServed (modFn s fn fun f => { f with made := x }) fn (some p) false 0
    | _, _ => fnServed s fn (some p) true fPERM

/-- What the device holds for a context goes with it (R282): its task, its released work, its pools, its images and
translations. Held writes of sealed work stay. -/
def dropCtxWork (s : State) (x : Nat) : State :=
  let us := (ctxRegions s x).flatMap fun k => (s.region k).units
  let us := us.filter fun u => (s.unit u).owner.any fun k => k / 64 == x
  let s := dropStaged (dropFirings s us) us
  let s := dropPends s fun (p : Pend) => p.own.ctx == x
  let s := (taskRegions s x).foldl freeRegion s
  let gone := (s.tasks.filter fun (t : Task) => t.ctx == x).map (·.id)
  let ls := (s.launches.filter fun (l : Launch) => l.ctx == x).map (·.id)
  let s := { s with
    outstanding := s.outstanding.filter (fun k => !gone.contains k)
    tasks := s.tasks.filter (fun (t : Task) => t.ctx ≠ x), launches := s.launches.filter (fun (l : Launch) => l.ctx ≠ x)
    groups := s.groups.filter (fun (g : Group) => g.ctx ≠ x), patches := s.patches.filter (fun (p : Patch) => p.ctx ≠ x)
    snaps := s.snaps.filter (fun (v : Snap) => v.ctx ≠ x), pools := s.pools.filter (fun (p : Nat × Pool) => p.1 / 512 ≠ x)
    tlbs := s.tlbs.filter (fun (t : Tlb) => t.ctx ≠ x), walks := s.walks.filter (fun (w : Walk) => w.ctx ≠ x)
    invs := s.invs.filter (fun (v : TlbInv) => v.ctx ≠ x), stages := s.stages.filter (fun (g : Stage) => g.ctx ≠ x)
    flows := s.flows.map (fun (f : Flow) => { f with unacked := f.unacked.map fun (y : Sent) => if y.src == some x then { y with src := none } else y }), flight := s.flight.filter (fun (f : Flight) => f.ctx ≠ x)
    linkJobs := s.linkJobs.map fun (l : Nat × List LinkJob) => (l.1, l.2.filter fun (j : LinkJob) => j.ctx ≠ x)
    dies := s.dies.map fun (d : Nat × Die) =>
      (d.1, { d.2 with
        images := d.2.images.filter (fun (i : Image) => i.ctx ≠ x)
        engines := d.2.engines.map fun (e : Nat × List Job) => (e.1, e.2.filter fun (j : Job) => j.own.ctx ≠ x)
        ready := d.2.ready.filter fun (e : Ready) => !ls.contains e.launch
        journal := d.2.journal.filter fun (j : Journal) => j.ctx ≠ x })
    units := s.units.map fun (u : Nat × UnitS) => (u.1, { u.2 with store := u.2.store.filter fun e => e.ctx ≠ x }) }
  sweepLeaves ((upFrom 0 8).foldl refillPool s)

/-- Destroy a context (R282, R290, R402): idle or stopped, and of the function's partition. -/
def destroyCtx (s : State) (fn x : Nat) : State :=
  let st := (s.ctx x).st
  match fnPart s fn with
  | none => fnServed s fn none true fPERM
  | some p =>
    if (s.ctx x).part ≠ p || !(st == .idle || st == .stopped) then fnServed s fn (some p) true fPERM
    else
      let s := dropCtxWork s x
      let s := { s with regions := s.regions.filter fun (r : Nat × Region) => r.2.ctx ≠ x, ctxs := tabDel s.ctxs x }
      fnServed (orphanQueues s x) fn (some p) false 0

/-- A write of fn.req (R402): the CTX field, then the command; one written while BUSY = 1 is ignored. -/
def fnRequest (s : State) (fn : Nat) (val : Word) : State :=
  let cmd := wbits val 63 61
  let s := modFn s fn fun f => { f with ctx := wbits val 7 0 }
  if (tabGet s.fns fn).busy then s
  else if cmd == 1 then createCtx s fn
  else if cmd == 2 then destroyCtx s fn (tabGet s.fns fn).ctx
  else s

/-- Whether a function is one that answers (R15): a physical function, or a virtual one of an active partition. -/
def fnAnswers (s : State) (fn : Nat) : Bool := fn < 32 && (fn % 16 == 0 || (fnPart s fn).isSome)

/-- FN_REQ_CREATE (R402). -/
def execFnReqCreate (fn : Nat) (val : Word) (s : State) : Host.Outcome State Fault Refusal :=
  if fnAnswers s fn && wbits val 63 61 == 1 then .next (fnRequest s fn val) else .next s

/-- FN_REQ_DESTROY (R402). -/
def execFnReqDestroy (fn : Nat) (val : Word) (s : State) : Host.Outcome State Fault Refusal :=
  if fnAnswers s fn && wbits val 63 61 == 2 then .next (fnRequest s fn val) else .next s

end Sys2Proof.Machine
end

