-- ==== Sys2Proof/Machine/Firmware.lean ====
section
/-! DEFINITION. Firmware images, live update, the watchdog, SPDM, and crypt, meas and wdog, opcodes 0xC6-0xC8
(R406-R411). -/

namespace Sys2Proof.Machine

/-! ### Measurement registers (R407) -/

/-- The 64 bytes of measurement register n. -/
def measBytes (s : State) (n : Nat) : List Byte := (upFrom 0 8).flatMap fun k => bytesOf 8 (s.devReg (0x380 + 8 * n + k)).toNat
/-- Set measurement register n. -/
def setMeas (s : State) (n : Nat) (b : List Byte) : State :=
  (upFrom 0 8).foldl (fun s k => s.setDev (0x380 + 8 * n + k) (BitVec.ofNat 64 (fld b (8 * k) 8))) s
/-- Extend a measurement register: M = SHA-512(M || 64 bytes) (R411). -/
def extendMeas (s : State) (n : Nat) (b : List Byte) : State := setMeas s n (sha512 (measBytes s n ++ b))

/-! ### dev.fwst and the images (R406) -/

/-- Cycles in a millisecond of the 2.0 GHz clock (R19). -/
def msCycles : Nat := 2000000
def trial (s : State) : Bool := wbit (s.devReg 0x308) 3
def setTrial (s : State) (b : Bool) : State := s.setDev 0x308 (wput (s.devReg 0x308) 3 3 (if b then 1 else 0))
/-- How the last check of a slot's image ended, as dev.fwst tells it (log 5). -/
def slotOk (s : State) (b : Bool) : Bool := wbit (s.devReg 0x308) (if b then 2 else 1)
/-- dev.fwst ACTIVE. -/
def activeSlot (s : State) : Bool := wbit (s.devReg 0x308) 0

/-- The MEASURE section of a slot's image (R87), which flash holds (log 32). -/
def slotMeasure (b : Bool) : List Byte := bytesOf 136 (Config.slotMeasure b).toNat
/-- Its DIGEST. -/
def slotDigest (b : Bool) : List Byte := ((slotMeasure b).drop 8).take 64
/-- Whether a slot's MEASURE section verifies (R87, R406): its form, the SHA-512 of the image's other sections, and the
signature by the Voxone key that KEYID names. -/
def measureOk (b : Bool) : Bool :=
  let m := slotMeasure b
  fld m 0 2 == 1 && zeros m 2 2 && slotDigest b == bytesOf 64 (Config.slotSum b).toNat
    && edVerify (slotDigest b) (m.drop 72) (bytesOf 32 (Config.voxoneKey (BitVec.ofNat 32 (fld m 4 4))).toNat)
/-- Whether the kernel of a core passes (R412): one cluster, its operators on the core in slots 0 to 7, and the verification
of R67. -/
def coreOk (img : Image) : Bool :=
  img.width == 1 && img.height == 1 && (img.opers.all fun o => o.cl == 0 && o.tarn == 0xFE && o.slot < 8) && !twice img
    && (verifyImage img true 1 1).isNone
/-- Whether a slot's image passes: its MEASURE section, and the kernel of each core (R406, R412). -/
def imageGood (b : Bool) : Bool := measureOk b && (upFrom 0 8).all fun k => coreOk (Config.coreImage b k)
/-- A slot's image is loaded and checked (R406): its OK bit takes the outcome. -/
def checkSlot (s : State) (b : Bool) : State :=
  let k := if b then 2 else 1
  s.setDev 0x308 (wput (s.devReg 0x308) k k (if imageGood b then 1 else 0))
/-- The DIGEST of the image that starts is extended into register 0 (R87, R406). -/
def extendImage (s : State) (b : Bool) : State := extendMeas s 0 (slotDigest b)

/-- The configuration of a core under a slot's image. -/
def coreEntry (b : Bool) (k : Nat) : StoreEntry :=
  let img := Config.coreImage b k
  { ctx := fwCtx, image := img.addr, size := configSize img 0 0xFE, opers := img.opers }

/-- A core activates its kernel (R412): its operators are empty, and those without inputs fire once (R90). -/
def startCore (b : Bool) (s : State) (k : Nat) : State :=
  let e := coreEntry b k
  fireInputless (s.modUnit (coreKey k) fun _ => { store := [e], plane := { image := e.image, ops := freshOps e.opers } }) (coreKey k)

/-- A slot's image starts: every core runs its kernel from the beginning (R412). -/
def startCores (s : State) (b : Bool) : State :=
  let us := (upFrom 0 8).map coreKey
  let s := dropStaged (dropFirings s us) us
  let s := dropPends s fun (p : Pend) => p.own.ctx == fwCtx
  let s := { s with
    flight := s.flight.filter (fun (f : Flight) => !us.contains (destAt f.dst)), fw := { s.fw with halted := [] }
    units := s.units.filter (fun u => !us.contains u.1), coreSel := [] }
  (upFrom 0 8).foldl (startCore b) s

/-! ### Live update (R408, R409) -/

/-- The handover structure (R408): VERSION, SIZE, state whose layout no rule gives, CHECK (log 32). -/
def handoverOf (s : State) : List Byte × State :=
  let (v, s) := freeBytes s 4
  let (b, s) := freeBytes s 4084
  let body := v ++ bytesOf 4 4096 ++ b
  (body ++ bytesOf 4 (csumBytes body), s)

/-- A write of SWITCH (R408): every queue is quiesced. -/
def beginSwitch (s : State) : State :=
  if s.fw.switching || s.fw.updating then s
  else
    let s := coreInterrupt s 7
    let qs := (s.queues.filter fun q => q.2.st == .idle || q.2.st == .active).map Prod.fst
    { (qs.foldl (fun s q => queueCmd s q 2) s) with fw := { s.fw with switching := true, quiet := qs } }

/-- A live update is over (R408): the queues that it quiesced resume, and the image that runs gets the interrupts of the
records raised meanwhile. -/
def endUpdate (s : State) : State :=
  let s := s.fw.quiet.foldl (fun s q => queueCmd s q 3) { s with fw := { s.fw with quiet := [], updating := false } }
  s.fw.queued.foldl coreDeliver { s with fw := { s.fw with queued := [] } }

/-- Once the queues are quiet the handover is written, and the other slot's image is verified and started; a failure
leaves the old image running (R408). -/
def finishSwitch (s : State) : State :=
  if s.fw.quiet.any fun q => (s.queue q).st == .draining then s
  else
    let (h, s) := handoverOf s
    let s := { s with fw := { s.fw with switching := false, handover := some h } }
    let other := !activeSlot s
    let s := checkSlot s other
    if !slotOk s other then endUpdate s
    else
      let s := startCores (extendImage (setTrial s true) other) other
      { s with fw := { s.fw with updating := true, slotB := other, wdog := some (s.clk + 100 * msCycles) } }

/-- The SWITCH step of a live update that is under way. -/
def continueSwitch (s : State) : State := if s.fw.switching then finishSwitch s else s

/-- A heartbeat (R408, R411): it sets the watchdog; the first one of a new image ends the trial, makes its slot the
active one, and its image resumes the queues. -/
def heartbeat (s : State) (ms : Nat) : State :=
  let t := trial s
  let s := { s with fw := { s.fw with wdog := if ms ≠ 0 then some (s.clk + ms * msCycles) else if t then some (s.clk + 100 * msCycles) else none } }
  let s := if t then (setTrial s false).setDev 0x308 (wput ((setTrial s false).devReg 0x308) 0 0 (if s.fw.slotB then 1 else 0)) else s
  if s.fw.updating then endUpdate s else s

/-- WATCHDOG_EXPIRY (R409): in a trial the old slot starts again; else every context gets a notice, and the active image
starts again from its last handover. The image that starts hears of it (log 11). -/
def execWatchdogExpiry (s : State) : Host.Outcome State Fault Refusal :=
  match s.fw.wdog with
  | none => .next s
  | some t =>
    if s.clk < t then .next s
    else
      let b := activeSlot s
      let s := { s with fw := { s.fw with wdog := none } }
      let s := if trial s then setTrial { s with fw := { s.fw with slotB := b } } false
        else ((s.ctxs.filter fun c => c.2.st ≠ .free).map Prod.fst).foldl (fun s x => takeNotice s x 0x71 (contextSite s x)) s
      .next (coreInterrupt (startCores s b) 1)

/-- DEVICE_RESET (R9, R406): every register at its reset value, nothing in progress; flash, host memory and what memory
holds stay (log 33), as do inputs still to come and what has been sent. Boot takes slot ACTIVE, or the other when ACTIVE does
not verify, and then ACTIVE names that one (DESIGN CHOICE, log 105); its image is measured and starts. -/
def execDeviceReset (s : State) : Host.Outcome State Fault Refusal :=
  let r := { State.reset with
    mem := s.mem, hostMem := s.hostMem, fresh := s.fresh, nextId := s.nextId
    agenda := s.agenda, sentPkts := s.sentPkts, intrs := s.intrs, spdm := s.spdm, hostReads := s.hostReads }
  let flash := s.devReg 0x308
  let r := r.setDev 0x308 (wput (wput flash 4 3 0) 0 0 (wbits flash 0 0))
  let a := activeSlot r
  let r := checkSlot r a
  let r := if slotOk r a then r else checkSlot r (!a)
  let b := if slotOk r a then a else !a
  if !slotOk r b then .next r
  else
    let r := r.setDev 0x308 (wput (r.devReg 0x308) 0 0 (if b then 1 else 0))
    .next (startCores (extendImage { r with fw := { r.fw with slotB := b } } b) b)

/-! ### SPDM (R407) -/

/-- Whether a physical function answers SPDM: PF0 or PF1. -/
def spdmPF (pf : Nat) : Bool := pf == 0 || pf == 1
/-- Content whose bytes the registers do not fix: some free bytes (log 34). -/
def spdmFree (s : State) : List Byte × State :=
  let (n, s) := s.draw
  freeBytes s (Config.freeLength n % 4096)
/-- A response is given. -/
def respond (s : State) (pf code : Nat) (body : List Byte) : Host.Outcome State Fault Refusal :=
  .next { s with spdm := s.spdm ++ [{ pf := pf, code := code, body := body }] }
/-- A response with free content. -/
def respondFree (s : State) (pf code : Nat) : Host.Outcome State Fault Refusal :=
  if spdmPF pf then let (b, s) := spdmFree s; respond s pf code b else .next s

/-- GET_VERSION (R407): one version, 1.3. -/
def execGetVersion (pf : Nat) (s : State) : Host.Outcome State Fault Refusal :=
  if spdmPF pf then respond s pf 0x04 (bytesOf 1 0 ++ bytesOf 1 1 ++ bytesOf 2 0x1300) else .next s

/-- GET_CAPABILITIES (R407). -/
def execGetCapabilities (pf : Nat) (s : State) : Host.Outcome State Fault Refusal := respondFree s pf 0x61

/-- NEGOTIATE_ALGORITHMS (R407): SHA-512 and Ed25519 where the request offers them, and nothing else. -/
def execNegotiateAlgorithms (pf hashAlgs signAlgs : Nat) (s : State) : Host.Outcome State Fault Refusal :=
  if spdmPF pf then respond s pf 0x63 (bytesOf 4 (hashAlgs / 4 % 2 * 4) ++ bytesOf 4 (signAlgs / 512 % 2 * 512)) else .next s

/-- GET_DIGESTS (R407). -/
def execGetDigests (pf : Nat) (s : State) : Host.Outcome State Fault Refusal := respondFree s pf 0x01

/-- GET_CERTIFICATE (R407): a part of a chain that flash holds; never longer than asked for. -/
def execGetCertificate (pf slot offset len : Nat) (s : State) : Host.Outcome State Fault Refusal :=
  if spdmPF pf then
    let (n, s) := s.draw
    let (b, s) := freeBytes s (min (Config.freeLength (n + slot + offset)) (len % 65536))
    respond s pf 0x02 b
  else .next s

/-- CHALLENGE (R407): the answer is signed with a key that no register holds. -/
def execChallenge (pf _slot : Nat) (nonce : List Byte) (s : State) : Host.Outcome State Fault Refusal :=
  if spdmPF pf then
    let (b, s) := spdmFree s
    respond s pf 0x03 (nonce.take 32 ++ b)
  else .next s

/-- GET_MEASUREMENTS (R407): block n reports register n. Operation 0 asks for the number of blocks, 255 for all, another
number for its block (log 34). -/
def execGetMeasurements (pf op : Nat) (s : State) : Host.Outcome State Fault Refusal :=
  if !spdmPF pf then .next s
  else
    let ns := if op == 0 then [] else if op == 255 then upFrom 0 16 else if op < 16 then [op] else []
    let (b, s) := spdmFree s
    respond s pf 0x60 (bytesOf 1 (if op == 0 then 16 else ns.length) ++ ns.flatMap (fun n => bytesOf 1 n ++ measBytes s n) ++ b)

/-! ### crypt, meas and wdog (R410, R411) -/

/-- crypt (R411): a digest is staged; a verification reads and answers at issue, and is performed at the commit. -/
def execCrypt (h : Hdr) (f : FormS) (s : State) : Host.Outcome State Fault Refusal :=
  runSide s h fun i =>
    if f.id == 0 then
      if i.r.pay.toNat > 2 ^ 32 then takeBlock s i fPERM i.r.pay
      else complete s i h (.digest i.l.pay.toNat i.r.pay.toNat i.x.pay.toNat)
    else if mustWait s i then s
    else
      match readRange s i i.l.pay.toNat 64 with
      | .stop s => s
      | .ok dig b1 _ s =>
        match readRange s i i.r.pay.toNat 64 with
        | .stop s => s
        | .ok sig b2 _ s =>
          match readRange s i i.x.pay.toNat 32 with
          | .stop s => s
          | .ok key b3 _ s =>
            if b1 || b2 || b3 then takePoison s i
            else
              let (k, s) := stage s i (.verify i.l.pay.toNat i.r.pay.toNat i.x.pay.toNat)
              give s i h { i.tok (if edVerify dig sig key then 1 else 0) with deps := [k] }

/-- meas (R411): staged. -/
def execMeas (h : Hdr) (f : FormS) (s : State) : Host.Outcome State Fault Refusal :=
  runSide s h fun i => complete s i h (.meas f.id.toNat i.l.pay.toNat)

/-- wdog (R411): staged. -/
def execWdog (h : Hdr) (f : FormS) (s : State) : Host.Outcome State Fault Refusal :=
  runSide s h fun i => complete s i h (.wdog f.imm.toNat)

/-- The reach of a released operation of a core. -/
def pendReacher (p : Pend) : Reacher :=
  { d := unitDie (agentUnit p.who), x := p.own.ctx, who := .pend p.id, u := agentUnit p.who, site := pendSite p }

/-- A fault of a released operation ends it. -/
def endPend (s : State) (p : Pend) (code : Nat) (addr : Word) : State :=
  takeFault (dropPend s p.id) p.own.ctx (agentUnit p.who) code { pendSite p with addr := addr }

/-- crypt digest performs (R411): the digest of the source bytes is written, 64 bytes. -/
def performDigest (s : State) (p : Pend) (src len dst : Nat) : State :=
  let r := pendReacher p
  match reachAll s r kLoad (vCuts (len / 64 + 2) src len) with
  | .wait s => s
  | .fail s => dropPend s p.id
  | .ok ss s =>
    match reachAll s r kWrite (vCuts 3 dst 64) with
    | .wait s => s
    | .fail s => dropPend s p.id
    | .ok ds s =>
      let (bs, bad, _, s) := readSegs s (s.depPos p.deps) s.clk ss
      if bad then endPend s p fPOISON (BitVec.ofNat 64 src)
      else writeSegs (dropPend s p.id) p.own ds (sha512 bs)

/-- meas performs (R411). -/
def performMeas (s : State) (p : Pend) (n src : Nat) : State :=
  match reachAll s (pendReacher p) kLoad (vCuts 3 src 64) with
  | .wait s => s
  | .fail s => dropPend s p.id
  | .ok ss s =>
    let (bs, bad, _, s) := readSegs s (s.depPos p.deps) s.clk ss
    if bad then endPend s p fPOISON (BitVec.ofNat 64 src) else extendMeas (dropPend s p.id) n bs

/-- wdog performs (R411). -/
def performWdog (s : State) (p : Pend) (ms : Nat) : State := heartbeat (dropPend s p.id) ms

end Sys2Proof.Machine
end

