-- ==== Sys2Proof/Machine/RegWrite.lean ====
section
/-! DEFINITION. Writes of system registers under R8: the fields each register takes and what the write does, the writers
(R283, R401, R403), srd and swr, opcodes 0xC1 and 0xC2 (R293), and the rows for the writes that act. -/

namespace Sys2Proof.Machine

/-! ### Who may write (R283, R293, R401, R403, R416) -/

/-- The context whose register a write reaches. -/
def writeCtx (s : State) (w : RegWrite) : Nat :=
  match w.by_ with
  | .unit u => regCtx s u
  | _ => w.ctx
/-- The compute die whose register a write reaches. -/
def writeDie (w : RegWrite) : Nat :=
  match w.by_ with
  | .unit u => if isCore u then regDie u else unitDie u
  | _ => w.die

/-- Whether a function reaches a context through its window (R401). -/
def windowReaches (s : State) (fn x : Nat) : Bool :=
  x < 256 && (fn == 0 || fn == 16 ||
    match fnPart s fn with
    | some p => (s.ctx x).st ≠ .free && (s.ctx x).part == p && (!(s.ctx x).secure || ptabByte s p 1 % 2 == 1)
    | none => false)

/-- Whether a write reaches a register at all: an unreached one is ignored. A write of a unit that may not name the
register has raised WORLD at its issue (R293). -/
def writeReaches (s : State) (w : RegWrite) : Bool :=
  match w.by_ with
  | .unit u => !secureReg s w.num || unitSecure s u
  | .ctxWindow fn => w.num < 0xFF && windowReaches s fn w.ctx
  | .devWindow fn =>
    (fn == 0 || fn == 16) && 0x200 ≤ w.num && w.num < 0x400 && w.die < 8 && (!secureReg s w.num || hostReaches s w.num)

/-- Whether the writer of dev.einj is secure (R362). -/
def secureWriter (s : State) (w : RegWrite) : Bool :=
  match w.by_ with
  | .unit u => unitSecure s u
  | _ => false

/-! ### Fields (R8) -/

/-- A word with the bits of a mask taken from a value. -/
def withMask (old val mask : Word) : Word := (old &&& ~~~mask) ||| (val &&& mask)

/-- A log's status register (R142, R284, R351): OVF is cleared by writing 1, and LOST with it; NEXT is set. -/
def statusWrite (old val : Word) : Word :=
  let r := wput old 31 0 (wbits val 31 0)
  if wbit val 63 then wput (wput r 63 63 0) 47 32 0 else r

/-- BASE [55:12], EN [4] and SIZE [3:0] of a log or queue in virtual memory (R141, R284). -/
def logMask : Word := 0x00FFFFFFFFFFF01F
/-- BASE [55:6]. -/
def baseMask : Word := 0x00FFFFFFFFFFFFC0
/-- BASE [55:16]. -/
def pageMask : Word := 0x00FFFFFFFFFF0000
/-- LIMIT, or another field [31:0]. -/
def lowMask : Word := 0xFFFFFFFF

def setCtxMask (s : State) (x n : Nat) (val mask : Word) : State := s.setCtx x n (withMask (s.ctxReg x n) val mask)
def setDevMask (s : State) (n : Nat) (val mask : Word) : State := s.setDev n (withMask (s.devReg n) val mask)
def setDieMask (s : State) (d n : Nat) (val mask : Word) : State := s.setDie d n (withMask (s.dieReg d n) val mask)

/-! ### Context registers -/

/-- Whether a pattern of a context names a ring (R240). -/
def namesRing (n : Nat) (t : Pattern) : Bool := t.ring && t.ringId == n
/-- Whether a stream on one of a plane's ports names a ring. -/
def portsName (n : Nat) (p : Plane) : Bool := p.ports.any fun q => q.2.stream.any fun m => namesRing n m.pat

/-- Whether a stream names a ring (R239): one on a port, active or frozen, one in a dispatcher's queue, or a copy job. -/
def ringNamed (s : State) (x n : Nat) : Bool :=
  (s.units.any fun u => s.ctxOf u.1 == x && portsName n u.2.plane)
    || (s.regions.any fun r => r.2.ctx == x && r.2.levels.any fun l => l.planes.any fun p => portsName n p.2)
    || (s.clusters.any fun c => c.2.queue.any fun m => m.own.ctx == x && match m.kind with | .strm t => namesRing n t | _ => false)
    || (s.dies.any fun d => d.2.engines.any fun e => e.2.any fun j => j.own.ctx == x && namesRing n j.dst)

/-- A write of ctx.rbaseN or ctx.rcfgN (R239). -/
def ringWrite (s : State) (x num n : Nat) (val mask : Word) : State :=
  if ringFill s x n ≠ ringRel s x n || ringNamed s x n then s
  else ((setCtxMask s x num val mask).setCtx x (0x60 + n) 0).modCtx x fun c => { c with rel := tabDel c.rel n }

/-- A write of ctx.ctl (R284, R285, R290): a resume is asked of a saved context. -/
def ctlWrite (s : State) (x : Nat) (val : Word) : State :=
  let s := if wbit val 63 then startPreempt s x else s
  if wbit val 62 then s.modCtx x fun c => if c.st == .saved then { c with resume := true } else c else s

/-- A write of a context register (R284 and the rules it names); `opId` is the swr that waits for a ctx.tlbi write. -/
def ctxWrite (s : State) (x n : Nat) (val : Word) (opId : Option Nat) : State :=
  let rests := (s.ctx x).st == .free || (s.ctx x).st == .idle
  match n with
  | 0x003 => if rests then setCtxMask s x n val pageMask else s
  | 0x004 => if rests then setCtxMask s x n val lowMask else s
  | 0x005 => ctlWrite s x val
  | 0x006 | 0x010 => setCtxMask s x n val logMask
  | 0x007 | 0x011 => s.setCtx x n (statusWrite (s.ctxReg x n) val)
  | 0x008 => if rests then setCtxMask s x n val 0x000FFFFFFFFF0001 else s
  | 0x00B => tlbiWrite s x val opId
  | 0x012 | 0x013 => if usedOf s x 0x13 == 0 then setCtxMask s x n val (if n == 0x012 then baseMask else lowMask) else s
  | 0x014 | 0x015 => if usedOf s x 0x15 == 0 then setCtxMask s x n val (if n == 0x014 then baseMask else lowMask) else s
  | 0x01A | 0x01B => if usedOf s x 0x1B == 0 then setCtxMask s x n val (if n == 0x01A then baseMask else lowMask) else s
  | 0x016 => if wbits (s.ctxReg x 0x18) 7 0 == 0 then setCtxMask s x n val pageMask else s
  | 0x017 => if wbits (s.ctxReg x 0x18) 7 0 == 0 then setCtxMask s x n val 0xFF else s
  | 0x022 => setCtxMask s x n val 1
  | 0x023 => setCtxMask s x n val 0x00FFFFFFFFFFFF01
  | 0x024 => setCtxMask s x n val 0x00FFFFFFFFFFF001
  | _ =>
    if 0x040 ≤ n && n ≤ 0x04F then ringWrite s x n (n - 0x040) val baseMask
    else if 0x050 ≤ n && n ≤ 0x05F then ringWrite s x n (n - 0x050) val lowMask
    else s

/-! ### tarn.width (R106) -/

/-- A write of a tarn's tarn.width; tarn.split and tarn.share take none. -/
def tarnWrite (s : State) (u n : Nat) (val : Word) : State :=
  if n ≠ 0x101 || isNode u || isCore u then s
  else s.modUnit u fun v =>
    let r := if wbit val 63 then wput v.width 55 0 0 else v.width
    { v with width := wput r 59 56 (wbits val 59 56) }

/-! ### Die registers (R150, R151, R326, R342, R404) -/

/-- Whether n bytes from an address lie in one range of the physical map (R14). -/
def rangeInMap (a n : Nat) : Bool :=
  n == 0 || (inDram a && inDram (a + n - 1)) || (inLpddr a && inLpddr (a + n - 1)) || (inRegSpace a && inRegSpace (a + n - 1))

/-- Whether a window's registers meet R151: its view, its type and count, and its arrays. The view's base bits [15:6]
must be 0 (R150). -/
def windowOk (s : State) (d n : Nat) (ctl : Word) : Bool :=
  let base := winBase s d n 4
  let span := winSpan ctl
  let cnt := wbits ctl 39 0
  let fmt := wbits ctl 53 52
  let raw := if fmt == 0 || fmt == 3 then cnt / 2 else cnt
  let sc := if fmt == 0 then cnt / 64 else cnt / 32
  let ss := if fmt == 0 then 4 * ((cnt + 16383) / 16384) else 0
  base % 65536 == 0 && dramBase d ≤ base && base + span ≤ dramBase d + 0x1000000000
    && wbits ctl 57 56 ≤ 1 && cnt % (if fmt == 0 then 64 else 32) == 0
    && ((upFrom 0 16).all fun m => m == n || !wbit (winCtl s d m) 63
        || !rangesMeet base span (winBase s d m 4) (winSpan (winCtl s d m)))
    && rangeInMap (winBase s d n 1) raw && rangeInMap (winBase s d n 2) sc && rangeInMap (winBase s d n 3) ss

/-- The home banks drop their lines of a range, dirty ones written back (R151). -/
def dropLines (s : State) (lo n : Nat) : State :=
  { s with
    dirty := s.dirty.filter fun l => !(lo ≤ l && l < lo + n)
    views := s.views.filter fun v => !(lo ≤ v.1 && v.1 < lo + n) }

/-- The fields of die.fwctlN. -/
def fwctlMask : Word := 0x833000FFFFFFFFFF

/-- A write of a window's register (R150, R151): the enable takes effect only when its conditions hold; while a window is
on, only its disable acts. -/
def windowWrite (s : State) (d n k : Nat) (val : Word) : State :=
  let on := wbit (winCtl s d n) 63
  let num := 0x200 + 8 * n + k
  let view := fun (s : State) => dropLines s (winBase s d n 4) (winSpan (winCtl s d n))
  if k == 0 then
    if on then (if wbit val 63 then s else setDieMask (view s) d num val fwctlMask)
    else
      let s := setDieMask s d num val fwctlMask
      if wbit val 63 && !windowOk s d n val then s.setDie d num (wput (s.dieReg d num) 63 63 0)
      else if wbit val 63 then view s else s
  else if k ≤ 4 && !on then setDieMask s d num val 0x000FFFFFFFFFFFC0
  else s

/-- Whether a die's undo log may lie where BASE and SIZE say (R342): whole granules, none of an active partition. -/
def undoPlaceOk (s : State) (base size : Nat) : Bool :=
  base * 65536 % 2 ^ 31 == 0 && size % 32768 == 0
    && (activeParts s).all fun p => (granules (entryBytes s p)).all fun g => !rangesMeet g (2 ^ 31) (base * 65536) (size * 65536)

/-- A write of a die register. -/
def dieWrite (s : State) (d n : Nat) (val : Word) : State :=
  match n with
  | 0x280 => if wbit val 63 then s.setDie d n 0 else s
  | 0x281 => setDieMask s d n val 0xFF
  | 0x282 => setDieMask s d n val 0xFFFF
  | 0x288 =>
    if undoPlaceOk s (wbits val 51 16) (wbits (s.dieReg d 0x289) 31 0) then setDieMask s d n val 0x000FFFFFFFFF0000 else s
  | 0x289 =>
    if (s.die d).undo.isEmpty && undoPlaceOk s (wbits (s.dieReg d 0x288) 51 16) (wbits val 31 0) then setDieMask s d n val lowMask else s
  | _ => if 0x200 ≤ n && n ≤ 0x27F then windowWrite s d ((n - 0x200) / 8) (n % 8) val else s

/-! ### Device registers -/

/-- Whether a seal is in progress (R18): an interval has closed and is not sealed. -/
def sealingNow (s : State) : Bool := s.sealed + 1 < s.iv

/-- A function's mode takes its written value (R18). -/
def applyDuty (s : State) (k : Nat) : State := switchDuty s k

/-- A write of dev.duty (R17, R18): the modes wait for their switch points; that of page faults is now, and that of seals
when none is in progress. A write that restores the mode of group scheduling lets the nodes enter that waited. -/
def dutyWrite (s : State) (val : Word) : State :=
  let s := applyDuty (setDevMask s 0x305 val 0x3F) 1
  let s := if sealingNow s then s else applyDuty s 5
  if groupSwitching s then s else enterWaiting s

/-- A write of dev.einj (R362). -/
def einjWrite (s : State) (secure : Bool) (val : Word) : State :=
  let old := s.devReg 0x309
  if wbit old 63 || (!secure && !wbit (s.devReg 0x302) 61) then s
  else
    let new := val &&& 0xC00FFFFFFFFFFFC0
    if wbit new 63 && wbit new 62 then
      { s.setDev 0x309 (wput new 63 63 0) with poison := setAdd s.poison (wbits new 51 6 * 64) }
    else s.setDev 0x309 new

/-- A command of dev.rbctl (R351): ERR tells whether it was refused. -/
def rbctlCmd (s : State) (cmd : Nat) : State :=
  let r := s.devReg 0x30D
  let done := fun (s : State) (bad : Bool) => s.setDev 0x30D (wput (s.devReg 0x30D) 60 60 (if bad then 1 else 0))
  let c := clKey (wbits r 10 8) (wbits r 5 0)
  match cmd with
  | 1 =>
    let some_ := s.dies.any fun d => d.2.journal.any fun j => j.iv > s.sealed
    if !s.triageHost || !s.leader || s.sealing.rolling || !some_ then done s true
    else done (requestRollback s) false
  | 2 =>
    if !s.triageHost || (tabGet s.clTab c).out then done s true
    else done { s with fw := { s.fw with retire := setAdd s.fw.retire c } } false
  | _ => s

/-- A write of dev.rbctl: ERR is cleared by writing 1, the fields set, then the command acts. -/
def rbctlWrite (s : State) (val : Word) : State :=
  let s := if wbit val 60 then s.setDev 0x30D (wput (s.devReg 0x30D) 60 60 0) else s
  rbctlCmd (setDevMask s 0x30D val 0x73F) (wbits val 63 61)

/-- A write of dev.pctl (R398), in the same order. -/
def pctlWrite (s : State) (val : Word) : State :=
  let s := if wbit val 8 then s.setDev 0x307 (wput (s.devReg 0x307) 8 8 0) else s
  let s := setDevMask s 0x307 val 0xF
  pctlCmd s (wbits val 63 61)

/-- A write of dev.ptab (R397): one that clears EN while a partition is active is ignored. -/
def ptabWrite (s : State) (val : Word) : State :=
  if !wbit val 0 && !(activeParts s).isEmpty then s else setDevMask s 0x306 val 0x000FFFFFFFFFF001

/-- A write of dev.lctlN (R380). -/
def lctlWrite (s : State) (n : Nat) (val : Word) : State :=
  let mask : Word := if wbits val 21 20 == 3 then 0xFFFF else 0x30FFFF
  linkCmd (setDevMask s (0x320 + n) val mask) n (wbits val 63 61)

/-- A write of dev.sealctl (R339): CLOSE asks for a close of the open interval. -/
def sealctlWrite (s : State) (val : Word) : State :=
  let s := setDevMask s 0x302 val 0x60000000FFFFFFFF
  if wbit val 63 then requestClose s .register else s

/-- A write of a device register. -/
def devWrite (s : State) (n : Nat) (secure : Bool) (val : Word) : State :=
  match n with
  | 0x302 => sealctlWrite s val
  | 0x303 => if (upFrom 0 18).any (linkUsable s) then s else setDevMask s n val 0xFFF
  | 0x305 => dutyWrite s val
  | 0x306 => ptabWrite s val
  | 0x307 => pctlWrite s val
  | 0x308 => if wbit val 4 then beginSwitch s else s
  | 0x309 => einjWrite s secure val
  | 0x30B => setDevMask s n val 0xFFFFFFFFFFFFF01F
  | 0x30C => s.setDev n (statusWrite (s.devReg n) val)
  | 0x30D => rbctlWrite s val
  | 0x30E => setDevMask s n val 0x000FFFFFFFFF0001
  | 0x310 | 0x312 => setDevMask s n val 0x000FFFFFFFFFF001
  | 0x311 => setDevMask s n val 0x7FFFFF
  | _ => if 0x320 ≤ n && n ≤ 0x331 then lctlWrite s (n - 0x320) val else s

/-! ### One write -/

/-- A write performs at its register (R8, R293, R401, R403); one that does not reach it is ignored. -/
def regWrite (s : State) (w : RegWrite) (opId : Option Nat) : State :=
  let n := w.num
  if !writeReaches s w then s
  else if n == 0xFF then
    match w.by_ with
    | .unit u => if isCore u then { s with coreSel := tabSet s.coreSel (coreOf u) (wbits w.val 7 0) } else s
    | _ => s
  else if n < 0x100 then ctxWrite s (writeCtx s w) n w.val opId
  else if n < 0x200 then (match w.by_ with | .unit u => tarnWrite s u n w.val | _ => s)
  else if n < 0x300 then dieWrite s (writeDie w) n w.val
  else if n < 0x400 then devWrite s n (secureWriter s w) w.val
  else s

/-! ### Rows of the writes that act -/

/-- The rows of the opcode table that a register write may be. -/
inductive RegRow where
  | tarnWidthClear | xstatOvfClear | fwWindowEnable | fwWindowDisable | leaveClear | ringConfigWrite | ctxPreempt | ctxResume
  | fqstOvfClear | sealctlClose | rbctlRollback | rbctlRetire | tqstOvfClear | einjWrite | tlbiAll | tlbiVa | tlbiRetry
  | linkEnable | linkDisable | linkRelease | linkRetrain | pctlActivate | pctlResize | pctlRelease | fwSwitch | dutyWrite
  deriving DecidableEq, Repr

/-- The rows that a write is: those whose register it names and whose action its bits ask for. -/
def rowsOf (w : RegWrite) : List RegRow :=
  let on := fun (n : Nat) (r : RegRow) => if wbit w.val n then [r] else []
  let cmd := fun (c : Nat) (r : RegRow) => if wbits w.val 63 61 == c then [r] else []
  let n := w.num
  if n == 0x101 then on 63 .tarnWidthClear
  else if n == 0x011 then on 63 .xstatOvfClear
  else if n == 0x007 then on 63 .fqstOvfClear
  else if n == 0x30C then on 63 .tqstOvfClear
  else if n == 0x005 then on 63 .ctxPreempt ++ on 62 .ctxResume
  else if n == 0x00B then [if wbit w.val 63 then .tlbiAll else .tlbiVa] ++ on 62 .tlbiRetry
  else if n == 0x280 then on 63 .leaveClear
  else if n == 0x302 then on 63 .sealctlClose
  else if n == 0x305 then [.dutyWrite]
  else if n == 0x307 then cmd 1 .pctlActivate ++ cmd 2 .pctlResize ++ cmd 3 .pctlRelease
  else if n == 0x308 then on 4 .fwSwitch
  else if n == 0x309 then [.einjWrite]
  else if n == 0x30D then cmd 1 .rbctlRollback ++ cmd 2 .rbctlRetire
  else if 0x040 ≤ n && n ≤ 0x05F then [.ringConfigWrite]
  else if 0x200 ≤ n && n ≤ 0x27F && n % 8 == 0 then [if wbit w.val 63 then .fwWindowEnable else .fwWindowDisable]
  else if 0x320 ≤ n && n ≤ 0x331 then cmd 1 .linkEnable ++ cmd 2 .linkDisable ++ cmd 3 .linkRelease ++ cmd 4 .linkRetrain
  else []

/-- A row's step: the write performs when it is that row. -/
def runRow (r : RegRow) (w : RegWrite) (s : State) : Host.Outcome State Fault Refusal :=
  .next (if (rowsOf w).contains r then regWrite s w none else s)

/-- TARN_WIDTH_CLEAR (R106). -/
def execTarnWidthClear (w : RegWrite) (s : State) : Host.Outcome State Fault Refusal := runRow .tarnWidthClear w s
/-- XSTAT_OVF_CLEAR (R142). -/
def execXstatOvfClear (w : RegWrite) (s : State) : Host.Outcome State Fault Refusal := runRow .xstatOvfClear w s
/-- FW_WINDOW_ENABLE (R151). -/
def execFwWindowEnable (w : RegWrite) (s : State) : Host.Outcome State Fault Refusal := runRow .fwWindowEnable w s
/-- FW_WINDOW_DISABLE (R151). -/
def execFwWindowDisable (w : RegWrite) (s : State) : Host.Outcome State Fault Refusal := runRow .fwWindowDisable w s
/-- LEAVE_CLEAR (R326). -/
def execLeaveClear (w : RegWrite) (s : State) : Host.Outcome State Fault Refusal := runRow .leaveClear w s
/-- RING_CONFIG_WRITE (R239). -/
def execRingConfigWrite (w : RegWrite) (s : State) : Host.Outcome State Fault Refusal := runRow .ringConfigWrite w s
/-- CTX_PREEMPT (R285, R290). -/
def execCtxPreempt (w : RegWrite) (s : State) : Host.Outcome State Fault Refusal := runRow .ctxPreempt w s
/-- CTX_RESUME (R288, R290). -/
def execCtxResume (w : RegWrite) (s : State) : Host.Outcome State Fault Refusal := runRow .ctxResume w s
/-- FQST_OVF_CLEAR (R284). -/
def execFqstOvfClear (w : RegWrite) (s : State) : Host.Outcome State Fault Refusal := runRow .fqstOvfClear w s
/-- SEALCTL_CLOSE (R339, R346). -/
def execSealctlClose (w : RegWrite) (s : State) : Host.Outcome State Fault Refusal := runRow .sealctlClose w s
/-- RBCTL_ROLLBACK (R351). -/
def execRbctlRollback (w : RegWrite) (s : State) : Host.Outcome State Fault Refusal := runRow .rbctlRollback w s
/-- RBCTL_RETIRE (R351, R356). -/
def execRbctlRetire (w : RegWrite) (s : State) : Host.Outcome State Fault Refusal := runRow .rbctlRetire w s
/-- TQST_OVF_CLEAR (R351). -/
def execTqstOvfClear (w : RegWrite) (s : State) : Host.Outcome State Fault Refusal := runRow .tqstOvfClear w s
/-- EINJ_WRITE (R362). -/
def execEinjWrite (w : RegWrite) (s : State) : Host.Outcome State Fault Refusal := runRow .einjWrite w s
/-- TLBI_ALL (R374). -/
def execTlbiAll (w : RegWrite) (s : State) : Host.Outcome State Fault Refusal := runRow .tlbiAll w s
/-- TLBI_VA (R374). -/
def execTlbiVa (w : RegWrite) (s : State) : Host.Outcome State Fault Refusal := runRow .tlbiVa w s
/-- TLBI_RETRY (R376). -/
def execTlbiRetry (w : RegWrite) (s : State) : Host.Outcome State Fault Refusal := runRow .tlbiRetry w s
/-- LINK_ENABLE (R381). -/
def execLinkEnable (w : RegWrite) (s : State) : Host.Outcome State Fault Refusal := runRow .linkEnable w s
/-- LINK_DISABLE (R381). -/
def execLinkDisable (w : RegWrite) (s : State) : Host.Outcome State Fault Refusal := runRow .linkDisable w s
/-- LINK_RELEASE (R381). -/
def execLinkRelease (w : RegWrite) (s : State) : Host.Outcome State Fault Refusal := runRow .linkRelease w s
/-- LINK_RETRAIN (R381). -/
def execLinkRetrain (w : RegWrite) (s : State) : Host.Outcome State Fault Refusal := runRow .linkRetrain w s
/-- PCTL_ACTIVATE (R398). -/
def execPctlActivate (w : RegWrite) (s : State) : Host.Outcome State Fault Refusal := runRow .pctlActivate w s
/-- PCTL_RESIZE (R398, R400): a value of 0 is no write; it is the step with which a resize in progress goes on. -/
def execPctlResize (w : RegWrite) (s : State) : Host.Outcome State Fault Refusal :=
  if w.val == 0 then .next (if pctlBusy s then finishResize s else s) else runRow .pctlResize w s
/-- PCTL_RELEASE (R398). -/
def execPctlRelease (w : RegWrite) (s : State) : Host.Outcome State Fault Refusal := runRow .pctlRelease w s
/-- FW_SWITCH (R408): a value of 0 is no write; it is the step with which a live update under way goes on. -/
def execFwSwitch (w : RegWrite) (s : State) : Host.Outcome State Fault Refusal :=
  if w.val == 0 then .next (continueSwitch s) else runRow .fwSwitch w s
/-- DUTY_WRITE (R18). -/
def execDutyWrite (w : RegWrite) (s : State) : Host.Outcome State Fault Refusal := runRow .dutyWrite w s

/-- Whether every die's ready pool and memory-backed list is empty (R18). -/
def poolsEmpty (s : State) : Bool := s.dies.all fun d => d.2.ready.isEmpty

/-- DUTY_SWITCH_POINT (R18): function fn of dev.duty reaches its switch point; nodes that waited for the switch of group
scheduling then enter. Fault triage switches at the next record, and link bring-up at the next training. -/
def execDutySwitchPoint (fn : Nat) (s : State) : Host.Outcome State Fault Refusal :=
  if fn ≥ 6 || wbit (s.devReg 0x305) fn == s.duty fn then .next s
  else
    match fn with
    | 0 => .next (if poolsEmpty s then enterWaiting (applyDuty s 0) else s)
    | 1 => .next (applyDuty s 1)
    | 3 => .next (if s.clk % 1024 == 0 then applyDuty s 3 else s)
    | 5 => .next (if sealingNow s then s else applyDuty s 5)
    | _ => .next s

/-- A write to a function's registers that carries no command (R402): fn.req at 0x20000, fn.reqarg at 0x20008. -/
def fnWrite (s : State) (fn off : Nat) (val : Word) : State :=
  if off == 0 && wbits val 63 61 ≠ 1 && wbits val 63 61 ≠ 2 then fnRequest s fn val
  else if off == 8 then modFn s fn fun f => { f with list := val }
  else s

/-- A write to a queue's block that has no row of its own (R299): it carries no command and is no doorbell. -/
def blockWrite (s : State) (fn num : Nat) (val : Word) : State :=
  let q := (num - 0x1000) / 64
  let off := (num - 0x1000) % 64
  let cmd := wbits val 63 61
  if fnReaches s fn q && off ≠ 0x20 && !(off == 8 && 1 ≤ cmd && cmd ≤ 5) then queueWrite s q off val else s

/-- SYSREG_WRITE (R8): a write that is no other row's. Numbers from 0x1000 on stand for the registers of the queues'
blocks, 64 to a queue, and from 0x20000 on for a function's own registers; a function writes them. -/
def execSysregWrite (w : RegWrite) (s : State) : Host.Outcome State Fault Refusal :=
  if w.num < 0x400 then .next (if (rowsOf w).isEmpty then regWrite s w none else s)
  else
    match w.by_ with
    | .unit _ => .next s
    | .ctxWindow fn | .devWindow fn =>
      if 0x1000 ≤ w.num && w.num < 0x11000 then .next (blockWrite s fn w.num w.val)
      else if 0x20000 ≤ w.num && w.num < 0x20010 && fnAnswers s fn then .next (fnWrite s fn (w.num - 0x20000) w.val)
      else .next s

/-! ### Host reads (R15, R259, R298, R401-R403, R416) -/

/-- What a read that reaches nothing returns. -/
def allOnes : Word := BitVec.allOnes 64

/-- A register read through a window: ctx.sel reads zero, and what the window does not reach reads all-ones. -/
def windowRead (s : State) (w : RegWrite) : Word :=
  match w.by_ with
  | .unit _ => allOnes
  | .ctxWindow fn =>
    if w.num == 0xFF && windowReaches s fn w.ctx then 0
    else if writeReaches s w then readCtxReg s w.ctx w.num else allOnes
  | .devWindow _ =>
    if !writeReaches s w then allOnes else if w.num < 0x300 then readDieReg s w.die w.num else readDevReg s w.num

/-- A function's own register at an offset of its BAR0 (R402). -/
def fnRead (s : State) (fn off : Nat) : Word :=
  let f := tabGet s.fns fn
  if !fnAnswers s fn then allOnes
  else
    match off with
    | 0x00 => BitVec.ofNat 64 f.ctx
    | 0x08 => f.list
    | 0x10 => BitVec.ofNat 64 ((if f.busy then 2 ^ 63 else 0) + (if f.err then 2 ^ 62 else 0) + f.code % 256 * 256 + f.made % 256)
    | _ => allOnes

/-- The queue and the offset in its block that an offset of a function's BAR2 names (R298): the blocks of its partition's
range in order. -/
def bar2Queue (s : State) (fn off : Nat) : Option (Nat × Nat) :=
  (fnPart s fn).bind fun p => if off / 64 < ptabNat s p 0xA 2 then some (ptabNat s p 8 2 + off / 64, off % 64) else none

/-- A read of a function's BAR2. -/
def bar2Read (s : State) (fn off : Nat) : Word :=
  match bar2Queue s fn off with
  | some (q, o) => if fnReaches s fn q then readQueueReg (s.queue q) (o / 8 * 8) else allOnes
  | none => allOnes

/-- What a host read returns. -/
def hostValue (s : State) : HostTarget → Word
  | .reg w => windowRead s w
  | .own fn off => fnRead s fn off
  | .queue fn off => bar2Read s fn off
/-- The function a host read comes through. -/
def HostTarget.fn : HostTarget → Nat
  | .reg w => (match w.by_ with | .ctxWindow fn | .devWindow fn => fn | .unit _ => 0)
  | .own fn _ | .queue fn _ => fn

/-- A host read of a register completes (R259). -/
def hostRead (t : HostTarget) (s : State) : State :=
  { s with hostReads := s.hostReads ++ [{ fn := t.fn, what := some t, data := bytesOf 8 (hostValue s t).toNat }] }

/-- The host writes its own memory (R259): what a copy element that reads there returns from then on. -/
def hostStore (addr : Nat) (bytes : List Byte) (s : State) : State := { s with hostMem := memPut s.hostMem addr bytes }

/-! ### srd and swr (R293) -/

/-- Whether a unit's access of a register raises WORLD (R293, R416). -/
def worldBars (s : State) (i : Issue) (f : FormS) : Bool := secureReg s f.id.toNat && !unitSecure s i.f.u

/-- srd (R293): the register's 64 bits at issue, with the firing's tag and SEQ 0. -/
def execSrd (h : Hdr) (f : FormS) (s : State) : Host.Outcome State Fault Refusal :=
  runSide s h fun i =>
    if mustWait s i then s
    else if worldBars s i f then takeBlock s i fWORLD (BitVec.ofNat 64 f.id.toNat)
    else give s i h { i.tok (readReg s i.f.u f.id.toNat) with lreg := i.fi.lreg, iter := i.fi.iter, sq := 0 }

/-- swr (R293): staged. -/
def execSwr (h : Hdr) (f : FormS) (s : State) : Host.Outcome State Fault Refusal :=
  runSide s h fun i =>
    if worldBars s i f then takeBlock s i fWORLD (BitVec.ofNat 64 f.id.toNat)
    else complete s i h (.swr f.id.toNat i.l.pay)

/-- A task's write of an exception log's or ring's register stands at a rollback past later intervals (R143, R236). -/
def keepWritten (s : State) (x iv n : Nat) : State :=
  let ring := n % 16
  laterSnaps s x iv fun v =>
    let v := v.modReg n fun _ => s.ctxReg x n
    if n == 0x11 then v
    else { v.modReg (0x60 + ring) (fun _ => s.ctxReg x (0x60 + ring)) with rel := (s.ctx x).rel }

/-- swr takes effect (R293, R374): its token is met then, for ctx.tlbi once the invalidation is complete. -/
def performSwr (s : State) (p : Pend) (n : Nat) (val : Word) : State :=
  let w : RegWrite := { by_ := .unit (agentUnit p.who), num := n, val := val }
  if n == 0x00B then
    regWrite { s with pend := listMod (fun q => q.id == p.id) (fun q => { q with step := 1 }) s.pend } w (some p.id)
  else
    let s := regWrite (dropPend s p.id) w none
    if n == 0x11 || (0x40 ≤ n && n ≤ 0x5F) then keepWritten s (regCtx s (agentUnit p.who)) p.own.iv n else s

end Sys2Proof.Machine
end

