-- ==== Sys2Proof/Machine/Perform.lean ====
section
/-! DEFINITION. Released side effects at the places where they perform (R157, R164, R212), the home banks (R144, R259),
atomics that wait or are revoked (R162, R163), iteration grants (R117), and the staging of kernel images (R263). -/

namespace Sys2Proof.Machine

/-! ### Stores, atomics and lines -/

/-- Whether an earlier store of the same operator to an effect's bytes has yet to perform: one operator's overlapping stores
perform in release order (note 1 of R260). -/
def storeBehind (s : State) (p : Pend) : Bool :=
  (s.pend.takeWhile fun q => q.id ≠ p.id).any fun q => q.who == p.who && storesMeet q.eff p.eff

/-- The hold of an atomic's released effect. -/
def effHold (s : State) (e : Eff) : Option Hold :=
  match e with
  | .hold k => s.holds.find? fun h => h.id == k
  | _ => none

/-- Whether a released effect is of the firing that has a hold. -/
def ownHold (p : Pend) (h : Hold) : Bool := p.who == .oper h.f.u h.f.op && p.fr == h.f.fr

/-- Whether a store overlaps what a hold writes. -/
def storeMeetsHold (e : Eff) (h : Hold) : Bool :=
  e.ranges.any fun a => h.writes.any fun w => a.1.meets a.2 ((locLine h.loc).shift w.1) w.2.length

/-- Whether one of a firing's released effects performs after another: it depends on it, overlaps it as a later store,
follows it as a hold on its line (note 3 of R260), or is a store that waits for its hold. -/
def performsAfter (s : State) (ps : List Pend) (q p : Pend) : Bool :=
  q.deps.contains p.id || (storesMeet p.eff q.eff && (ps.takeWhile fun r => r.id ≠ q.id).any fun r => r.id == p.id) ||
    match effHold s p.eff with
    | none => false
    | some h => storeMeetsHold q.eff h || (effHold s q.eff).any fun g => h.id < g.id && locLine g.loc == locLine h.loc

/-- The released effects of a firing that perform after those of a list. -/
def laterEffects (s : State) (ps : List Pend) : Nat → List Pend → List Pend
  | 0, acc => acc
  | n + 1, acc =>
    match ps.filter fun q => !acc.contains q && acc.any (performsAfter s ps q) with
    | [] => acc
    | more => laterEffects s ps n (acc ++ more)

/-- Whether a hold of another block stops a released effect at a line (R162). -/
def otherHeld (s : State) (p : Pend) (loc : Loc) : Bool :=
  s.holds.any fun h => !ownHold p h && locLine h.loc == locLine loc && (plainPlaces (unitDie (agentUnit p.who))).contains h.place

/-- Whether a hold of its own block stops a released store: no store falls between an atomic's read and its write (R252),
so a store to its bytes that the atomic does not follow waits for the hold's end. -/
def ownHeld (s : State) (p : Pend) : Bool :=
  let mine := s.pend.filter fun q => q.who == p.who && q.fr == p.fr
  let after := laterEffects s mine mine.length [p]
  s.holds.any fun h => ownHold p h && storeMeetsHold p.eff h && !(after.any fun q => q.eff == .hold h.id)

/-- Whether an atomic's hold stops a released store (R162, R252). -/
def storeHeld (s : State) (p : Pend) (loc : Loc) : Bool := otherHeld s p loc || ownHeld s p

/-- A store performs: in memory or scratch, or at the register of a queue (R298); its unit's L1 loses a copy with a two-bit
error. -/
def performSt (s : State) (p : Pend) (loc : Loc) (bs : List Byte) (cls : Nat) : State :=
  if storeBehind s p || storeHeld s p loc then s
  else
    match loc with
    | .mem pa =>
      if inRegSpace pa then
        match queueBlock pa with
        | some (q, off) => queueStore (dropPend s p.id) q off bs
        | none => dropPend s p.id
      else dropPend (performStore (dropL1 s (agentUnit p.who) [lineOf pa]) loc bs p.own cls) p.id
    | _ => dropPend (performStore s loc bs p.own cls) p.id

/-- The commit of an atomic (R162): its new bytes become the line's, and the hold ends. Holds of one block on a line end in
the order they were taken. -/
def performHold (s : State) (p : Pend) (k : Nat) : State :=
  match s.holds.find? fun h => h.id == k with
  | none => dropPend s p.id
  | some h =>
    if s.holds.any fun g => g.id < k && g.f == h.f && locLine g.loc == locLine h.loc then s
    else
      let s := { s with holds := s.holds.filter fun g => g.id ≠ k }
      dropPend (h.writes.foldl (fun s w => performStore s ((locLine h.loc).shift w.1) w.2 p.own h.cls) s) p.id

/-- Whether another block's atomic holds one of some lines against a released cwb or cinv. -/
def linesHeld (s : State) (p : Pend) (ls : List Nat) : Bool := ls.any fun l => otherHeld s p (.mem l)

/-! ### tld and tst (R201, R212) -/

/-- Whether an earlier transfer of a node has yet to use a register: a tst before a tld, a tld before a tst. -/
def transferBefore (s : State) (u t id : Nat) (isLd : Bool) : Bool :=
  let other := fun (e : Eff) => match e with
    | .tld r _ _ _ _ => r == t
    | .tst r _ _ _ _ => isLd && r == t
    | _ => false
  (s.pend.any fun p => p.id < id && other p.eff && (match p.who with | .oper v _ => v == u | _ => false))
    || (isLd && (s.unit u).plane.ops.any fun o => o.2.firings.any fun g => g.staged.any fun e =>
          e.id < id && (match e.eff with | .tst r _ _ _ _ => r == t | _ => false))

/-- The reach of a node's released transfer. -/
def transferReacher (p : Pend) : Reacher :=
  let u := agentUnit p.who
  { d := unitDie u, x := p.own.ctx, who := .pend p.id, u := u, site := pendSite p }

/-- The pieces of row i: its COLS bytes and, with a side base, its side bytes. -/
def rowCuts (t : Tile) (base : Nat) (stride : Int) (side : Option Nat) (i : Nat) : List (Nat × Nat) :=
  let va := (((base : Int) + i * stride) % (2 ^ 64 : Nat)).toNat
  vCuts (t.cols / 64 + 2) va t.cols ++ (match side with | some b => [((b + 8 * i) % 2 ^ 64, 8)] | none => [])

/-- A transfer's rows so far; a row counts as progress of its task (R317). -/
def setStep (s : State) (p : Pend) (n : Nat) : State :=
  touchTask { s with pend := listMod (fun q => q.id == p.id) (fun q => { q with step := n }) s.pend } p.own.reg

/-- A fill has ended: the register is busy only while another fill of it waits. -/
def endFill (s : State) (p : Pend) (t : Nat) : State :=
  let u := agentUnit p.who
  let s := touchTask (dropPend s p.id) p.own.reg
  let more := s.pend.any fun q => q.who == p.who && (match q.eff with | .tld r _ _ _ _ => r == t | _ => false)
  s.modNode u fun n => n.setTile t { n.tile t with busy := more }

/-- tld performs its next row (R212): COLS bytes and, with AR = 3, the 8 side bytes; without, the side bytes are
cleared. P is set when a line read is poisoned. -/
def performTld (s : State) (p : Pend) (t base : Nat) (stride : Int) (side : Option Nat) : State :=
  let u := agentUnit p.who
  if transferBefore s u t p.id true then s
  else
    let r := (s.unit u).plane.node.tile t
    match reachAll s (transferReacher p) kLoad (rowCuts r base stride side p.step) with
    | .wait s => s
    | .fail s => endFill s p t
    | .ok segs s =>
      let (bs, bad, _, s) := readSegs s (readFloor s p.own.reg p.deps) s.clk segs
      let s := s.modNode u fun n =>
        let r := n.tile t
        let r := if p.step == 0 then { r with side := if side.isSome then r.side else [], p := false } else r
        let r := { r with bytes := memPut r.bytes (p.step * 128) (bs.take r.cols), p := r.p || bad }
        n.setTile t (if side.isSome then { r with side := memPut r.side (p.step * 8) (bs.drop r.cols) } else r)
      if p.step + 1 ≥ r.rows then endFill s p t else setStep s p (p.step + 1)

/-- tst performs its next row (R212): a poisoned register raises POISON and stores nothing. -/
def performTst (s : State) (p : Pend) (t base : Nat) (stride : Int) (side : Option Nat) : State :=
  let u := agentUnit p.who
  let r := (s.unit u).plane.node.tile t
  let stop := fun (s : State) (c : Nat) (a : Nat) =>
    takeFault (dropPend s p.id) p.own.ctx u c { pendSite p with addr := BitVec.ofNat 64 a }
  if transferBefore s u t p.id false then s
  else if r.p then stop s fPOISON base
  else
    match reachAll s (transferReacher p) kWrite (rowCuts r base stride side p.step) with
    | .wait s => s
    | .fail s => dropPend s p.id
    | .ok segs s =>
      match roomOf s p.own.iv segs with
      | .wait => waitRoom s segs
      | .full => stop s fEGRESS base
      | .ok =>
        let bs := memBytes r.bytes (p.step * 128) r.cols ++ (if side.isSome then memBytes r.side (p.step * 8) 8 else [])
        let s := writeSegs s p.own segs bs
        if p.step + 1 ≥ r.rows then touchTask (dropPend s p.id) p.own.reg else setStep s p (p.step + 1)

/-! ### The event -/

/-- An export that has been given its evaluation stores it (R191): where its instruction found its places, or, where its
pool was declared only later, where its address leads now, under the checks that issue makes (R158). -/
def performPexp (s : State) (p : Pend) (addr : Nat) (segs : List (Loc × Nat × Nat)) : State :=
  match exportWait s p with
  | none => s
  | some (r, w) =>
    let bs := exportBytes r w
    if (segs.map fun g => g.2.1).sum == bs.length then
      if storeBehind s p || ownHeld s p || segs.any (fun g => otherHeld s p g.1) then s else performExport s p w bs segs
    else if addr < 2 ^ 56 && addr % poolSize r ≠ 0 then
      takeFault (dropPend (dropWait s w.id) p.id) p.own.ctx (agentUnit p.who) fALIGN { pendSite p with addr := BitVec.ofNat 64 addr }
    else
      match reachAll s (transferReacher p) kWrite (vCuts (bs.length / 64 + 2) addr bs.length) with
      | .wait s => s
      | .fail s => dropPend (dropWait s w.id) p.id
      | .ok segs s => performExport s p w bs (segs.map fun g => (.mem g.1, g.2.1, g.2.2))

/-- A send to another device goes out in its operator's order of release, once its dependency set has performed (R251;
log 102). -/
def performRsend (s : State) (p : Pend) (r : Route) (t : Token) : State :=
  let isSend := fun (e : Eff) => match e with | .rsend _ _ _ _ _ _ => true | _ => false
  if (s.pend.takeWhile fun q => q.id ≠ p.id).any fun q => q.who == p.who && isSend q.eff then s
  else dropPend (sendRemote s p.who p.own.ctx p.own.iv r t) p.id

/-- A released side effect performs as far as it can now. Pool operations, stream commands and copy jobs are taken in at
their homes, dispatchers and engines. -/
def performPend (s : State) (p : Pend) : State :=
  if !(s.live p.deps).isEmpty then s
  else
    match p.eff with
    | .store loc bs _ cls => performSt s p loc bs cls
    | .hold k => performHold s p k
    | .cwb ls sc => if linesHeld s p ls then s else dropPend (performCwb s ls sc) p.id
    | .cinv ls sc => if linesHeld s p ls then s else dropPend (performCinv s (agentUnit p.who) ls sc) p.id
    | .ffree off => dropPend (performFfree s (agentUnit p.who) off) p.id
    | .pexp _ _ _ _ addr segs => performPexp s p addr segs
    | .rsend route dev ctx links mc t => performRsend s p { dev := dev, ctx := ctx, route := route, links := links, mc := mc } t
    | .ringrel n k => performRingrel s p n k
    | .kload a _ => performKload s p a
    | .kdrop a => performKdrop s p a
    | .launch bs r => performLaunch s p bs r
    | .gpatch g n v => performGpatch s p g n v
    | .done => performDone s p
    | .seal n => performSeal s p n
    | .irrev pa bs => performIrrev s p pa bs
    | .swr n v => if p.step == 0 then performSwr s p n v else s
    | .trap c stop d => performTrap s p c stop d
    | .yield => performYield s p
    | .halt => if p.step == 0 then performHalt s p else s
    | .digest src len dst => performDigest s p src len dst
    | .meas r src => performMeas s p r src
    | .verify _ _ _ => dropPend s p.id
    | .wdog ms => performWdog s p ms
    | .tld t b st sd _ => performTld s p t b st sd
    | .tst t b st sd _ => performTst s p t b st sd
    | .send _ _ _ | .pdecl _ _ | .contrib _ _ | .pset _ _ _ _ | .pdrop _ | .strm _ _ _ | .strmi _ _ _ | .sstop _ _ _
    | .pbinv _ _ | .sbar _ | .bar _ _ _ | .marker _ _ _ | .cpy _ _ | .call _ _ _ _ _ _ | .ret _ _ _ | .tcall _ _ _ _ _ => s

/-- MEMORY_OP_PERFORM (R157): the released side effect k performs once every operation it depends on has, and meets its
obligation. -/
def execMemoryOpPerform (k : Nat) (s : State) : Host.Outcome State Fault Refusal :=
  match s.pend.find? fun p => p.id == k with
  | none => .next s
  | some p => .next (performPend s p)

/-- MSC_EVICT (R144): a dirty line reaches DRAM or LPDDR. -/
def execMscEvict (line : Nat) (s : State) : Host.Outcome State Fault Refusal :=
  .next { s with dirty := s.dirty.filter (· ≠ lineOf line) }

/-- ATOMIC_HOLD_REVOKE (R162): a hold of 4,096 cycles whose block has not committed is revoked, and the block aborts. -/
def execAtomicHoldRevoke (k : Nat) (s : State) : Host.Outcome State Fault Refusal :=
  match s.holds.find? fun h => h.id == k with
  | none => .next s
  | some h =>
    let staged := (s.firing? h.f).any fun g => g.st == .running && g.staged.any fun t => t.eff == .hold k
    if staged && s.clk ≥ h.since + 4096 then .next (abortFiring s h.f .clear) else .next s

/-- The state with the focus on a slot. -/
def focusOn (s : State) (f : FireRef) (slot : Nat) : State := { s with focus := f, focusSlot := slot }

/-- OAMO_RETRY (R163): the tarn presents a slot's ordered atomic again. -/
def execOamoRetry (f : FireRef) (slot : Nat) (s : State) : Host.Outcome State Fault Refusal :=
  match (blockOf? s f).bind fun b => b.2[slot]? with
  | none => .next s
  | some w =>
    match decode w with
    | .instr (.oamo h m) => execOamo h m (focusOn s f slot)
    | _ => .next s

/-- TAG_GRANT (R117): the first request that waits for a loop region's list is granted an iteration. -/
def execTagGrant (ctx reg lreg : Nat) (s : State) : Host.Outcome State Fault Refusal :=
  let k := regKey ctx reg
  let r := s.region k
  let l := tabGet r.lists lreg
  let waits := fun (q : TagReq) => q.lreg == lreg && q.grant.isNone
  if r.stopped || !canGrant l || !r.tagReqs.any waits then .next s
  else
    let (n, l) := grantOf l
    .next (s.modRegion k fun r =>
      { r with lists := tabSet r.lists lreg l, tagReqs := listMod waits (fun q => { q with grant := some n }) r.tagReqs })

/-! ### The host (R259, R341) -/

/-- Whether every byte of a range is stacked DRAM or LPDDR. -/
def memoryRange (a n : Nat) : Bool := inMemory a && inMemory (a + (n - 1)) && (a + (n - 1) < 0x8000000000 || 0x10000000000 ≤ a)

/-- HOST_MEMORY_ACCESS (R259, R341): a host read or write of device memory performs at the home banks, unless an atomic
holds a line there. A host write to a view is dropped: a view is read-only, and no context is there to fault (R152). -/
def execHostMemoryAccess (fn addr len : Nat) (write : Bool) (bytes : List Byte) (s : State) : Host.Outcome State Fault Refusal :=
  let n := if write then bytes.length else len
  let cuts := vCuts (n / 64 + 2) addr n
  if fn ≥ 32 || n == 0 || !memoryRange addr n || cuts.any fun c => s.holds.any fun h => h.place == 100 && locLine h.loc == .mem (lineOf c.1) then
    .next s
  else if write then
    if cuts.any fun c => (winOf s c.1).isSome then .next s else .next (hostPut s addr bytes)
  else
    let (bs, bad, s) := cuts.foldl (fun (a : List Byte × Bool × State) c =>
      let (b, p, s) := physRead a.2.2 c.1 c.2
      (a.1 ++ b, a.2.1 || p, s)) ([], false, s)
    .next { s with hostReads := s.hostReads ++ [{ fn := fn, addr := addr, data := bs, bad := bad }] }

/-! ### Staging (R263-R265, R315) -/

/-- A staging ends. -/
def dropStage (s : State) (k : Nat) : State := { s with stages := s.stages.filter fun g => g.id ≠ k }

/-- The leave for a task's load on a region ends with its staging (R315, R404). -/
def endLoadLeave (s : State) (reg task : Nat) : State :=
  let r := s.region reg
  r.clusters.foldl (fun s c => endLeave s r.die (.load r.die c task)) s
/-- Whether the governor of each cluster of a region has granted leave for a task's load. -/
def hasLoadLeave (s : State) (reg task : Nat) : Bool :=
  let r := s.region reg
  r.clusters.all fun c => hasLeave s r.die (.load r.die c task)

/-- A dispatched task's kernel has been staged: it is activated at depth 0, or its frame does not fit (R147). -/
def startKernel (s : State) (g : Stage) (task : Nat) (img : Image) : State :=
  let s := endLoadLeave (dropStage s g.id) g.reg task
  if framesFit s g.reg img.frame .dispatch then activate s g.reg img {} .dispatch task true false []
  else takeFault s g.ctx 0 fDEPTH { die := g.die, cl := (s.region g.reg).cluster 0, tarn := 0xFE, addr := BitVec.ofNat 64 g.addr }

/-- IMAGE_STAGE (R263, R265): the image is read, checked and verified into the die's configuration cache, for a kload, a
call, a dispatched task or a resume. -/
def execImageStage (k : Nat) (s : State) : Host.Outcome State Fault Refusal :=
  match s.stages.find? fun g => g.id == k with
  | none => .next s
  | some g =>
    match g.who with
    | .kload id =>
      match s.pend.find? fun p => p.id == id with
      | none => .next (dropStage s k)
      | some p =>
        let res := match p.eff with | .kload _ r => r | _ => false
        match stageNow s g.die g.ctx (s.region g.reg) g.addr with
        | .wait s => .next s
        | .ok img s => .next (dropPend (dropStage (if res then makeResident s g.reg img ((s.region g.reg).kref.getD {}).image else s) k) id)
        | .fault s c site =>
          .next (takeFault (dropPend (dropStage s k) id) g.ctx (agentUnit p.who) c { site with attempt := p.own.attempt })
    | .call x r =>
      match stageNow s g.die g.ctx (s.region g.reg) g.addr with
      | .wait s => .next s
      | .ok _ s => .next (dropStage s k)
      | .fault s c site =>
        let s := dropStage s k
        match pickCall s (regKey x r) with
        | none => .next s
        | some q => .next (failCall s (regKey x r) q c site)
    | .task t =>
      if !hasLoadLeave s g.reg t then .next s
      else
        match stageNow s g.die g.ctx (s.region g.reg) g.addr with
        | .wait s => .next s
        | .ok img s => .next (startKernel s g t img)
        | .fault s c site => .next (takeFault (endLoadLeave (dropStage s k) g.reg t) g.ctx 0 c site)
    | .resume x =>
      match stageNow s g.die g.ctx (s.region g.reg) g.addr with
      | .wait s => .next s
      | .ok _ s => .next (dropStage s k)
      | .fault s c site => .next (stopWith (dropStage s k) x c site)

end Sys2Proof.Machine
end

