-- ==== Sys2Proof/Machine/Operator.lean ====
section
/-! DEFINITION. Firings and blocks: token arrival (R90-R95), selection and gathering (R102-R107), the start of a block
(R50, R52), commit and release (R97), re-fire (R99-R101), and the share arbiter (R103). -/

namespace Sys2Proof.Machine

/-! ### Arrival (R91, R93, R95) -/

/-- Whether a unit belongs to the context a token was sent in. -/
def ownsUnit (s : State) (u x : Nat) : Bool := if isCore u then x == fwCtx else (s.unit u).owner.any fun k => k / 64 == x

/-- A token meets a unit that its context no longer has: it raises NO_HANDLER against its own context. -/
def noHandler (s : State) (f : Flight) : State :=
  match f.dst with
  | .chan u o c => arrivalFault s f.ctx u o c fNOHANDLER f
  | .port d c p => arrivalFault s f.ctx (tarn0 d c) 0 p fNOHANDLER f

/-- TOKEN_ARRIVAL (R90, R91, R93, R95): token k reaches its destination, after the earlier ones of its sender there. -/
def execTokenArrival (k : Nat) (s : State) : Host.Outcome State Fault Refusal :=
  match s.flight.find? fun f => f.id == k with
  | none => .next s
  | some f =>
    let u := destAt f.dst
    let s' := { s with flight := s.flight.filter fun g => g.id ≠ k }
    if behind s f || (!isCore u && (s.region (s.regOf u)).stopped) then .next s
    else if !ownsUnit s u f.ctx then .next (noHandler s' f)
    else
      match deliver s' f with
      | none => .next s
      | some t =>
        match f.dst, f.item with
        | .chan v o _, .mark .barrier _ => .next (checkClash t v o)
        | _, _ => .next t

/-! ### The start of a block (R50, R52) -/

/-- Where a firing goes on: a block with its repeat count, BLK_STUCK at a block, or END. -/
inductive Entry where
  | run (block n : Nat)
  | stuck (block : Nat)
  | done
  deriving DecidableEq, Repr, Inhabited

/-- Enter a block: its repeat count, and ZX for a count of zero, at most 64 times in succession. -/
def enterBlock (heads : List Nat) (s31 : Nat) : Nat → Nat → Entry
  | 0, b => .stuck b
  | fuel + 1, b =>
    match heads[b]? with
    | none => .stuck b
    | some h =>
      let n := if bhREP h ≠ 0 then bhREP h else s31
      if n > 4095 then .stuck b
      else if n ≠ 0 then .run b n
      else if fuel == 0 then .stuck b
      else if bhZX h == 63 then .done
      else enterBlock heads s31 fuel (bhZX h)

/-- The headers of an operator's blocks. -/
def blockHeads (s : State) (u o : Nat) : List Nat := ((opRec? s u o).getD {}).blocks.map fun b => (blockParts b).1

/-- Where a firing goes on from the boundary it stands at; a repetition, or a re-fire, keeps its count (R51). -/
def entryOf? (s : State) (u o : Nat) (g : Firing) : Entry :=
  if g.nrep ≠ 0 then .run g.block g.nrep
  else enterBlock (blockHeads s u o) (tabGet ((s.op? u o).getD {}).sregs 31).val.toNat 64 g.block

/-- Whether a block may be gathered (R105). -/
def gatherable (s : State) (u o : Nat) (e : Entry) : Bool :=
  match e with
  | .run b _ =>
    !isNode u && !isCore u && (match (blockHeads s u o)[b]? with
      | some h => !bhNoSimd h && bhWMASK h == 0
      | none => false)
  | _ => false

/-! ### What an operator can do next (R101, R102, R105, R182) -/

/-- Whether a unit works: a core that is not halted, or a unit of a region whose kernel runs. -/
def unitRuns (s : State) (u : Nat) : Bool :=
  if isCore u then !(s.unit u).halted && !s.fw.halted.contains (coreOf u)
  else
    let r := s.region (s.regOf u)
    (s.unit u).owner.isSome && r.kref.isSome && !r.stopped && ctxRuns s (s.ctxOf u)

/-- Lanes with a block in progress, and lanes that stand at a boundary. -/
def startedLanes (q : OpState) : List Firing := q.firings.filter fun g => g.st == .running && g.started
def boundaryLanes (q : OpState) : List Firing := q.firings.filter fun g => g.st == .running && !g.started

/-- Whether pool operations that a firing released have yet to reach their homes (R182). -/
def poolsOut (s : State) (u o : Nat) (g : Firing) : Bool :=
  s.pend.any fun p => p.who == .oper u o && p.fr == g.id && (effPool p.eff).isSome && p.step == 0

/-- The lanes that start together with the first one: those at the same block and repetition. -/
def groupOf (s : State) (u o : Nat) : List Firing → List Firing
  | [] => []
  | g :: r =>
    let e := entryOf? s u o g
    if gatherable s u o e then (g :: r.filter fun h => entryOf? s u o h == e && h.rep == g.rep).take 8 else [g]

/-- Whether another match of an operator is partly filled: some channel holds a token. -/
def partlyFilled (q : OpState) : Bool := q.chans.any fun c => c.2.held.any fun h => match h.item with | .tok _ => true | _ => false

/-- tarn.width HOLD. -/
def holdOf (s : State) (u : Nat) : Nat := wbits (s.unit u).width 59 56

/-- Firings that have not started, in the order of their matches (R105). -/
def freshLanes (q : OpState) : List Firing :=
  sortBy (fun (a b : Firing) => a.since < b.since || (a.since == b.since && a.tag < b.tag))
    (q.firings.filter fun g => g.st == .ready && !g.refire && !g.alone)

/-- The ready firing, or the gathered ones, that an operator would start. A ready firing that waits for company gives
none, unless `late` says that its wait is over. -/
def readyLanes (s : State) (u o : Nat) (q : OpState) (late : Bool) : List Firing :=
  match q.firings.find? fun g => g.st == .ready with
  | none => []
  | some g =>
    if g.refire || g.alone then [g]
    else
      match freshLanes q with
      | [] => []
      | f :: r =>
        let ls := groupOf s u o (f :: r)
        if gatherable s u o (entryOf? s u o f) && ls.length < 8 && partlyFilled q && s.clk < f.since + holdOf s u && !late then [] else ls

/-- What an operator has to do: go on with its issue, let the lanes of its issue enter their next block, or start
firings as a new issue. -/
inductive Work where
  | none
  | resume
  | goOn (lanes : List Firing)
  | start (lanes : List Firing)
  deriving DecidableEq, Repr, Inhabited

def opWork (s : State) (u o : Nat) : Work :=
  match s.op? u o with
  | none => .none
  | some q =>
    if !(startedLanes q).isEmpty then .resume
    else if draining s u then .none
    else
      let kept := (boundaryLanes q).filter fun g => g.issue ≠ 0
      let split := ((boundaryLanes q).filter fun g => g.issue == 0).filter fun g => !poolsOut s u o g
      if !kept.isEmpty then (if kept.any (poolsOut s u o) then .none else .goOn (groupOf s u o kept))
      else if !split.isEmpty then .start (groupOf s u o split)
      else
        match readyLanes s u o q false with
        | [] => .none
        | ls => .start ls

/-! ### Starting an issue -/

/-- The firing consumes its tokens (R52, R94): they leave the buffer, its entry frees, and its channels may be on
again. Several firings of one tag on multi channels share the entry, which the first of them frees (log 103). -/
def eatTokens (s : State) (f : FireRef) : State :=
  match s.firing? f with
  | none => s
  | some g =>
    if g.eaten then s
    else
      let s := s.modFiring f fun g => { g with eaten := true }
      let s := s.modPlane f.u fun p =>
        { p with entries := p.entries.filter fun e => !(e.op == f.op && e.lreg == g.lreg && e.iter == g.iter) }
      let s := g.toks.foldl (fun s c => updateOff s f.u f.op c.1) s
      matchUnit (drainOvf s f.u) f.u

/-- A firing that has reached END is gone (R101). -/
def endFiring (s : State) (f : FireRef) : State := (eatTokens s f).dropFiring f

/-- Number a firing that first starts running (R119). -/
def numberFiring (s : State) (f : FireRef) : State :=
  match s.firing? f with
  | none => s
  | some g =>
    if g.num.isSome then s
    else
      let n := ((s.op? f.u f.op).getD {}).count
      (s.modFiring f fun g => { g with num := some n }).modOp f.u f.op fun q => { q with count := n + 1 }

/-- A lane starts its block under an issue (R50, R52, R55). -/
def startLane (s : State) (u o issue : Nat) (g : Firing) : State :=
  let f : FireRef := { u := u, op := o, fr := g.id }
  let e := entryOf? s u o g
  let s := numberFiring s f
  match e with
  | .run b n => s.modFiring f fun g =>
      { g with st := .running, refire := false, alone := false, issue := issue, started := true, block := b, nrep := n
               pos := [], fired := [], staged := [], wrs := [], branch := none, grants := [], frees := [], tagfrees := [] }
  | .stuck b => blockFault (s.modFiring f fun g => { g with st := .running, block := b }) f 0 fBLKSTUCK 0
  | .done => endFiring s f

/-- tarn.width counts an issue (R106): FIRINGS and ISSUES stop when either is full. -/
def countWidth (s : State) (u n : Nat) : State :=
  if isNode u || isCore u then s
  else s.modUnit u fun v =>
    let w := v.width
    let full := wbits w 55 32 == 0xFFFFFF || wbits w 31 8 == 0xFFFFFF
    let w := if full then w else wput (wput w 55 32 (satAt 0xFFFFFF (wbits w 55 32 + n))) 31 8 (wbits w 31 8 + 1)
    { v with width := wput (wput w 7 4 (max (wbits w 7 4) n)) 3 0 n }

/-- Start lanes as a new issue, which takes a firing slot (R102). -/
def startIssue (s : State) (u o : Nat) (ls : List Firing) : State :=
  let k := (s.unit u).issues + 1
  let s := s.modUnit u fun v => { v with issues := k, consec := v.consec + 1 }
  let s := countWidth (s.modOp u o fun q => { q with slots := q.slots + 1 }) u ls.length
  ls.foldl (fun s g => startLane s u o k g) s

/-- The lanes of an issue enter their next block together; the others of the issue go on as issues of their own
(R105). -/
def goOnLanes (s : State) (u o : Nat) (ls : List Firing) : State :=
  let ids := ls.map (·.id)
  let s := s.modOp u o fun q => { q with firings := q.firings.map fun (g : Firing) =>
    if g.st == .running && !g.started && !ids.contains g.id then { g with issue := 0 } else g }
  ls.foldl (fun s g => startLane s u o g.issue g) s

/-- Do what an operator has to do. -/
def runWork (s : State) (u o : Nat) (w : Work) : State :=
  match w with
  | .goOn ls => goOnLanes s u o ls
  | .start ls => startIssue s u o ls
  | _ => s

/-! ### Selection (R102, R105) -/

/-- The operators of a unit with work, in slot order. -/
def workers (s : State) (u : Nat) : List Nat := ((s.unit u).plane.ops.map Prod.fst).filter fun o => opWork s u o ≠ .none

/-- The operator with the lowest ratio of slots used to share; ties go to the lowest slot. -/
def lowestRatio (s : State) (u : Nat) (os : List Nat) : Option Nat :=
  let q := fun o => (s.op? u o).getD {}
  os.foldl (fun (m : Option Nat) o =>
    match m with
    | none => some o
    | some b => if (q o).slots * max (q b).share 1 < (q b).slots * max (q o).share 1 then some o else m) none

/-- The firing slots of a unit since the oldest ready firing of an operator became ready (R107). -/
def slotsWaited (s : State) (u o : Nat) : Nat :=
  let gs := (((s.op? u o).getD {}).firings).filter fun g => g.st == .ready
  gs.foldl (fun n g => max n ((s.unit u).issues - g.slot0)) 0

/-- Whether every other operator with a ready firing can still begin within 16 slots for each operator of the unit when one
is given its next 16 slots (R107; log 104). -/
def keepsBound (s : State) (u : Nat) (os : List Nat) (o : Nat) : Bool :=
  let waits := sortBy (fun (a b : Nat) => a > b) ((os.filter (· ≠ o)).map (slotsWaited s u))
  waits.zipIdx.all fun w => w.1 == 0 || w.1 + 16 * (w.2 + 1) ≤ 16 * (s.unit u).plane.ops.length

/-- The operator that a switch selects (R102, R107; log 104): of the lowest ratio among those that keep every wait within its
bound, or the one that has waited longest. The present one may be selected again. -/
def pickOp (s : State) (u : Nat) (os : List Nat) : Option Nat :=
  match lowestRatio s u (os.filter (keepsBound s u os)) with
  | some o => some o
  | none => (sortBy (fun (a b : Nat) => slotsWaited s u a > slotsWaited s u b) os).head?

/-- The operator that has the unit next (R102): the present one, unless it stalls or has had 16 slots while another waits.
DESIGN CHOICE: after 16 slots the present one may be selected again (log 104). -/
def selectOp (s : State) (u : Nat) (stalled : Bool) : Option Nat :=
  let ws := workers s u
  match (s.unit u).cur with
  | some c =>
    if ws.contains c && !stalled && ((s.unit u).consec < 16 || ws.length == 1) then some c
    else pickOp s u (if stalled then ws.filter (· ≠ c) else ws)
  | none => pickOp s u ws

/-- The unit goes to an operator. -/
def switchTo (s : State) (u o : Nat) : State :=
  if (s.unit u).cur == some o && (s.unit u).consec < 16 then s
  else s.modUnit u fun v => { v with cur := some o, consec := 0 }

/-- FIRING_SELECTION (R102, R105): the unit's next operator starts, or goes on with, its issue. `stalled` says that the
present operator's issue cannot progress in this cycle. -/
def execFiringSelection (u : Nat) (stalled : Bool) (s : State) : Host.Outcome State Fault Refusal :=
  if !unitRuns s u then .next s
  else
    match selectOp s u stalled with
    | none => .next s
    | some o => .next (runWork (switchTo s u o) u o (opWork s u o))

/-- GATHER_HOLD_EXPIRY (R105): the HOLD wait of an operator's oldest ready firing is over, and it starts with the company it
has, when no other operator has work before it. -/
def execGatherHoldExpiry (u op : Nat) (s : State) : Host.Outcome State Fault Refusal :=
  match s.op? u op with
  | none => .next s
  | some q =>
    match freshLanes q with
    | [] => .next s
    | f :: _ =>
      if !unitRuns s u || draining s u || s.clk < f.since + holdOf s u || selectOp s u false ≠ some op then .next s
      else
        match opWork s u op with
        | .start _ => .next (startIssue (switchTo s u op) u op (readyLanes s u op q true))
        | _ => .next s

/-! ### Admission (R97) -/

/-- How a staged side effect, or a block, stands: admitted, waiting, faulted, or to be aborted (R267). -/
inductive Admit where
  | ok
  | wait
  | close
  | fault (slot code : Nat) (addr : Word)
  | abort
  deriving DecidableEq, Repr, Inhabited

/-- What the logs answer, as an admission; an egress page that is full asks for a close (R345). -/
def admitRoom (r : Room) (slot : Nat) (egress : Bool) (a : Nat) : Admit :=
  match r with
  | .ok => .ok
  | .wait => if egress then .close else .wait
  | .full => .fault slot fEGRESS (BitVec.ofNat 64 a)

/-- The address a place is known by in a record. -/
def Loc.addr : Loc → Nat
  | .mem a => a
  | .host _ a => a
  | .scratch _ a => a

/-- Units of egress that released irrev writes of a die still need. -/
def irrevWaiting (t : State) (d : Nat) : Nat :=
  ((t.pend.filter fun p => match p.eff with | .irrev _ _ => irrevDie p == d && p.own.iv ≠ 0 | _ => false).length) * 2

/-- The place that a staged or released send goes to on the die. -/
def sendDest (s : State) (p : Pend) : Option Dest :=
  match p.who, p.eff with
  | .oper u o, .send ch _ _ => (chanRec? s u o ch).bind fun r => if isRemote r.dest then none else some (destOf s u r.dest)
  | _, _ => none

/-- A send (R96, R112, R379, R382): its destination is open. During a freeze the block aborts when channel and carve-out
are full (R267). `t` holds the block's earlier sends and those already admitted elsewhere. -/
def admitSend (s t : State) (f : FireRef) (p : Pend) (ch : Nat) : Admit × State :=
  match chanRec? s f.u f.op ch with
  | none => (.ok, s)
  | some r =>
    if isRemote r.dest then
      match readRoute s (regDie f.u) (s.ctxOf f.u) (bits r.dest 5 0) with
      | .fault c a s => (.fault p.slot c a, s)
      | .ok rt s => (if flowOpen s (.oper f.u f.op) rt.dev rt.mc rt.ctx then .ok else .wait, s)
    else
      let d := destOf s f.u r.dest
      let before := (t.pend.filter fun q => sendDest s q == some d).length
      (if destTakes s d before then .ok else if draining s f.u then .abort else .wait, s)

/-- Whether a stream command finds an entry in its dispatcher (R222). -/
def admitCmd (t : State) (p : Pend) (rc : Nat) : Bool := cmdLoad t p.own.reg rc < 32

/-- Whether a copy job finds an entry in its engine (R237). -/
def admitJob (s t : State) (p : Pend) (e : Nat) : Bool :=
  let d := copyDie s p
  (jobsOf s d e).length + (t.pend.filter fun q => (match q.eff with | .cpy g _ => g == e | _ => false) && copyDie s q == d).length < 16

/-- The admission of one staged side effect (R97): `t` is the state with the block's earlier ones released. -/
def admitOne (s t : State) (f : FireRef) (p : Pend) : Admit × State :=
  match p.eff with
  | .send ch _ _ => admitSend s t f p ch
  | .strm c _ _ | .strmi c _ _ | .sstop c _ _ | .pbinv c _ | .sbar c => (if admitCmd t p c then .ok else .wait, s)
  | .cpy e _ => (if admitJob s t p e then .ok else .wait, s)
  | .store loc bs _ cls => (admitRoom (storeRoom t loc bs.length p.own.iv cls) p.slot (cls == 2) loc.addr, s)
  | .hold k =>
    match s.holds.find? fun h => h.id == k with
    | none => (.ok, s)
    | some h =>
      if h.writes.isEmpty then (.ok, s) else (admitRoom (storeRoom t h.loc (32 * h.writes.length - 16) p.own.iv h.cls) p.slot (h.cls == 2) h.loc.addr, s)
  | .pexp _ _ _ _ _ segs =>
    (segs.foldl (fun a g => if a ≠ .ok then a else admitRoom (storeRoom t g.1 g.2.1 p.own.iv g.2.2) p.slot (g.2.2 == 2) g.1.addr) .ok, s)
  | .irrev pa _ =>
    if p.own.iv == 0 then (.ok, s)
    else (admitRoom (egressRoom s (irrevDie p) p.own.iv (2 + irrevWaiting t (irrevDie p))) p.slot true pa, s)
  | .bar b cls sp => (if barReady t p.own.reg b cls sp then .ok else .wait, s)
  | .gpatch g node _ =>
    match patchFault s p.own.ctx g node with
    | some a => (.fault p.slot fPERM a, s)
    | none => (if patchReady s p.own.ctx g p.id then .ok else .wait, s)
  | .ffree off => (if freeOk (s.unit (memUnit f.u)).plane off then .ok else .fault p.slot fPERM (BitVec.ofNat 64 off), s)
  | _ => (.ok, s)

/-- A staged side effect as it will be released. -/
def toPend (s : State) (f : FireRef) (g : Firing) (t : Staged) : Pend :=
  { id := t.id, who := .oper f.u f.op, fr := f.fr, own := ownerOf s f.u, deps := s.carry t.deps, tag := t.tag, sq := t.sq
    block := g.block, slot := t.slot, eff := t.eff }

/-- The staged side effects of a block, in slot order. -/
def inSlotOrder (g : Firing) : List Staged := sortBy (fun (a b : Staged) => a.slot < b.slot) g.staged

/-- The side effects that other blocks have had admitted and not released: what was granted to them is kept (R97). -/
def promised (s : State) (f : FireRef) : List Pend :=
  s.units.flatMap fun v => v.2.plane.ops.flatMap fun o => o.2.firings.flatMap fun g =>
    let h : FireRef := { u := v.1, op := o.1, fr := g.id }
    if h == f then [] else (g.staged.filter (·.ok)).map (toPend s h g)

/-- The admission of a block (R97): what is admitted now is kept, those that are not are asked again. The first fault, or the
abort of a freeze, decides. -/
structure Admission where
  all : Bool := true
  close : Bool := false
  ids : List Nat := []
  stop : Option Admit := none
  deriving DecidableEq, Repr, Inhabited

def admitAll (f : FireRef) (others : List Pend) : List Pend → List (Pend × Bool) → Admission → State → Admission × State
  | _, [], a, s => (a, s)
  | done, (p, ok) :: ps, a, s =>
    if a.stop.isSome then (a, s)
    else
      let (r, s) := if ok then (Admit.ok, s) else admitOne s { s with pend := s.pend ++ others ++ done } f p
      let a := match r with
        | .ok => { a with ids := p.id :: a.ids }
        | .wait => { a with all := false }
        | .close => { a with all := false, close := true }
        | r => { a with stop := some r }
      admitAll f others (done ++ [p]) ps a s

/-! ### Commit and release (R97, R51, R52) -/

/-- Opcodes whose slots must have fired before the commit (R97, R118, R160, R202): state-register writes, tagfrees, side
effects, and what acts at issue, so that no effect is lost. -/
def mustFire (op : Nat) : Bool := op == 0x07 || op == 0x0D || op == 0x62 || sideOp op || isTile op

/-- Whether a block has produced everything its commit needs; a request for an iteration that waits stalls it (R117). -/
def produced (s : State) (f : FireRef) (g : Firing) (ws : List Word) : Bool :=
  g.branch.isSome && !((s.region (s.regOf f.u)).tagReqs.any fun q => q.f == f) && ws.zipIdx.all fun w => !mustFire (wOp w.1) || g.fired.contains w.2

/-- Whether an earlier lane of the same issue has yet to commit or abort. -/
def laneWaits (q : OpState) (g : Firing) : Bool :=
  q.firings.any fun h => h.st == .running && h.started && h.issue == g.issue && h.num.getD 0 < g.num.getD 0

/-- Release one side effect (R97). A trap writes its record at once when nothing it depends on is outstanding (R294), a bar
arms its barrier (R336), and a send to another device goes on once its dependency set has performed (log 102). -/
def releaseOne (s : State) (f : FireRef) (p : Pend) : State :=
  match p.eff with
  | .send ch t _ =>
    match chanRec? s f.u f.op ch with
    | none => s.meet p.id
    | some r =>
      if isRemote r.dest then
        match readRoute s (regDie f.u) (s.ctxOf f.u) (bits r.dest 5 0) with
        | .ok rt s =>
          let p := { p with eff := .rsend rt.route rt.dev rt.ctx rt.links rt.mc t }
          performPend { s with pend := s.pend ++ [p] } p
        | .fault _ _ s => s.meet p.id
      else (sendFlight s (s.ctxOf f.u) p.who (destOf s f.u r.dest) (.tok t)).meet p.id
  | .call a ws x deps c tag => releaseCall s p false a ws x deps c tag
  | .tcall a ws x deps tag => releaseCall s p true a ws x deps none tag
  | .ret vs x deps => releaseRet s p vs x deps
  | .bar b cls sp => performBar s p b cls sp
  | .hold _ | .ffree _ | .trap _ _ _ | .gpatch _ _ _ => performPend { s with pend := s.pend ++ [p] } p
  | .tld t _ _ _ _ =>
    { s.modNode f.u (fun n => n.setTile t { n.tile t with busy := true }) with pend := s.pend ++ [p] }
  | _ => { s with pend := s.pend ++ [p] }

/-- The state-register writes, tagfrees and counts of a commit (R97, R113, R118, R354). -/
def commitRegs (s : State) (f : FireRef) (g : Firing) (h : Nat) (ws : List Word) : State :=
  let s := s.modOp f.u f.op fun q => { q with sregs := g.wrs.foldl (fun t w => tabSet t w.1 w.2) q.sregs }
  let s := s.modRegion (s.regOf f.u) fun r =>
    { r with
      nonIdem := r.nonIdem || !bhIdem h
      lists := g.tagfrees.foldl (fun t p => tabMod t p.1 fun l => { l with live := l.live.filter (· ≠ p.2) }) r.lists }
  if g.rep + 1 < g.nrep then s
  else s.modFiring f fun q =>
    { q with insBase := (upFrom 0 16).foldl (fun t c =>
        let n := insBefore ws ws.length c * max g.nrep 1
        if n == 0 then t else tabSet t c (tabGet t c + n)) q.insBase }

/-- After a commit the firing stands at its next repetition or block, or is gone (R51, R97). -/
def nextBoundary (s : State) (f : FireRef) (g : Firing) : State :=
  let s := s.modFiring f fun g =>
    { g with started := false, pos := [], fired := [], staged := [], wrs := [], branch := none, grants := [], frees := [], tagfrees := [] }
  let b := g.branch.getD 63
  if g.rep + 1 < g.nrep then s.modFiring f fun g => { g with rep := g.rep + 1 }
  else if b == 63 then endFiring s f
  else s.modFiring f fun g => { g with rep := 0, nrep := 0, block := b }

/-- The lanes of an operator's issue go on when none of it is in progress any more (R105, R182). -/
def continueIssue (s : State) (u o : Nat) : State :=
  if !unitRuns s u then s
  else
    match opWork s u o with
    | .goOn ls => goOnLanes s u o ls
    | _ => s

/-- The block of a firing commits: its writes take effect, its side effects are released in slot order, its tokens are
consumed, and its branch is taken (R97). -/
def commitBlock (s : State) (f : FireRef) (g : Firing) (h : Nat) (ws : List Word) : State :=
  let ps := (inSlotOrder g).map (toPend s f g)
  let s := commitRegs s f g h ws
  let s := eatTokens s f
  let s := nextBoundary s f g
  touchUnit (ps.foldl (fun s p => releaseOne s f p) s) f.u

/-- Whether a block that a freeze or checkpoint waits for can only wait: a slot of it has its operands and waits for
what happens outside the block. Nothing of the node has acted in it. -/
def stuckInDrain (s : State) (f : FireRef) (g : Firing) (ws : List Word) : Bool :=
  let waits := fun (op : Nat) => op == 0x92 || op == 0x94 || op == 0x96 || op == 0xA4 || op == 0xA6 || op == 0xB9 || op == 0xBB || op == 0xC3
  let asked := fun (slot : Nat) => (s.region (s.regOf f.u)).tagReqs.any fun q => q.f == f && q.slot == slot && q.grant.isNone
  draining s f.u
    && (ws.zipIdx.any fun w => !g.fired.contains w.2 && (asked w.2 || waits (wOp w.1)
          && (wReads w.1).all fun p => (tabGet? g.pos (w.2 * 4 + p)).isSome))
    && ws.zipIdx.all fun w => !isTile (wOp w.1) || !g.fired.contains w.2

/-- BLOCK_COMMIT (R97): the block or repetition of a running firing commits when it has produced its outputs and every
staged side effect is admitted; lanes commit in lane order. -/
def execBlockCommit (f : FireRef) (s : State) : Host.Outcome State Fault Refusal :=
  match s.firing? f, s.op? f.u f.op, blockOf? s f with
  | some g, some q, some (h, ws) =>
    if !unitRuns s f.u || (s.unit f.u).cur ≠ some f.op || g.st ≠ .running || !g.started || laneWaits q g then .next s
    else if !produced s f g ws then
      (if stuckInDrain s f g ws then .next (abortFiring s f .clear true) else .next s)
    else
      match admitAll f (promised s f) [] ((inSlotOrder g).map fun t => (toPend s f g t, t.ok)) {} s with
      | ({ stop := some (.fault slot c a), .. }, s) => .next (continueIssue (blockFault s f slot c a) f.u f.op)
      | ({ stop := some _, .. }, s) => .next (abortFiring s f .clear true)
      | (a, s) =>
        if a.all then .next (continueIssue (commitBlock s f g h ws) f.u f.op)
        else
          let s := s.modFiring f fun g => { g with staged := g.staged.map fun t => { t with ok := a.ids.contains t.id } }
          .next (if a.close then requestClose s .irrev else s)
  | _, _, _ => .next s

/-! ### Causes, errors and shares (R99, R100, R103) -/

/-- Whether the cause of an abort has cleared (R99). -/
def causeOver (s : State) (f : FireRef) (c : Cause) : Bool :=
  match c with
  | .walk x va => !(s.walks.any fun w => w.who == .fire f && w.va / 65536 == va / 65536) && !isPending s x va
  | .writeBack | .clear => true
  | .rollback => false

/-- CAUSE_CLEARS (R99, R101): a held firing is ready to re-fire. -/
def execCauseClears (f : FireRef) (s : State) : Host.Outcome State Fault Refusal :=
  match s.firing? f with
  | none => .next s
  | some g => if g.st == .held && causeOver s f g.cause then .next (clearCause s f) else .next s

/-- BACKGROUND_SCRUB (R100): an error of a unit's storage is found. One bit found by scrubbing is corrected in place; one
on an operand aborts the block; two bits of the data SRAM poison the word; the rest is a PARITY fault of the
region-replay tier. -/
def execBackgroundScrub (u : Nat) (site : ErrSite) (s : State) : Host.Outcome State Fault Refusal :=
  match site with
  | .oneBit => .next s
  | .operand f slot =>
    match s.firing? f with
    | none => .next s
    | some g =>
      if f.u ≠ u || g.st ≠ .running || !g.started || g.fired.contains slot then .next s
      else .next (abortFiring (writeRecord s (s.ctxOf u) { firingSite s f slot with code := fPARITY, outcome := 1 }) f .writeBack)
  | .scratch a => .next (s.modUnit (memUnit u) fun v => { v with bad := setAdd v.bad (a / 8 * 8) })
  | .l1 a => .next (s.modUnit u fun v => { v with l1bad := (a / 8 * 8, s.clk) :: v.l1bad })
  | .sregs | .config | .freezeStore | .tokens =>
    if isCore u then .next (takeFault s fwCtx u fPARITY {})
    else if (s.unit u).owner.isSome then .next (raiseReplay s (s.ctxOf u) (s.regOf u) fPARITY) else .next s

/-- Shares by occupancy (R103): one sixteenth each, the rest in proportion, what is left in descending occupancy. -/
def reshare (ops : Tab OpState) : Tab OpState :=
  let n := ops.length
  let total := (ops.map fun o => o.2.occ).sum
  let fresh := fun (q : OpState) (sh : Nat) => { q with share := sh, slots := 0, occ := 0 }
  if total == 0 then ops.map fun o => (o.1, fresh o.2 o.2.share)
  else
    let part := fun (q : OpState) => (16 - n) * q.occ / total
    let left := 16 - n - (ops.map fun o => part o.2).sum
    let first := (sortBy (fun (a b : Nat × OpState) => a.2.occ > b.2.occ) ops).take left
    ops.map fun o => (o.1, fresh o.2 (1 + part o.2 + (if first.any fun q => q.1 == o.1 then 1 else 0)))

/-- SHARE_REWEIGHT (R103): every 1,024 cycles. -/
def execShareReweight (u : Nat) (s : State) : Host.Outcome State Fault Refusal :=
  if s.clk < (s.unit u).period + 1024 then .next s
  else
    .next (s.modUnit u fun v => { v with period := s.clk / 1024 * 1024, plane := { v.plane with ops := reshare v.plane.ops } })

end Sys2Proof.Machine
end

