-- ==== Sys2Proof/Machine/Dispatch.lean ====
section
/-! DEFINITION. The meaning of every row of the opcode table: one arm for each constructor. -/

namespace Sys2Proof.Machine

/-- Run one instruction word, or one step of the device. -/
def exec (i : Instr) (s : State) : Host.Outcome State Fault Refusal :=
  match i with
  | .mov h f => Sys2Proof.Machine.execMov h f s
  | .movi h f => Sys2Proof.Machine.execMovi h f s
  | .movk h f => Sys2Proof.Machine.execMovk h f s
  | .inTok h f => Sys2Proof.Machine.execInTok h f s
  | .outTok h f => Sys2Proof.Machine.execOutTok h f s
  | .rd h f => Sys2Proof.Machine.execRd h f s
  | .wr h f => Sys2Proof.Machine.execWr h f s
  | .sel h f => Sys2Proof.Machine.execSel h f s
  | .br h f => Sys2Proof.Machine.execBr h f s
  | .brc h f => Sys2Proof.Machine.execBrc h f s
  | .null h f => Sys2Proof.Machine.execNull h f s
  | .tagnew h f => Sys2Proof.Machine.execTagnew h f s
  | .tagfree h f => Sys2Proof.Machine.execTagfree h f s
  | .tagset h f => Sys2Proof.Machine.execTagset h f s
  | .gettag h f => Sys2Proof.Machine.execGettag h f s
  | .count h f => Sys2Proof.Machine.execCount h f s
  | .rix h f => Sys2Proof.Machine.execRix h f s
  | .add h f => Sys2Proof.Machine.execAdd h f s
  | .sub h f => Sys2Proof.Machine.execSub h f s
  | .mul h f => Sys2Proof.Machine.execMul h f s
  | .mulh h f => Sys2Proof.Machine.execMulh h f s
  | .div h f => Sys2Proof.Machine.execDiv h f s
  | .rem h f => Sys2Proof.Machine.execRem h f s
  | .min h f => Sys2Proof.Machine.execMin h f s
  | .max h f => Sys2Proof.Machine.execMax h f s
  | .abs h f => Sys2Proof.Machine.execAbs h f s
  | .neg h f => Sys2Proof.Machine.execNeg h f s
  | .adds h f => Sys2Proof.Machine.execAdds h f s
  | .subs h f => Sys2Proof.Machine.execSubs h f s
  | .and h f => Sys2Proof.Machine.execAnd h f s
  | .or h f => Sys2Proof.Machine.execOr h f s
  | .xor h f => Sys2Proof.Machine.execXor h f s
  | .andn h f => Sys2Proof.Machine.execAndn h f s
  | .shl h f => Sys2Proof.Machine.execShl h f s
  | .shr h f => Sys2Proof.Machine.execShr h f s
  | .rot h f => Sys2Proof.Machine.execRot h f s
  | .clz h f => Sys2Proof.Machine.execClz h f s
  | .popc h f => Sys2Proof.Machine.execPopc h f s
  | .bfx h f => Sys2Proof.Machine.execBfx h f s
  | .bfi h f => Sys2Proof.Machine.execBfi h f s
  | .cmp h f => Sys2Proof.Machine.execCmp h f s
  | .cvti h f => Sys2Proof.Machine.execCvti h f s
  | .mad h f => Sys2Proof.Machine.execMad h f s
  | .fadd h f => Sys2Proof.Machine.execFadd h f s
  | .fsub h f => Sys2Proof.Machine.execFsub h f s
  | .fmul h f => Sys2Proof.Machine.execFmul h f s
  | .fma h f => Sys2Proof.Machine.execFma h f s
  | .fmin h f => Sys2Proof.Machine.execFmin h f s
  | .fmax h f => Sys2Proof.Machine.execFmax h f s
  | .fabs h f => Sys2Proof.Machine.execFabs h f s
  | .fneg h f => Sys2Proof.Machine.execFneg h f s
  | .fcmp h f => Sys2Proof.Machine.execFcmp h f s
  | .fclass h f => Sys2Proof.Machine.execFclass h f s
  | .fdiv h f => Sys2Proof.Machine.execFdiv h f s
  | .sqrt h f => Sys2Proof.Machine.execSqrt h f s
  | .rcp h f => Sys2Proof.Machine.execRcp h f s
  | .rsq h f => Sys2Proof.Machine.execRsq h f s
  | .ex2 h f => Sys2Proof.Machine.execEx2 h f s
  | .lg2 h f => Sys2Proof.Machine.execLg2 h f s
  | .cvtf h f => Sys2Proof.Machine.execCvtf h f s
  | .cvtfi h f => Sys2Proof.Machine.execCvtfi h f s
  | .cvtif h f => Sys2Proof.Machine.execCvtif h f s
  | .fscale h f => Sys2Proof.Machine.execFscale h f s
  | .ld h f => Sys2Proof.Machine.execLd h f s
  | .st h f => Sys2Proof.Machine.execSt h f s
  | .ldl h f => Sys2Proof.Machine.execLdl h f s
  | .amo h f => Sys2Proof.Machine.execAmo h f s
  | .cas h f => Sys2Proof.Machine.execCas h f s
  | .oamo h f => Sys2Proof.Machine.execOamo h f s
  | .pref h f => Sys2Proof.Machine.execPref h f s
  | .cwb h f => Sys2Proof.Machine.execCwb h f s
  | .cinv h f => Sys2Proof.Machine.execCinv h f s
  | .ojoin h f => Sys2Proof.Machine.execOjoin h f s
  | .falloc h f => Sys2Proof.Machine.execFalloc h f s
  | .ffree h f => Sys2Proof.Machine.execFfree h f s
  | .tcfg h f => Sys2Proof.Machine.execTcfg h f s
  | .tld h f => Sys2Proof.Machine.execTld h f s
  | .tst h f => Sys2Proof.Machine.execTst h f s
  | .tzero h f => Sys2Proof.Machine.execTzero h f s
  | .mma h f => Sys2Proof.Machine.execMma h f s
  | .mmasp h f => Sys2Proof.Machine.execMmasp h f s
  | .tbind h f => Sys2Proof.Machine.execTbind h f s
  | .tfree h f => Sys2Proof.Machine.execTfree h f s
  | .tread h f => Sys2Proof.Machine.execTread h f s
  | .twrite h f => Sys2Proof.Machine.execTwrite h f s
  | .tscal h f => Sys2Proof.Machine.execTscal h f s
  | .tcvt h f => Sys2Proof.Machine.execTcvt h f s
  | .tamax h f => Sys2Proof.Machine.execTamax h f s
  | .ttrans h f => Sys2Proof.Machine.execTtrans h f s
  | .acon h f => Sys2Proof.Machine.execAcon h f s
  | .pdecl h f => Sys2Proof.Machine.execPdecl h f s
  | .pcon h f => Sys2Proof.Machine.execPcon h f s
  | .prd h f => Sys2Proof.Machine.execPrd h f s
  | .pset h f => Sys2Proof.Machine.execPset h f s
  | .pswap h f => Sys2Proof.Machine.execPswap h f s
  | .pexp h f => Sys2Proof.Machine.execPexp h f s
  | .pstat h f => Sys2Proof.Machine.execPstat h f s
  | .pdrop h f => Sys2Proof.Machine.execPdrop h f s
  | .strm h f => Sys2Proof.Machine.execStrm h f s
  | .strmi h f => Sys2Proof.Machine.execStrmi h f s
  | .sstop h f => Sys2Proof.Machine.execSstop h f s
  | .cpy h f => Sys2Proof.Machine.execCpy h f s
  | .tlw h f => Sys2Proof.Machine.execTlw h f s
  | .tlrd h f => Sys2Proof.Machine.execTlrd h f s
  | .ringaw h f => Sys2Proof.Machine.execRingaw h f s
  | .ringrel h f => Sys2Proof.Machine.execRingrel h f s
  | .pbinv h f => Sys2Proof.Machine.execPbinv h f s
  | .sbar h f => Sys2Proof.Machine.execSbar h f s
  | .call h f => Sys2Proof.Machine.execCall h f s
  | .ret h f => Sys2Proof.Machine.execRet h f s
  | .tcall h f => Sys2Proof.Machine.execTcall h f s
  | .kload h f => Sys2Proof.Machine.execKload h f s
  | .kdrop h f => Sys2Proof.Machine.execKdrop h f s
  | .launch h f => Sys2Proof.Machine.execLaunch h f s
  | .gpatch h f => Sys2Proof.Machine.execGpatch h f s
  | .doneI h f => Sys2Proof.Machine.execDoneI h f s
  | .bar h f => Sys2Proof.Machine.execBar h f s
  | .barw h f => Sys2Proof.Machine.execBarw h f s
  | .sealI h f => Sys2Proof.Machine.execSealI h f s
  | .sealw h f => Sys2Proof.Machine.execSealw h f s
  | .irrev h f => Sys2Proof.Machine.execIrrev h f s
  | .ivrd h f => Sys2Proof.Machine.execIvrd h f s
  | .srd h f => Sys2Proof.Machine.execSrd h f s
  | .swr h f => Sys2Proof.Machine.execSwr h f s
  | .trap h f => Sys2Proof.Machine.execTrap h f s
  | .leave h f => Sys2Proof.Machine.execLeave h f s
  | .yield h f => Sys2Proof.Machine.execYield h f s
  | .halt h f => Sys2Proof.Machine.execHalt h f s
  | .crypt h f => Sys2Proof.Machine.execCrypt h f s
  | .meas h f => Sys2Proof.Machine.execMeas h f s
  | .wdog h f => Sys2Proof.Machine.execWdog h f s
  | .tokenArrival k => Sys2Proof.Machine.execTokenArrival k s
  | .firingSelection u stalled => Sys2Proof.Machine.execFiringSelection u stalled s
  | .gatherHoldExpiry u op => Sys2Proof.Machine.execGatherHoldExpiry u op s
  | .blockCommit f => Sys2Proof.Machine.execBlockCommit f s
  | .causeClears f => Sys2Proof.Machine.execCauseClears f s
  | .backgroundScrub u site => Sys2Proof.Machine.execBackgroundScrub u site s
  | .shareReweight u => Sys2Proof.Machine.execShareReweight u s
  | .tarnWidthClear w => Sys2Proof.Machine.execTarnWidthClear w s
  | .tagGrant ctx reg lreg => Sys2Proof.Machine.execTagGrant ctx reg lreg s
  | .xstatOvfClear w => Sys2Proof.Machine.execXstatOvfClear w s
  | .fwWindowEnable w => Sys2Proof.Machine.execFwWindowEnable w s
  | .fwWindowDisable w => Sys2Proof.Machine.execFwWindowDisable w s
  | .memoryOpPerform k => Sys2Proof.Machine.execMemoryOpPerform k s
  | .mscEvict line => Sys2Proof.Machine.execMscEvict line s
  | .atomicHoldRevoke k => Sys2Proof.Machine.execAtomicHoldRevoke k s
  | .oamoRetry f slot => Sys2Proof.Machine.execOamoRetry f slot s
  | .poolContribRegister k => Sys2Proof.Machine.execPoolContribRegister k s
  | .poolDeadlineExpiry ctx pool wait => Sys2Proof.Machine.execPoolDeadlineExpiry ctx pool wait s
  | .tileSpringClaim die cl port => Sys2Proof.Machine.execTileSpringClaim die cl port s
  | .tileSpringDeliver die cl port => Sys2Proof.Machine.execTileSpringDeliver die cl port s
  | .tileOutletStore die cl => Sys2Proof.Machine.execTileOutletStore die cl s
  | .kstepEnd die cl => Sys2Proof.Machine.execKstepEnd die cl s
  | .governorPeriod die cl => Sys2Proof.Machine.execGovernorPeriod die cl s
  | .leaveGrant die => Sys2Proof.Machine.execLeaveGrant die s
  | .leaveClear w => Sys2Proof.Machine.execLeaveClear w s
  | .streamCmdAccept k => Sys2Proof.Machine.execStreamCmdAccept k s
  | .streamStart die cl k => Sys2Proof.Machine.execStreamStart die cl k s
  | .springElement die cl port => Sys2Proof.Machine.execSpringElement die cl port s
  | .outletStore die cl port => Sys2Proof.Machine.execOutletStore die cl port s
  | .copyJobAccept k => Sys2Proof.Machine.execCopyJobAccept k s
  | .copyElement die eng => Sys2Proof.Machine.execCopyElement die eng s
  | .ringConfigWrite w => Sys2Proof.Machine.execRingConfigWrite w s
  | .hostMemoryAccess fn addr len write bytes => Sys2Proof.Machine.execHostMemoryAccess fn addr len write bytes s
  | .imageStage k => Sys2Proof.Machine.execImageStage k s
  | .callTake ctx reg => Sys2Proof.Machine.execCallTake ctx reg s
  | .planeFreezeCopy ctx reg => Sys2Proof.Machine.execPlaneFreezeCopy ctx reg s
  | .activationTeardown ctx reg => Sys2Proof.Machine.execActivationTeardown ctx reg s
  | .ctxPreempt w => Sys2Proof.Machine.execCtxPreempt w s
  | .checkpointComplete ctx => Sys2Proof.Machine.execCheckpointComplete ctx s
  | .ctxResume w => Sys2Proof.Machine.execCtxResume w s
  | .resumeRestore ctx => Sys2Proof.Machine.execResumeRestore ctx s
  | .fqstOvfClear w => Sys2Proof.Machine.execFqstOvfClear w s
  | .queueEnable w => Sys2Proof.Machine.execQueueEnable w s
  | .queueQuiesce w => Sys2Proof.Machine.execQueueQuiesce w s
  | .queueResume w => Sys2Proof.Machine.execQueueResume w s
  | .queueDisable w => Sys2Proof.Machine.execQueueDisable w s
  | .queueClear w => Sys2Proof.Machine.execQueueClear w s
  | .queueDoorbell w => Sys2Proof.Machine.execQueueDoorbell w s
  | .launchGroup q => Sys2Proof.Machine.execLaunchGroup q s
  | .replayPkt q => Sys2Proof.Machine.execReplayPkt q s
  | .patchPkt q => Sys2Proof.Machine.execPatchPkt q s
  | .signalPkt q => Sys2Proof.Machine.execSignalPkt q s
  | .waitPkt q => Sys2Proof.Machine.execWaitPkt q s
  | .sealReqPkt q => Sys2Proof.Machine.execSealReqPkt q s
  | .nopPkt q => Sys2Proof.Machine.execNopPkt q s
  | .packetComplete q => Sys2Proof.Machine.execPacketComplete q s
  | .watchReread isQueue k => Sys2Proof.Machine.execWatchReread isQueue k s
  | .nodeDispatch die kind => Sys2Proof.Machine.execNodeDispatch die kind s
  | .nodeAging die k => Sys2Proof.Machine.execNodeAging die k s
  | .taskComplete k => Sys2Proof.Machine.execTaskComplete k s
  | .stuckTimeout ctx reg => Sys2Proof.Machine.execStuckTimeout ctx reg s
  | .patchApply k => Sys2Proof.Machine.execPatchApply k s
  | .barrierMarkerSend die cl k => Sys2Proof.Machine.execBarrierMarkerSend die cl k s
  | .barrierForward u op => Sys2Proof.Machine.execBarrierForward u op s
  | .sealctlClose w => Sys2Proof.Machine.execSealctlClose w s
  | .sealRequest p => Sys2Proof.Machine.execSealRequest p s
  | .sealClose p => Sys2Proof.Machine.execSealClose p s
  | .sealConditionMet iv => Sys2Proof.Machine.execSealConditionMet iv s
  | .sealDone p => Sys2Proof.Machine.execSealDone p s
  | .sealSealed p => Sys2Proof.Machine.execSealSealed p s
  | .sealTimeout => Sys2Proof.Machine.execSealTimeout s
  | .sealRollback p => Sys2Proof.Machine.execSealRollback p s
  | .rbctlRollback w => Sys2Proof.Machine.execRbctlRollback w s
  | .rbctlRetire w => Sys2Proof.Machine.execRbctlRetire w s
  | .tqstOvfClear w => Sys2Proof.Machine.execTqstOvfClear w s
  | .regionReplay ctx reg code => Sys2Proof.Machine.execRegionReplay ctx reg code s
  | .clusterRetirement die cl => Sys2Proof.Machine.execClusterRetirement die cl s
  | .einjWrite w => Sys2Proof.Machine.execEinjWrite w s
  | .tableWalkDone k => Sys2Proof.Machine.execTableWalkDone k s
  | .tlbiAll w => Sys2Proof.Machine.execTlbiAll w s
  | .tlbiVa w => Sys2Proof.Machine.execTlbiVa w s
  | .tlbiRetry w => Sys2Proof.Machine.execTlbiRetry w s
  | .tlbiComplete k => Sys2Proof.Machine.execTlbiComplete k s
  | .linkEnable w => Sys2Proof.Machine.execLinkEnable w s
  | .linkDisable w => Sys2Proof.Machine.execLinkDisable w s
  | .linkRelease w => Sys2Proof.Machine.execLinkRelease w s
  | .linkRetrain w => Sys2Proof.Machine.execLinkRetrain w s
  | .linkTrained n lanes peer peerLink rtt => Sys2Proof.Machine.execLinkTrained n lanes peer peerLink rtt s
  | .laneLost n lanes => Sys2Proof.Machine.execLaneLost n lanes s
  | .linkQuarantine n => Sys2Proof.Machine.execLinkQuarantine n s
  | .peerSilentTimeout n => Sys2Proof.Machine.execPeerSilentTimeout n s
  | .flitRetransmit n => Sys2Proof.Machine.execFlitRetransmit n s
  | .linkFlowTimeout k => Sys2Proof.Machine.execLinkFlowTimeout k s
  | .tokenPkt n p => Sys2Proof.Machine.execTokenPkt n p s
  | .writePkt n p => Sys2Proof.Machine.execWritePkt n p s
  | .partPkt n p => Sys2Proof.Machine.execPartPkt n p s
  | .poolopPkt n p => Sys2Proof.Machine.execPoolopPkt n p s
  | .ackPkt n p => Sys2Proof.Machine.execAckPkt n p s
  | .valuePkt n p => Sys2Proof.Machine.execValuePkt n p s
  | .ctlPkt n p => Sys2Proof.Machine.execCtlPkt n p s
  | .pctlActivate w => Sys2Proof.Machine.execPctlActivate w s
  | .pctlResize w => Sys2Proof.Machine.execPctlResize w s
  | .pctlRelease w => Sys2Proof.Machine.execPctlRelease w s
  | .fnReqCreate fn val => Sys2Proof.Machine.execFnReqCreate fn val s
  | .fnReqDestroy fn val => Sys2Proof.Machine.execFnReqDestroy fn val s
  | .dramOvertemp die layer temp => Sys2Proof.Machine.execDramOvertemp die layer temp s
  | .fwSwitch w => Sys2Proof.Machine.execFwSwitch w s
  | .watchdogExpiry => Sys2Proof.Machine.execWatchdogExpiry s
  | .deviceReset => Sys2Proof.Machine.execDeviceReset s
  | .dutyWrite w => Sys2Proof.Machine.execDutyWrite w s
  | .dutySwitchPoint fn => Sys2Proof.Machine.execDutySwitchPoint fn s
  | .getVersion pf => Sys2Proof.Machine.execGetVersion pf s
  | .getCapabilities pf => Sys2Proof.Machine.execGetCapabilities pf s
  | .negotiateAlgorithms pf hashAlgs signAlgs => Sys2Proof.Machine.execNegotiateAlgorithms pf hashAlgs signAlgs s
  | .getDigests pf => Sys2Proof.Machine.execGetDigests pf s
  | .getCertificate pf slot offset len => Sys2Proof.Machine.execGetCertificate pf slot offset len s
  | .challenge pf slot nonce => Sys2Proof.Machine.execChallenge pf slot nonce s
  | .getMeasurements pf op => Sys2Proof.Machine.execGetMeasurements pf op s
  | .sysregWrite w => Sys2Proof.Machine.execSysregWrite w s
  | .otherTypePacket n p => Sys2Proof.Machine.execOtherTypePacket n p s
  | .mcopyWriteSend n => Sys2Proof.Machine.execMcopyWriteSend n s

end Sys2Proof.Machine
end

