-- ==== Sys2Proof/Machine/Next.lean ====
section
/-! DEFINITION. What may happen next (R91, R102, R252, R415): the steps of the device that its state calls for, of which
one happens when no input names one (log 1). -/

namespace Sys2Proof.Machine

/-! ### The clock -/

/-- Cycles pass within a period: each operator's occupancy is gathered for the share arbiter (R103). -/
def pass (n : Nat) (s : State) : State :=
  let occ := fun (u o : Nat) (q : OpState) => (q.chans.map fun c => chanOcc s u o c.1).sum
  let s := { s with units := s.units.map fun (v : Nat × UnitS) =>
    (v.1, { v.2 with plane := { v.2.plane with ops := v.2.plane.ops.map fun (o : Nat × OpState) => (o.1, { o.2 with occ := o.2.occ + n * occ v.1 o.1 o.2 }) } }) }
  s.setDev 0x30A (BitVec.ofNat 64 (s.clk + n))

/-- Every unit's shares are reweighted at the end of a period (R103). -/
def reweighAll (s : State) : State :=
  { s with units := s.units.map fun (v : Nat × UnitS) =>
      (v.1, { v.2 with period := s.clk / 1024 * 1024, plane := { v.2.plane with ops := reshare v.2.plane.ops } }) }

/-- Every governor reads its die's budget at the start of a period (R404); power governing switches there (R18). A cluster
that no table lists stands for a governor that has read the reset budget. -/
def governAll (s : State) : State :=
  let s := if wbit (s.devReg 0x305) 3 == s.powerHost then s else switchDuty s 3
  let read := fun (d : Nat) (c : Cluster) => { c with period := s.clk / 1024 * 1024, budget := dieBudget s d / 255 }
  let listed := s.clusters.map fun (c : Nat × Cluster) => (c.1, read (c.1 / 64) c.2)
  let odd := (upFrom 0 8).filter fun d => dieBudget s d / 255 ≠ 290
  let all := odd.foldl (fun t d => (upFrom (64 * d) 64).foldl (fun t k => if (tabGet? t k).isSome then t else tabSet t k (read d {})) t) listed
  { s with clusters := all }

/-- The start of a 1,024-cycle period. -/
def startPeriod (s : State) : State := governAll (reweighAll s)

/-- The cycle of the earliest start among streams that run or are frozen, and jobs of engines: their reads may still return
what stores since then replaced (R252, R256). -/
def oldestRead (s : State) : Nat :=
  let port := fun (n : Nat) (p : Nat × Port) => (p.2.stream.map fun m => min n m.since).getD n
  let plane := fun (n : Nat) (p : Plane) => p.ports.foldl port n
  let n := s.units.foldl (fun n u => plane n u.2.plane) s.clk
  let n := s.regions.foldl (fun n r => r.2.levels.foldl (fun n l => l.planes.foldl (fun n p => plane n p.2) n) n) n
  let n := s.dies.foldl (fun n d => d.2.engines.foldl (fun n e => e.2.foldl (fun n j => if j.started then min n j.since else n) n) n) n
  s.linkJobs.foldl (fun n l => l.2.foldl (fun n j => min n j.since) n) n

/-- Bytes that no read may return any more, and operations that order no read any more, are forgotten (R254; log 86). -/
def forgetOld (s : State) : State :=
  if s.hist.isEmpty && s.done.isEmpty then s
  else
    let old := min (s.clk - 4096) (oldestRead s)
    { s with hist := s.hist.filter (fun h => old ≤ h.at_), done := s.done.filter fun d => s.clk ≤ d.at_ + 4096 }

/-- The words that WAIT packets and H nodes watch are read again when 65,536 cycles since their last read are over by a
cycle (R415). -/
def rereadDue (t : Nat) (s : State) : State :=
  let s := s.queues.foldl (fun s q =>
    if q.2.pkts.any fun p => fld p.bytes 0 1 == 5 && !p.met && p.lastRead + 65536 ≤ t then watchReread true q.1 s else s) s
  (s.tasks.filter fun k => k.kind == 3 && k.since + 65536 ≤ t).foldl (fun s k => watchReread false k.id s) s

/-- Cycles of the device clock pass (R19): what is due at the period boundaries they cross is done there. Nothing else changes
between two boundaries, so each later full period ends as the second one does. -/
def tick (n : Nat) (s : State) : State :=
  let s := rereadDue (s.clk + n) s
  let left := 1024 - s.clk % 1024
  let s :=
    if n < left then pass n s
    else
      let s := startPeriod (pass left s)
      let m := n - left
      if m < 1024 then pass m s
      else pass (m % 1024) (startPeriod ((pass 1024 s).setDev 0x30A (BitVec.ofNat 64 (s.clk + m / 1024 * 1024))))
  forgetOld s

/-! ### What may happen -/

/-- The slots of a lane's block that have their operands and have not fired. -/
def readySlots (s : State) (f : FireRef) (g : Firing) : List Nat :=
  match blockOf? s f with
  | none => []
  | some (_, ws) =>
    (upFrom 0 ws.length).filter fun k =>
      !g.fired.contains k && (wReads (ws.getD k 0)).all fun p => (tabGet? g.pos (k * 4 + p)).isSome

/-- What a unit may do. -/
def unitMoves (s : State) (u : Nat) : List Move :=
  let v := s.unit u
  let ops := v.plane.ops
  let lanes := (match v.cur with
    | none => []
    | some o => (startedLanes ((s.op? u o).getD {})).map fun (g : Firing) => (({ u := u, op := o, fr := g.id } : FireRef), g))
  let refs := ops.flatMap fun o => o.2.firings.map fun (g : Firing) => (({ u := u, op := o.1, fr := g.id } : FireRef), g)
  (if unitRuns s u then
    lanes.flatMap (fun l => Move.event (.blockCommit l.1) :: (readySlots s l.1 l.2).map fun k => Move.fetch l.1 k)
      ++ [.event (.firingSelection u false), .event (.firingSelection u true)]
      ++ ops.map fun o => Move.event (.gatherHoldExpiry u o.1)
  else [])
  ++ (refs.filter fun l => l.2.st == .held && causeOver s l.1 l.2.cause).map (fun l => Move.event (.causeClears l.1))
  ++ ops.map (fun o => Move.event (.barrierForward u o.1))

/-- What a cluster's ports, dispatcher and node may do. -/
def clusterMoves (s : State) (d c : Nat) : List Move :=
  let ports := (s.unit (tarn0 d c)).plane.ports.map Prod.fst
  ports.flatMap (fun p =>
    if p == 18 then [Move.event (.tileOutletStore d c)]
    else if p == 16 || p == 17 then [Move.event (.tileSpringClaim d c p), .event (.tileSpringDeliver d c p)]
    else if p < 8 then [Move.event (.springElement d c p)] else [Move.event (.outletStore d c p)])
  ++ (s.cluster d c).queue.flatMap (fun m => [Move.event (.streamStart d c m.id), .event (.barrierMarkerSend d c m.id)])
  ++ (if (s.node d c).kstep.isSome then [.event (.kstepEnd d c)] else [])

/-- What a region's arbiter may do. -/
def regionMoves (s : State) (k : Nat) : List Move :=
  let r := s.region k
  let lists := r.tagReqs.foldl (fun (l : List Nat) q => setAdd l q.lreg) []
  lists.map (fun l => Move.event (.tagGrant r.ctx r.idx l))
  ++ [.event (.callTake r.ctx r.idx), .event (.planeFreezeCopy r.ctx r.idx), .event (.activationTeardown r.ctx r.idx),
      .event (.stuckTimeout r.ctx r.idx)]

/-- What a queue's front end may do. -/
def queueMoves (q : Nat) : List Move :=
  [.event (.launchGroup q), .event (.replayPkt q), .event (.patchPkt q), .event (.signalPkt q), .event (.waitPkt q),
   .event (.sealReqPkt q), .event (.nopPkt q), .event (.packetComplete q), .event (.watchReread true q)]

/-- What a die's group engine, copy engines and leave line may do. -/
def dieMoves (s : State) (d : Nat) : List Move :=
  let v := s.die d
  [Move.event (.nodeDispatch d 0), .event (.nodeDispatch d 1), .event (.nodeDispatch d 2), .event (.nodeDispatch d 3)]
  ++ (upFrom 0 v.ready.length).map (fun k => Move.event (.nodeAging d k))
  ++ (v.engines.filter fun e => !e.2.isEmpty).map (fun e => Move.event (.copyElement d e.1))
  ++ (if v.leaves.isEmpty then [] else [.event (.leaveGrant d)])

/-- What happens to a seal message that has reached this device from itself (R346, R391). -/
def sealMoves (p : Packet) : List Move :=
  match fld p.body 0 1 with
  | 0 => [.event (.sealRequest p)]
  | 1 => [.event (.sealClose p)]
  | 2 => [.event (.sealDone p)]
  | 3 => [.event (.sealSealed p)]
  | 4 => [.event (.sealRollback p)]
  | _ => []

/-- A packet held at the shore, or in a link's receive buffer, is tried again (R379, R383). -/
def shoreMoves (t : ShoreTok) : List Move :=
  if t.pkt.typ == pkTOKEN then [.event (.tokenPkt t.link t.pkt)]
  else if t.pkt.typ == pkWRITE then [.event (.writePkt t.link t.pkt)]
  else if t.pkt.typ == pkPART then [.event (.partPkt t.link t.pkt)]
  else if t.pkt.typ == pkPOOLOP then [.event (.poolopPkt t.link t.pkt)]
  else if t.pkt.typ == pkVALUE then [.event (.valuePkt t.link t.pkt)]
  else if t.pkt.typ == pkACK then [.event (.ackPkt t.link t.pkt)]
  else if t.pkt.typ == pkCTL then [.event (.ctlPkt t.link t.pkt)]
  else []

/-- What a link may do by itself. -/
def linkMoves (n : Nat) : List Move :=
  [.event (.peerSilentTimeout n), .event (.linkQuarantine n), .event (.mcopyWriteSend n)]

/-- What happens to released effects, accesses and waits. -/
def memoryMoves (s : State) : List Move :=
  s.flight.map (fun f => Move.event (.tokenArrival f.id))
  ++ s.pend.flatMap (fun p =>
      [Move.event (.memoryOpPerform p.id), .event (.poolContribRegister p.id), .event (.streamCmdAccept p.id), .event (.copyJobAccept p.id)])
  ++ s.dirty.map (fun l => Move.event (.mscEvict l))
  ++ s.holds.map (fun h => Move.event (.atomicHoldRevoke h.id))
  ++ s.oaWaits.map (fun w => Move.event (.oamoRetry w.f w.slot))
  ++ s.walks.map (fun w => Move.event (.tableWalkDone w.id))
  ++ s.invs.map (fun v => Move.event (.tlbiComplete v.id))
  ++ s.stages.map (fun g => Move.event (.imageStage g.id))
  ++ s.pools.flatMap (fun p => p.2.waits.map fun (w : Wait) => Move.event (.poolDeadlineExpiry (p.1 / 512) (p.1 % 512) w.id))

/-- What happens to contexts, tasks, intervals and the firmware's own work. -/
def serviceMoves (s : State) : List Move :=
  (s.ctxs.filter fun c => c.2.st == .checkpointing).map (fun c => Move.event (.checkpointComplete c.1))
  ++ (s.ctxs.filter fun c => c.2.st == .saved || c.2.st == .resuming).map (fun c => Move.event (.resumeRestore c.1))
  ++ s.patches.map (fun p => Move.event (.patchApply p.id))
  ++ s.tasks.map (fun t => if t.kind == 3 then Move.event (.watchReread false t.id) else .event (.taskComplete t.id))
  ++ s.sealMsgs.flatMap sealMoves
  ++ [.event (.sealConditionMet (s.sealed + 1)), .event .sealTimeout]
  ++ s.fw.retire.map (fun c => Move.event (.clusterRetirement (c / 64) (c % 64)))
  ++ s.flows.map (fun f => Move.event (.linkFlowTimeout f.id))
  ++ (s.shore ++ s.rx).flatMap shoreMoves
  ++ (upFrom 0 18).flatMap linkMoves
  ++ (upFrom 0 6).map (fun k => Move.event (.dutySwitchPoint k))
  ++ [.event .watchdogExpiry, .event (.pctlResize { num := 0x307 }), .event (.fwSwitch { num := 0x308 })]

/-- Everything that may happen next; the clock may always move. -/
def candidates (s : State) : List Move :=
  .tick 1 ::
  (s.units.flatMap (fun u => unitMoves s u.1)
  ++ (upFrom 0 8).flatMap (fun d => (upFrom 0 64).flatMap fun c => clusterMoves s d c)
  ++ s.regions.flatMap (fun r => regionMoves s r.1)
  ++ s.queues.flatMap (fun q => queueMoves q.1)
  ++ (upFrom 0 8).flatMap (dieMoves s)
  ++ memoryMoves s
  ++ serviceMoves s)

/-- The next move: the agenda's first, or one of the candidates, by a free value. -/
def nextMove (s : State) : Move × State :=
  match s.agenda with
  | m :: r => (m, { s with agenda := r })
  | [] =>
    let cs := candidates s
    let (k, s) := s.draw
    ((cs[Config.pick k % cs.length]?).getD (.tick 1), s)

/-- Whether a constructor is an instruction word (R53); the others are steps of the device. -/
def isWord (i : Instr) : Bool := (wordParts i).isSome

end Sys2Proof.Machine
end

