-- ==== Sys2Proof/Machine/Fetch.lean ====
section
/-! DEFINITION. The word a running block issues next (R49, R55), and placing one so that the next step fetches it. -/

namespace Sys2Proof.Machine

/-- The word at a slot of a firing's block (R49). -/
def fetchWord (s : State) (f : FireRef) (slot : Nat) : Option Word := (blockOf? s f).bind fun b => b.2[slot]?

/-- Whether a firing's unit issues from its operator now (R102). -/
def canFetch (s : State) (f : FireRef) : Bool := unitRuns s f.u && (s.unit f.u).cur == some f.op

/-- The unit an opcode's words run on (R60): a core for 0xC5-0xC8, a matrix node for 0x80-0x8E, else a tarn. -/
def placeUnit (op : Nat) : Nat :=
  if 0xC5 ≤ op && op ≤ 0xC8 then coreKey 0 else if 0x80 ≤ op && op ≤ 0x8E then nodeKey 0 0 else unitKey 0 0 0

/-- The bytes of a block of one word: a header of zeros, with NI 0 for one instruction (R47, R49), and the word. -/
def placeBlock (w : Word) : List Byte := bytesOf 16 0 ++ bytesOfWord w

/-- A tarn, node or core running the first block of operator 0: one word at slot 0, with a zero token in each position. -/
def placeUnitState (u : Nat) (w : Word) : UnitS :=
  let g : Firing :=
    { num := some 0, st := .running, eaten := true, issue := 1, started := true, nrep := 1
      pos := [(0, {}), (1, {}), (2, {}), (3, {})] }
  { store := [{ ctx := if isCore u then fwCtx else 0, opers := [{ cl := 0, tarn := unitTarn u, blocks := [placeBlock w] }] }]
    plane := { ops := [(0, { count := 1, share := 16, firings := [g] })] }
    owner := if isCore u then none else some 0
    cur := some 0, issues := 1 }

/-- A context 0 that runs a task on cluster 0 of die 0, with the word placed on a unit there. -/
def placeWord (s : State) (w : Word) : State :=
  let u := placeUnit (wOp w)
  let s := s.modCtx 0 fun c => { c with st := .running, nreg := 1 }
  let s := s.modRegion 0 fun r => { r with width := 1, height := 1, kref := some {} }
  { s.modUnit u (fun _ => placeUnitState u w) with agenda := [.fetch { u := u } 0] }

end Sys2Proof.Machine
end

