-- ==== Sys2Proof/Machine/Stall.lean ====
section
/-! DEFINITION. Running the word at a slot, and the stalls of a unit's issue (R102), which that decides. -/

namespace Sys2Proof.Machine

/-- Run the word at a slot: it is decoded and meets its meaning with the focus on the slot. A slot of a unit that does
not issue now is not fetched. -/
def stepFetch (f : FireRef) (slot : Nat) (s : State) : Host.Outcome State Fault Refusal :=
  if !canFetch s f then .next s
  else
    match fetchWord s f slot with
    | none => .fault .noWord
    | some w =>
      match decode w with
      | .refused _ => .fault (.badWord w)
      | .instr i => exec i (focusOn s f slot)

/-- Whether an outcome takes a firing further: it changes the firing, or stops the run. -/
def advances (f : FireRef) (s : State) : Host.Outcome State Fault Refusal → Bool
  | .next t => t.firing? f ≠ s.firing? f
  | _ => true

/-- Whether a lane of an issue can go on now: a slot of its block can fire, or the block can commit or abort. -/
def laneAdvances (f : FireRef) (g : Firing) (s : State) : Bool :=
  (readySlots s f g).any (fun k => advances f s (stepFetch f k s)) || advances f s (exec (.blockCommit f) s)

/-- The lanes of the operator that has a unit. -/
def lanesOn (s : State) (u : Nat) : List (FireRef × Firing) :=
  match (s.unit u).cur with
  | none => []
  | some o => (startedLanes ((s.op? u o).getD {})).map fun (g : Firing) => (({ u := u, op := o, fr := g.id } : FireRef), g)

/-- Whether the issue of the operator that has a unit cannot progress (R102). -/
def issueStuck (s : State) (u : Nat) : Bool :=
  let ls := lanesOn s u
  !ls.isEmpty && ls.all fun l => !laneAdvances l.1 l.2 s

/-- Whether the issue may be awaiting a load in this cycle, whose time no rule bounds (R102, R415): a load of a lane has its
operands and has not answered (log 81). -/
def awaitsLoad (s : State) (u : Nat) : Bool :=
  (lanesOn s u).any fun l => (readySlots s l.1 l.2).any fun k => (fetchWord s l.1 k).any fun w => wOp w == 0x60 || wOp w == 0x62

/-- Whether a selection agrees with the state (R102): its unit's present operator stalls when it says so, and not otherwise. -/
def selectionHolds (i : Instr) (s : State) : Bool :=
  match i with
  | .firingSelection u true => (s.unit u).cur.isNone || issueStuck s u || awaitsLoad s u
  | .firingSelection u false => !issueStuck s u
  | _ => true

end Sys2Proof.Machine
end

