-- ==== Sys2Proof/Machine/Step.lean ====
section
/-! DEFINITION. One step of the machine: a move is taken from the agenda or chosen, and is a slot's fetch and run, a step
of the device, or a cycle of the clock. -/

namespace Sys2Proof.Machine

/-- Perform a move. An instruction word is no step of the device: named as one it does nothing, and so does a selection that
does not agree with how its unit stands (R102). -/
def perform (m : Move) (s : State) : Host.Outcome State Fault Refusal :=
  match m with
  | .tick n => .next (tick n s)
  | .event i => if isWord i || !selectionHolds i s then .next s else exec i s
  | .fetch f slot => stepFetch f slot s
  | .hostStore a bs => .next (hostStore a bs s)
  | .hostRead t => .next (hostRead t s)

/-- One step. -/
def step (s : State) : Host.Outcome State Fault Refusal :=
  let (m, s) := nextMove s
  perform m s

/-- The state with a word stored where the next step fetches it (log 35). -/
def State.withFetchWord (s : State) (nbits w : Nat) : State := placeWord s (BitVec.ofNat 64 (w % 2 ^ nbits))

end Sys2Proof.Machine
end

