-- ==== Sys2Proof/Safety.lean ====
section
/-! DEFINITION. What counts as a safe run, in the terms that statements use: the invariant every step keeps, and the steps
that do not stop the machine. -/

namespace Sys2Proof.Safety

open Sys2Proof.Machine

/-- The device's memory and every function's host memory are in the one canonical form: addresses rising, no entry equal
to what an unlisted address reads as. -/
def memoriesOk (s : State) : Bool := s.mem.wf && s.hostMem.wf

/-- A step that goes on. -/
def goesOn (s : State) : Prop := ∃ t, step s = .next t

/-- A step that goes on from an agenda whose first move is m. -/
def does (m : Move) (s t : State) : Prop := perform m s = .next t

end Sys2Proof.Safety
end

