-- ==== Sys2Proof/Certificates/Slice0/Obligations.lean ====
section
/-! DEFINITION. The statements for the provers, each a `def Obligations.<Name> : Prop`, and the small vocabulary they are
written in. A rule of the spec is written out here in its own terms wherever the model computes by another way. -/

namespace Sys2Proof.Claims

open Sys2Proof.Machine

/-! ### Vocabulary -/

/-- A word meets the conditions of its own that the verifier checks (R67), and is a word. -/
def isGoodWord (i : Instr) : Prop := wellFormed i = true ∧ (wordParts i).isSome = true

/-- opval of R108: the low w bits of a payload, as a signed integer under i8 to i64 and as an unsigned one otherwise. -/
def opNum (ty : Ty) (p : Word) : Int :=
  if ty.code ≤ 3 then Int.bmod p.toNat (2 ^ ty.width) else (p.toNat % 2 ^ ty.width : Nat)

/-- result(v) of R108: v modulo 2^w in the low w bits, the rest filled under R24. -/
def resPay (ty : Ty) (v : Int) : Word :=
  if ty.code ≤ 3 then BitVec.ofInt 64 (Int.bmod v (2 ^ ty.width)) else BitVec.ofInt 64 (v % (2 ^ ty.width : Nat))

/-- MIN and MAX of R108, from the ranges of R23. -/
def least (ty : Ty) : Int := if ty.code ≤ 3 then -(2 ^ (ty.width - 1) : Nat) else 0
def most (ty : Ty) : Int := if ty.code ≤ 3 then (2 ^ (ty.width - 1) : Nat) - 1 else (2 ^ ty.width : Nat) - 1

/-- IMM23 sign-extended to 64 bits (R108). -/
def immWord (f : FormA) : Word := f.imm.signExtend 64

/-- The operand values in order (R55, R108): the tokens, then the immediate. -/
def args (h : Hdr) (f : FormA) (i : Issue) : List Int :=
  (i.ops.map fun t => opNum h.ty t.pay) ++ (if f.i then [opNum h.ty (immWord f)] else [])

/-- The w-bit pattern of a value (R121). -/
def pat (ty : Ty) (v : Int) : BitVec ty.width := BitVec.ofInt ty.width v

/-- The table of R121: the value v of an instruction of operands a, b, c before result(v) reduces it. -/
def intRow : Instr → Option (Hdr × FormA × (Int → Int → Int → Int))
  | .add h f => some (h, f, fun a b _ => a + b)
  | .sub h f => some (h, f, fun a b _ => a - b)
  | .mul h f => some (h, f, fun a b _ => a * b)
  | .mad h f => some (h, f, fun a b c => a * b + c)
  | .mulh h f => some (h, f, fun a b _ => a * b / (2 ^ h.ty.width : Nat))
  | .div h f => some (h, f, fun a b _ =>
      if b = 0 then -1 else if a = least h.ty ∧ b = -1 then least h.ty else Int.tdiv a b)
  | .rem h f => some (h, f, fun a b _ =>
      if b = 0 then a else if a = least h.ty ∧ b = -1 then 0 else a - b * Int.tdiv a b)
  | .min h f => some (h, f, fun a b _ => if a ≤ b then a else b)
  | .max h f => some (h, f, fun a b _ => if a ≥ b then a else b)
  | .abs h f => some (h, f, fun a _ _ => if a < 0 then -a else a)
  | .neg h f => some (h, f, fun a _ _ => -a)
  | .adds h f => some (h, f, fun a b _ => max (least h.ty) (min (most h.ty) (a + b)))
  | .subs h f => some (h, f, fun a b _ => max (least h.ty) (min (most h.ty) (a - b)))
  | .and h f => some (h, f, fun a b _ => (pat h.ty a &&& pat h.ty b).toNat)
  | .or h f => some (h, f, fun a b _ => (pat h.ty a ||| pat h.ty b).toNat)
  | .xor h f => some (h, f, fun a b _ => (pat h.ty a ^^^ pat h.ty b).toNat)
  | .andn h f => some (h, f, fun a b _ => (pat h.ty a &&& ~~~ pat h.ty b).toNat)
  | .clz h f => some (h, f, fun a _ _ =>
      if pat h.ty a = 0 then (h.ty.width : Int) else h.ty.width - 1 - (Nat.log2 (pat h.ty a).toNat : Nat))
  | .popc h f => some (h, f, fun a _ _ => ((List.range h.ty.width).filter fun j => (pat h.ty a).getLsbD j).length)
  | _ => none

/-- The shifts of R122: the amount is b modulo w. -/
def shiftRow : Instr → Option (Hdr × FormA × (Int → Int → Int))
  | .shl h f => some (h, f, fun a b => a * 2 ^ (b % (h.ty.width : Nat)).toNat)
  | .shr h f => some (h, f, fun a b => a / 2 ^ (b % (h.ty.width : Nat)).toNat)
  | .rot h f => some (h, f, fun a b => ((pat h.ty a).rotateLeft (b % (h.ty.width : Nat)).toNat).toNat)
  | _ => none

/-- The k-th operand value. -/
def arg (h : Hdr) (f : FormA) (i : Issue) (k : Nat) : Int := (args h f i).getD k 0

end Sys2Proof.Claims

open Sys2Proof Sys2Proof.Machine Sys2Proof.Claims

/-- R121: the nineteen integer instructions of its table. -/
def Obligations.IntegerResults : Prop :=
  ∀ (w : Instr) (h : Hdr) (f : FormA) (v : Int → Int → Int → Int) (s : State) (i : Issue),
    intRow w = some (h, f, v) → gate s h false = .run i →
    exec w s = .next (give s i h (i.result (resPay h.ty (v (arg h f i 0) (arg h f i 1) (arg h f i 2))) false))

/-- R122: shl, shr and rot. -/
def Obligations.ShiftResults : Prop :=
  ∀ (w : Instr) (h : Hdr) (f : FormA) (v : Int → Int → Int) (s : State) (i : Issue),
    shiftRow w = some (h, f, v) → gate s h false = .run i →
    exec w s = .next (give s i h (i.result (resPay h.ty (v (arg h f i 0) (arg h f i 1))) false))

/-! ### Register writes that act, contexts and translation (R106, R142, R151, R239, R284-R290, R326, R362, R365-R376) -/

namespace Sys2Proof.Claims

/-- A write that reaches register num (R283, R293, R401, R403). -/
def writesTo (s : State) (w : RegWrite) (num : Nat) : Prop := w.num = num ∧ writeReaches s w = true

/-- A status word of a log after OVF is cleared (R142): OVF and LOST are 0, NEXT is as written, the rest as before. -/
def ovfCleared (old val new : Word) : Prop :=
  ∀ j < 64, new.getLsbD j = if j < 32 then val.getLsbD j else if j = 63 ∨ (32 ≤ j ∧ j < 48) then false else old.getLsbD j

end Sys2Proof.Claims

/-- R8, R17, R18, R106, R142, R151, R239, R284, R326, R346 and R362: the register writes that clear a count or an overflow,
switch a window, configure a ring, ask for a close, arm an injection, ask for a pre-emption or for a resume; and a plain write
of a register. -/
def Obligations.RegisterWrites : Prop :=
  (∀ (s : State) (w : RegWrite) (u : Nat), w.by_ = .unit u → w.num = 0x101 → isNode u = false → isCore u = false → wbit w.val 63 = true →
    ∃ t, exec (.tarnWidthClear w) s = .next t ∧ (t.unit u).width.toNat % 2 ^ 56 = 0 ∧
      wbits (t.unit u).width 59 56 = wbits w.val 59 56 ∧ wbits (t.unit u).width 63 60 = wbits (s.unit u).width 63 60 ∧
      ∀ v, v ≠ u → t.unit v = s.unit v) ∧
  (∀ (s : State) (w : RegWrite), wbit w.val 63 = true →
    (writesTo s w 0x011 → ∃ t, exec (.xstatOvfClear w) s = .next t ∧
      ovfCleared (s.ctxReg (writeCtx s w) 0x011) w.val (t.ctxReg (writeCtx s w) 0x011)) ∧
    (writesTo s w 0x007 → ∃ t, exec (.fqstOvfClear w) s = .next t ∧
      ovfCleared (s.ctxReg (writeCtx s w) 0x007) w.val (t.ctxReg (writeCtx s w) 0x007)) ∧
    (writesTo s w 0x30C → ∃ t, exec (.tqstOvfClear w) s = .next t ∧ ovfCleared (s.devReg 0x30C) w.val (t.devReg 0x30C)) ∧
    (writesTo s w 0x280 → ∃ t, exec (.leaveClear w) s = .next t ∧ t.dieReg (writeDie w) 0x280 = 0) ∧
    (writesTo s w 0x302 → s.sealHost = false → s.sealing.asked = false →
      ∃ t, exec (.sealctlClose w) s = .next t ∧ t.sealing.asked = true)) ∧
  (∀ (s : State) (w : RegWrite) (n : Nat), n < 16 → writesTo s w (0x200 + 8 * n) →
    (wbit w.val 63 = true → wbit (winCtl s (writeDie w) n) 63 = false →
      ∃ t, exec (.fwWindowEnable w) s = .next t ∧
        (wbit (winCtl t (writeDie w) n) 63 = true ↔
          windowOk (setDieMask s (writeDie w) (0x200 + 8 * n) w.val fwctlMask) (writeDie w) n w.val = true) ∧
        wbits (winCtl t (writeDie w) n) 39 0 = wbits w.val 39 0) ∧
    (wbit w.val 63 = false → wbit (winCtl s (writeDie w) n) 63 = true →
      ∃ t, exec (.fwWindowDisable w) s = .next t ∧ wbit (winCtl t (writeDie w) n) 63 = false ∧
        ∀ v ∈ t.views, ¬ (winBase s (writeDie w) n 4 ≤ v.1 ∧
          v.1 < winBase s (writeDie w) n 4 + winSpan (winCtl s (writeDie w) n)))) ∧
  (∀ (s : State) (w : RegWrite) (n : Nat), n < 16 → writesTo s w (0x050 + n) →
    let x := writeCtx s w
    (ringFill s x n = ringRel s x n → ringNamed s x n = false → ∃ t, exec (.ringConfigWrite w) s = .next t ∧
      wbits (t.ctxReg x (0x050 + n)) 31 0 = wbits w.val 31 0 ∧ t.ctxReg x (0x060 + n) = 0) ∧
    ((ringFill s x n ≠ ringRel s x n ∨ ringNamed s x n = true) → exec (.ringConfigWrite w) s = .next s)) ∧
  (∀ (s : State) (w : RegWrite) (u : Nat), w.by_ = .unit u → unitSecure s u = true → w.num = 0x309 → wbit (s.devReg 0x309) 63 = false →
    ∃ t, exec (.einjWrite w) s = .next t ∧
      (wbit w.val 63 = true → wbit w.val 62 = true → wbits w.val 51 6 * 64 ∈ t.poison ∧ wbit (t.devReg 0x309) 63 = false) ∧
      (wbit w.val 63 = true → wbit w.val 62 = false → t.poison = s.poison ∧ wbit (t.devReg 0x309) 63 = true ∧
        wbits (t.devReg 0x309) 51 6 = wbits w.val 51 6)) ∧
  (∀ (s : State) (w : RegWrite), writesTo s w 0x305 → ∃ t, exec (.dutyWrite w) s = .next t ∧
    wbits (t.devReg 0x305) 5 0 = wbits w.val 5 0 ∧ t.pageHost = wbit w.val 1 ∧ t.groupHost = s.groupHost ∧
    t.triageHost = s.triageHost ∧ t.powerHost = s.powerHost ∧ t.linkHost = s.linkHost ∧
    t.sealHost = (if s.sealed + 1 < s.iv then s.sealHost else wbit w.val 5)) ∧
  (∀ (s : State), wbit (s.devReg 0x305) 3 ≠ s.powerHost → s.clk % 1024 = 0 →
    ∃ t, exec (.dutySwitchPoint 3) s = .next t ∧ t.powerHost = wbit (s.devReg 0x305) 3) ∧
  (∀ (s : State) (w : RegWrite), rowsOf w = [] → w.num < 0x400 →
    exec (.sysregWrite w) s = .next (regWrite s w none) ∧
    (writeReaches s w = false → exec (.sysregWrite w) s = .next s) ∧
    (writesTo s w 0x022 →
      ∃ t, exec (.sysregWrite w) s = .next t ∧ wbit (t.ctxReg (writeCtx s w) 0x022) 0 = wbit w.val 0 ∧ t.mem = s.mem)) ∧
  (∀ (s : State) (w : RegWrite), writesTo s w 0x005 → let x := writeCtx s w
    (wbit w.val 63 = true → (s.ctx x).st = .running → noSave s x = false →
      ∃ t, exec (.ctxPreempt w) s = .next t ∧ (t.ctx x).st = .checkpointing ∧ t.mem = s.mem) ∧
    (wbit w.val 63 = false → wbit w.val 62 = true → (s.ctx x).st = .saved →
      ∃ t, exec (.ctxResume w) s = .next t ∧ (t.ctx x).st = .saved ∧ (t.ctx x).resume = true ∧ t.mem = s.mem))

/-- R285, R286, R288 and R290: a pre-emption makes a running context checkpoint, and its regions drain; a complete checkpoint
writes the save area, saves the context and releases its regions; a resume asked of a saved context takes free regions for it
and sets its work in motion once its images are staged; a save area whose CHECK fails stops it with PERM. What the area holds
is the model's choice (log 28). -/
def Obligations.ContextEvents : Prop :=
  (∀ (s : State) (w : RegWrite), writesTo s w 0x005 → wbit w.val 63 = true → let x := writeCtx s w
    (s.ctx x).st = .running →
    (noSave s x = false → ∃ t, exec (.ctxPreempt w) s = .next t ∧
      (∀ y, t.ctx y = if y = x then { s.ctx x with st := .checkpointing } else s.ctx y) ∧
      (∀ k ∈ taskRegions s x, (s.region k).phase = .run → (s.region k).kref.isSome = true → (t.region k).phase = .drainCkpt) ∧
      t.mem = s.mem ∧ t.units = s.units) ∧
    (noSave s x = true → ∃ t, exec (.ctxPreempt w) s = .next t ∧ (∀ y, t.ctx y = s.ctx y) ∧ t.regions = s.regions ∧ t.mem = s.mem)) ∧
  (∀ (s : State) (w : RegWrite), writesTo s w 0x005 → wbit w.val 63 = false → wbit w.val 62 = true → let x := writeCtx s w
    ∃ t, exec (.ctxResume w) s = .next t ∧
      (∀ y, t.ctx y = if y = x ∧ (s.ctx x).st = .saved then { s.ctx x with resume := true } else s.ctx y) ∧
      t.mem = s.mem ∧ t.units = s.units ∧ t.regions = s.regions) ∧
  (∀ (s a : State) (x : Nat) (bs : List Byte), ckptReady s x = true → saveArea s x = (bs, a) →
    (∀ t, writeBack a (s.region (regKey x 0)).die x (saveBase a x) bs = .ok t →
      ∃ u, exec (.checkpointComplete x) s = .next u ∧ (u.ctx x).st = .saved ∧ (u.ctx x).saved.isSome = true ∧
        (u.ctx x).resume = false ∧ (u.ctx x).preempt = false ∧ u.mem = ((upFrom 0 512).foldl (fun s n => spillPartials s x n) t).mem ∧
        ∀ k ∈ taskRegions s x, (u.region k).kref = none ∧
          ∀ v ∈ (s.region k).units, (u.unit v).owner = none ∧ (u.unit v).plane = {}) ∧
    (∀ e, writeBack a (s.region (regKey x 0)).die x (saveBase a x) bs = .error e →
      exec (.checkpointComplete x) s = .next (backFault a (regKey x 0) e))) ∧
  (∀ (s : State) (x : Nat), ckptReady s x = false → exec (.checkpointComplete x) s = .next s) ∧
  (∀ (s : State) (x : Nat) (v : Saved), (s.ctx x).st = .saved → (s.ctx x).saved = some v → (s.ctx x).resume = true →
    (∀ ms, placeAll s x [] v.regions = some ms → ∃ u, exec (.resumeRestore x) s = .next u ∧ (u.ctx x).st = .resuming ∧
      (u.ctx x).saved.isSome = true ∧ (∀ m ∈ ms, ∀ y ∈ m.new.units, (u.unit y).owner.isSome = true) ∧ u.mem = s.mem) ∧
    (placeAll s x [] v.regions = none → exec (.resumeRestore x) s = .next s)) ∧
  (∀ (s t : State) (x : Nat) (v : Saved) (bs : List Byte) (bad : Bool), (s.ctx x).st = .resuming → (s.ctx x).saved = some v →
    (∀ i ∈ savedImages v, (imageOf s i.1 x i.2).isSome = true) →
    readV s (s.region (regKey x 0)).die x false (saveBase s x) (saveSize s x) = (.ok bs bad, t) →
    ((bad = true ∨ csumBytes (bs.take 4 ++ zeroBytes 4 ++ bs.drop 8) ≠ natOfBytes ((bs.drop 4).take 4)) →
      exec (.resumeRestore x) s = .next (stopWith t x 0x21 { die := (s.region (regKey x 0)).die, addr := BitVec.ofNat 64 (saveBase t x) })) ∧
    (bad = false → csumBytes (bs.take 4 ++ zeroBytes 4 ++ bs.drop 8) = natOfBytes ((bs.drop 4).take 4) →
      ∃ u, exec (.resumeRestore x) s = .next u ∧ (u.ctx x).st = .running ∧ (u.ctx x).saved = none ∧ (u.ctx x).resume = false))

/-- R365, R367 to R369 and R373 to R376: a walk installs its leaf with A, and D for a write, set in memory; a write of
ctx.tlbi drops the entries it names, all of the context or those that map its page, and is complete when no access through
one is left; with RETRY each pending entry it covers walks again. -/
def Obligations.TranslationEvents : Prop :=
  (∀ (s t : State) (k pa e : Nat) (w : Walk), (s.walks.find? fun v => v.id == k) = some w → w.who ≠ .other →
    walkNow { s with walks := s.walks.filter fun v => v.id ≠ k } w.die w.ctx w.va w.kind w.who.fabric w.img = (.ok pa e, t) →
    exec (.tableWalkDone k) s = .next t) ∧
  (∀ (s : State) (d x va kind e lvl a : Nat), let t := installLeaf s d x va kind e lvl a
    (memGet t.mem a).getLsbD 6 = true ∧ ((kind = 1 ∨ kind = 2) → (memGet t.mem a).getLsbD 5 = true) ∧
    (∀ b, b ≠ a → memGet t.mem b = memGet s.mem b) ∧
    (lvl = 3 → ∃ l, tlbFind t d x va = some l ∧ l.lvl = lvl ∧ l.va = va / 65536 * 65536)) ∧
  (∀ (s t : State) (k c l : Nat) (w : Walk) (f : FireRef) (g : Firing), (s.walks.find? fun v => v.id == k) = some w → w.who = .fire f →
    walkNow { s with walks := s.walks.filter fun v => v.id ≠ k } w.die w.ctx w.va w.kind w.who.fabric w.img = (.fault c l, t) →
    t.firing? f = some g → g.st = .running → g.started = true →
    exec (.tableWalkDone k) s = .next (blockFault t f w.slot c (xAddr w.va w.kind l))) ∧
  (∀ (s : State) (w : RegWrite), writesTo s w 0x00B → wbit w.val 62 = false →
    let x := writeCtx s w
    (wbit w.val 63 = true → ∃ t, exec (.tlbiAll w) s = .next t ∧ t.tlbs = s.tlbs.filter (fun l => l.ctx ≠ x) ∧
      t.invs.map (·.id) = s.invs.map (·.id) ++ [s.nextId]) ∧
    (wbit w.val 63 = false → ∃ t, exec (.tlbiVa w) s = .next t ∧
      t.tlbs = s.tlbs.filter (fun l => ¬ (l.ctx = x ∧ l.va ≤ wbits w.val 55 16 * 65536 ∧ wbits w.val 55 16 * 65536 < l.va + l.size)))) ∧
  (∀ (s : State) (w : RegWrite) (p : PendFault), writesTo s w 0x00B → wbit w.val 62 = true → wbit w.val 63 = true →
    (s.ctx (writeCtx s w)).pends = [p] → p.retrying = false → p.va % 65536 = 0 → p.va < 2 ^ 56 →
    ∃ t, exec (.tlbiRetry w) s = .next t ∧ (t.ctx (writeCtx s w)).pends = [{ p with retrying := true }] ∧
      t.walks.map (·.id) = s.walks.map (·.id) ++ [s.nextId]) ∧
  (∀ (s : State) (k : Nat) (v : TlbInv), (s.invs.find? fun u => u.id == k) = some v →
    (s.live v.wait = [] → ∃ t, exec (.tlbiComplete k) s = .next t ∧ t.invs = s.invs.filter (fun u => u.id ≠ k) ∧
      ∀ n, v.opId = some n → n ∉ t.outstanding ∧ n ∉ t.pend.map (·.id)) ∧
    (s.live v.wait ≠ [] → exec (.tlbiComplete k) s = .next s))

/-! ### Power and queues (R298-R307, R326, R404, R405, R415) -/

namespace Sys2Proof.Claims

/-- A function's write of q.ctl with a command, to a queue it reaches (R298, R299). -/
def commands (s : State) (w : QueueWrite) (c : Nat) : Prop :=
  w.q < 1024 ∧ fnReaches s w.fn w.q = true ∧ w.off = 8 ∧ wbits w.val 63 61 = c

/-- The next packet of a queue starts now (R300, R302, R306): its bytes are read, nothing orders another before it, and its
kind and zero fields are right. -/
def startsNow (s : State) (q : Nat) (b : List Byte) (t : State) : Prop :=
  mayFetch (s.queue q) = true ∧ outranked s q = false ∧ s.fw.switching = false ∧ s.fw.updating = false ∧
  fetchPacket s q (s.queue q).head = (.ok b, t) ∧ orderFree (s.queue q) b = true ∧
  1 ≤ fld b 0 1 ∧ fld b 0 1 ≤ 7 ∧ packetZeros b = true

end Sys2Proof.Claims

/-- R326, R404 and R405: a governor reads its budget every 1,024 cycles; leave goes to the oldest waiting request when no grant
of the die is in progress, and is counted with its delay; a DRAM layer that grows hot raises its count once and is hot until
it cools below 82 degrees. -/
def Obligations.PowerEvents : Prop :=
  (∀ (s : State) (d c : Nat), (s.cluster d c).period + 1024 ≤ s.clk →
    ∃ t, exec (.governorPeriod d c) s = .next t ∧
      (s.powerHost = false → (t.cluster d c).budget = 290 * wbits (s.dieReg d 0x281) 7 0 / 255) ∧
      (s.powerHost = true → (t.cluster d c).budget = wbits (s.dieReg d 0x282) 15 0) ∧
      (t.cluster d c).period = s.clk / 1024 * 1024 ∧ (t.cluster d c).queue = (s.cluster d c).queue) ∧
  (∀ (s : State) (d : Nat) (l : Leave) (r : List Leave), (s.die d).leaves = l :: r → (∀ m ∈ l :: r, m.until_ = none) →
    ∃ t, exec (.leaveGrant d) s = .next t ∧
      (t.die d).leaves = { l with until_ := some (if l.len = 0 then 0 else s.clk + l.len) } :: r ∧
      wbits (t.dieReg d 0x280) 62 32 = min 0x7FFFFFFF (wbits (s.dieReg d 0x280) 62 32 + 1) ∧
      wbits (t.dieReg d 0x280) 31 0 = min 0xFFFFFFFF (wbits (s.dieReg d 0x280) 31 0 + (s.clk - l.since))) ∧
  (∀ (s : State) (d layer temp : Nat), layer ≤ 1 → temp < 65536 →
    ∃ t, exec (.dramOvertemp d layer temp) s = .next t ∧ wbits (t.dieReg d 0x283) (16 * layer + 15) (16 * layer) = temp ∧
      (85 * 16 < temp → wbit (t.dieReg d 0x284) layer = true ∧
        wbits (t.dieReg d 0x284) 63 32 = (if wbit (s.dieReg d 0x284) layer then wbits (s.dieReg d 0x284) 63 32
          else min 0xFFFFFFFF (wbits (s.dieReg d 0x284) 63 32 + 1))) ∧
      (temp < 82 * 16 → wbit (t.dieReg d 0x284) layer = false) ∧
      (82 * 16 ≤ temp → temp ≤ 85 * 16 → t.dieReg d 0x284 = s.dieReg d 0x284))

/-- R299, R300 and R307: the commands of q.ctl by the queue's state, and the doorbell. -/
def Obligations.QueueCommands : Prop :=
  (∀ (s : State) (w : QueueWrite), commands s w 1 → (s.queue w.q).st = .disabled →
    let v := { s.queue w.q with prio := wbits w.val 25 24, vec := wbits w.val 23 16, ctx := wbits w.val 7 0 }
    ∃ t, exec (.queueEnable w) s = .next t ∧ t.queue w.q =
      if queueValid s w.q v = true then { v with st := .idle, head := 0, tail := 0, done := 0 } else v) ∧
  (∀ (s : State) (w : QueueWrite), commands s w 2 → let v := s.queue w.q
    (v.st = .idle → ∃ t, exec (.queueQuiesce w) s = .next t ∧ t.queue w.q = { v with st := .quiesced }) ∧
    (v.st = .active → v.pkts = [] → ∃ t, exec (.queueQuiesce w) s = .next t ∧ t.queue w.q = { v with st := .quiesced }) ∧
    (∀ (p : Pkt) (r : List Pkt), v.st = .active → v.pkts = r ++ [p] → (fld p.bytes 0 1 ≠ 5 ∨ p.met = true) →
      ∃ t, exec (.queueQuiesce w) s = .next t ∧ t.queue w.q = { v with st := .draining }) ∧
    (∀ (p : Pkt) (r : List Pkt), v.st = .active → v.pkts = r ++ [p] → fld p.bytes 0 1 = 5 → p.met = false →
      ∃ t, exec (.queueQuiesce w) s = .next t ∧
        t.queue w.q = { v with pkts := r, head := p.idx, st := if r = [] then .quiesced else .draining })) ∧
  (∀ (s : State) (w : QueueWrite), commands s w 3 → let v := s.queue w.q
    v.st = .quiesced → ∃ t, exec (.queueResume w) s = .next t ∧
      t.queue w.q = { v with st := if v.tail = v.head then .idle else .active }) ∧
  (∀ (s : State) (w : QueueWrite), commands s w 4 → let v := s.queue w.q
    ((v.st = .idle ∨ v.st = .quiesced) → ∃ t, exec (.queueDisable w) s = .next t ∧ t.queue w.q = { v with st := .disabled }) ∧
    (v.st = .error → v.pkts = [] → ∃ t, exec (.queueDisable w) s = .next t ∧ t.queue w.q = { v with st := .disabled, ecode := 0 }) ∧
    (v.st = .active → exec (.queueDisable w) s = .next s)) ∧
  (∀ (s : State) (w : QueueWrite), commands s w 5 → let v := s.queue w.q
    v.st = .error → v.pkts = [] → (s.ctx v.ctx).st ≠ .free →
    ∃ t, exec (.queueClear w) s = .next t ∧ t.queue w.q = { v with st := .quiesced, ecode := 0 }) ∧
  (∀ (s : State) (w : QueueWrite), w.q < 1024 → fnReaches s w.fn w.q = true → w.off = 0x20 → let v := s.queue w.q
    let tail := wbits w.val 31 0
    let ok := (tail + 2 ^ 32 - v.head) % 2 ^ 32 ≤ 2 ^ (wbits v.base 3 0 + 4)
    (v.st = .idle → ok → ∃ t, exec (.queueDoorbell w) s = .next t ∧
      t.queue w.q = { v with tail := tail, st := if tail = v.head then .idle else .active }) ∧
    ((v.st = .active ∨ v.st = .draining ∨ v.st = .quiesced) → ok →
      ∃ t, exec (.queueDoorbell w) s = .next t ∧ t.queue w.q = { v with tail := tail }) ∧
    ((v.st = .disabled ∨ v.st = .error) → exec (.queueDoorbell w) s = .next s) ∧
    (v.st ≠ .disabled → v.st ≠ .error → ¬ ok → exec (.queueDoorbell w) s = .next (queueError s w.q 3)))

/-- R300 to R307 and R415: a packet starts when its turn has come and HEAD passes it; one that breaks R300 stops its queue
with its ECODE; the oldest packet in flight completes: CVAL is written at its host address, DONE rises, and the queue may become
idle or quiesced; a WAIT is met when its word meets its condition. That a launch waits for an earlier one of its kind whose group page
is awaited is the model's choice (log 114). -/
def Obligations.QueuePackets : Prop :=
  ((∀ (s t : State) (q : Nat) (b : List Byte), startsNow s q b t → let k := (s.queue q).head
     let put := fun (p : Pkt) => putPacket t q { p with idx := k, bytes := b }
     (fld b 0 1 = 7 → exec (.nopPkt q) s = .next (put { met := true })) ∧
     (fld b 0 1 = 4 → exec (.signalPkt q) s = .next (put {})) ∧
     (fld b 0 1 = 5 → exec (.waitPkt q) s = .next (put { lastRead := t.clk })) ∧
     (fld b 0 1 = 6 → let n := if fld b 0x18 6 = 0 then t.iv else fld b 0x18 6
       (n < t.iv → exec (.sealReqPkt q) s = .next (put { target := n })) ∧
       (t.iv ≤ n → exec (.sealReqPkt q) s = .next (requestClose (put { target := n }) .packet))) ∧
     (fld b 0 1 = 3 → ∀ g, group? t (t.queue q).ctx (fld b 0x18 8) = some g → fld b 0x20 4 < g.nnode →
       ∃ u, exec (.patchPkt q) s = .next u ∧ (u.queue q).pkts = (t.queue q).pkts ++ [{ idx := k, bytes := b }] ∧
         u.patches = t.patches ++ [{ id := t.nextId, ctx := (t.queue q).ctx, group := fld b 0x18 8, node := fld b 0x20 4
                                     param := BitVec.ofNat 64 (fld b 0x28 8), queue := some (q, k) }]) ∧
     (fld b 0 1 = 2 → (∀ p ∈ (s.queue q).pkts, p.waits = false) → ∀ g, group? t (t.queue q).ctx (fld b 0x18 8) = some g →
       exec (.replayPkt q) s =
         .next (packetLaunch q k { descOf (b.drop 0x18) with first := 0, count := 0, split := 0 } (put {}))) ∧
     (fld b 0 1 = 2 → (∀ p ∈ (s.queue q).pkts, p.waits = false) → group? t (t.queue q).ctx (fld b 0x18 8) = none → let x := (t.queue q).ctx
       exec (.replayPkt q) s = .next (putPacket (launchPerm t x { site := nodeSite (homeOf t x) 0 } (fld b 0x18 8)) q
         { idx := k, bytes := b, met := true })) ∧
     (fld b 0 1 = 1 → (∀ p ∈ (s.queue q).pkts, p.waits = false) → t.groupHost = false → descOk t (descOf (b.drop 0x18)) = true →
       exec (.launchGroup q) s = .next (packetLaunch q k (descOf (b.drop 0x18)) (put {}))) ∧
     (fld b 0 1 = 1 → (∀ p ∈ (s.queue q).pkts, p.waits = false) → descOk t (descOf (b.drop 0x18)) = false → exec (.launchGroup q) s = .next (queueError t q 6))) ∧
   (∀ (s t : State) (q : Nat) (b : List Byte), mayFetch (s.queue q) = true → outranked s q = false → s.fw.switching = false →
     s.fw.updating = false → fetchPacket s q (s.queue q).head = (.ok b, t) → orderFree (s.queue q) b = true →
     ((fld b 0 1 = 0 ∨ 7 < fld b 0 1) → exec (.nopPkt q) s = .next (queueError t q 1)) ∧
     (1 ≤ fld b 0 1 → fld b 0 1 ≤ 7 → packetZeros b = false → exec (.nopPkt q) s = .next (queueError t q 2))) ∧
   (∀ (s t : State) (q : Nat) (p : Pkt), (putPacket t q p).queue q =
     { t.queue q with head := ((t.queue q).head + 1) % 2 ^ 32, pkts := (t.queue q).pkts ++ [p] } ∧ (putPacket s q p).mem = s.mem)) ∧
  ((∀ (s : State) (q : Nat) (p : Pkt) (r : List Pkt), (s.queue q).pkts = p :: r → p.met = true → p.launch = none →
     wbit (s.queue q).base 11 = true → let v := s.queue q
     ∃ t, exec (.packetComplete q) s = .next t ∧ (t.queue q).pkts = r ∧ (t.queue q).done = (v.done + 1) % 2 ^ 32 ∧
       (t.queue q).head = v.head ∧ t.mem = s.mem ∧
       (v.st = .active → r = [] → v.head = v.tail → (t.queue q).st = .idle) ∧ (v.st = .draining → r = [] → (t.queue q).st = .quiesced) ∧
       (v.st = .active → r ≠ [] → (t.queue q).st = .active) ∧
       (∀ a, memGet t.hostMem a = if fld p.bytes 8 8 ≠ 0 ∧ fld p.bytes 8 8 ≤ a ∧ a < fld p.bytes 8 8 + ((p.bytes.drop 0x10).take 8).length
         then ((p.bytes.drop 0x10).take 8).getD (a - fld p.bytes 8 8) 0 else memGet s.hostMem a)) ∧
   (∀ (s t : State) (q : Nat) (p : Pkt) (r : List Pkt) (bs : List Byte) (bad : Bool), (s.queue q).pkts = r ++ [p] →
     (∀ w ∈ r, w.idx ≠ p.idx) → fld p.bytes 0 1 = 5 → p.met = false → frontHeld s (s.queue q).ctx (fld p.bytes 0x18 8) 8 = false →
     readV s 0 (s.queue q).ctx false (fld p.bytes 0x18 8) 8 = (.ok bs bad, t) → t.queue q = s.queue q →
     let a := natOfBytes bs
     let b := fld p.bytes 0x20 8
     let holds : Bool := if fld p.bytes 0x28 1 = 0 then decide (b ≤ a) else if fld p.bytes 0x28 1 = 1 then decide (a = b) else decide (a ≠ b)
     ∃ u, exec (.watchReread true q) s = .next u ∧ (u.queue q).pkts = r ++ [{ p with met := holds, lastRead := t.clk }]))
/-! ### Kernels, groups and barriers at work (R261-R274, R308-R321, R327-R337) -/

namespace Sys2Proof.Claims

/-- The die's cache holds an image that fits a region (R261, R263). -/
def staged (s : State) (g : Stage) (i : Image) : Prop :=
  imageOf s g.die g.ctx g.addr = some i ∧ fitFault (s.region g.reg) i = none

/-- A node of a launch is the one its die dispatches next (R314): no journaled task waits, and it heads its kind's pool. -/
def nextNode (s : State) (d kind : Nat) (e : Ready) (l : Launch) : Prop :=
  ((s.die d).journal.find? fun j => j.iv == 0) = none ∧ poolHead s d kind = some e ∧ launch? s e.launch = some l ∧
  (tabGet l.nodes e.node).nrec.kind = kind

/-- What barrierForward waits for (R329, R330): every input channel is cut by barrier b, no firing of the segment is left, and
every route inside the region takes a marker. -/
def forwards (s : State) (u op b : Nat) (r : OpRec) (q : OpState) : Prop :=
  opRec? s u op = some r ∧ s.op? u op = some q ∧
  (∃ k ks, inChans r = k :: ks ∧ oldestMark (tabGet q.chans k.ch) = some b) ∧ (∀ c ∈ inChans r, cutBy s u op c.ch b = true) ∧
  q.firings = [] ∧ ((heldTags q (inChans r)).any fun t => (takeAll none q t.1 t.2.1 (inChans r)).isSome) = false ∧
  isCore u = false ∧ (s.region (s.regOf u)).stopped = false ∧ draining s u = false ∧
  ∀ c ∈ outChans r, destOpen s (destOf s u c.dest) = true

end Sys2Proof.Claims

/-- R147, R263, R265 to R271, R276 and R277: a staged image activates its task's kernel at depth 0; the arbiter drains, takes a
call and checks its depth; the freeze adds a level; a ret thaws the caller and sends it the results, and a tcall keeps the
depth. What a record holds is the model's choice (log 28). -/
def Obligations.KernelEvents : Prop :=
  (∀ (s : State) (k : Nat) (g : Stage) (i : Image), (s.stages.find? fun g => g.id == k) = some g → staged s g i →
    (∀ t, g.who = .task t → let r := s.region g.reg
      (∀ c ∈ r.clusters, hasLeave s r.die (.load r.die c t) = true) → framesFit s g.reg i.frame .dispatch = true →
      ∃ u kr, exec (.imageStage k) s = .next u ∧ (u.region g.reg).kref = some kr ∧ kr.depth = 0 ∧ kr.image = i.addr ∧
        (u.region g.reg).levels = (s.region g.reg).levels) ∧
    (∀ id p, g.who = .kload id → (s.pend.find? fun p => p.id == id) = some p →
      ∃ u, exec (.imageStage k) s = .next u ∧ id ∉ u.outstanding ∧ id ∉ u.pend.map (·.id) ∧ k ∉ u.stages.map (·.id))) ∧
  (∀ (s : State) (x n : Nat), let k := regKey x n
    let r := s.region k
    arbiterRuns s k = true →
    (r.phase = .run → ownCalls r ≠ [] → ∃ u, exec (.callTake x n) s = .next u ∧ (u.region k).phase = .drainCall ∧ u.units = s.units) ∧
    (∀ c, r.phase = .drainCall → drained s k = true → pickCall s k = some c → c.tail = false →
      let depth := (r.kref.getD {}).depth + 1
      ((wbits (s.ctxReg x 0x17) 7 0 < depth ∨ 255 < depth) →
        exec (.callTake x n) s = .next (failCall s k c 0x40 (arbiterSite r c.op c.unitIx))) ∧
      (∀ i, depth ≤ wbits (s.ctxReg x 0x17) 7 0 → depth ≤ 255 → imageOf s r.die x c.image = some i → fitFault r i = none →
        (c.args = [] ∨ entryOk i = true) → framesFit s k i.frame .call = true →
        ∃ u, exec (.callTake x n) s = .next u ∧ (u.region k).phase = .taken c ∧
          (u.region k).calls = r.calls.filter (fun d => d.id ≠ c.id)))) ∧
  (∀ (s z a b : State) (x n : Nat) (c : Call) (i : Image) (ls : List Level) (lev new : Level), let k := regKey x n
    let r := s.region k
    r.phase = .taken c → arbiterRuns s k = true → imageOf s r.die x c.image = some i → frozenLevel s r = (lev, z) →
    writeRecords z r.die r.ctx (nodeSlots z r lev) = .ok a → spillLoop a r (r.levels.length + 2) r.levels lev = .ok (ls, new, b) →
    ∃ u kr, exec (.planeFreezeCopy x n) s = .next u ∧ (u.region k).levels = ls ++ [new] ∧ (u.region k).kref = some kr ∧
      kr.depth = new.kref.depth + 1 ∧ kr.cont = c.cont ∧ kr.tag = c.tag ∧ kr.image = i.addr) ∧
  (∀ (s : State) (x n : Nat) (vals : List Word) (xb : Bool) (deps : List Nat) (kr : KRef), let k := regKey x n
    let r := s.region k
    r.kref = some kr → arbiterRuns s k = true → tearReady s k = true →
    (r.phase = .tearing vals xb deps none → r.levels = [] →
      ∃ u, exec (.activationTeardown x n) s = .next u ∧ (u.region k).kref = none ∧ (u.region k).phase = .run) ∧
    (∀ ls l a, r.phase = .tearing vals xb deps none → r.levels = ls ++ [l] →
      readRecords s r.die x (nodeSlots s r l ++ if l.spilled = true then levelSlots s r l else []) = .ok a →
      ∃ u, exec (.activationTeardown x n) s = .next u ∧ (u.region k).kref = some l.kref ∧ (u.region k).levels = ls ∧
        ∀ ix o c, kr.cont = some (ix, o, c) → ∀ j < vals.length, ∃ f ∈ u.flight, ∃ t, f.dst = .chan (r.unitAt ix) o c ∧
          f.item = .tok t ∧ t.pay = vals.getD j 0 ∧ t.sq = BitVec.ofNat 8 j ∧ t.tag = kr.tag % 65536 ∧ t.x = xb ∧ t.deps = deps) ∧
    (∀ c i, r.phase = .tearing vals xb deps (some c) → imageOf s r.die x c.image = some i →
      ∃ u kr', exec (.activationTeardown x n) s = .next u ∧ (u.region k).kref = some kr' ∧ kr'.depth = kr.depth ∧
        kr'.cont = kr.cont ∧ kr'.tag = kr.tag ∧ kr'.image = i.addr ∧ (u.region k).levels = r.levels))

/-- R290, R313 to R318, R321 and R329: dispatch gives an F node's task its region and its context; an H node's task waits for
its word; the first node due ages by 1 ms; a done copy node and a quiet F task complete; a waiting patch reaches the newest table; a region
stuck for 2^24 cycles raises BLK_STUCK; a forwarded barrier collects what its operator released. -/
def Obligations.GroupEvents : Prop :=
  (∀ (s : State) (d a : Nat) (e : Ready) (l : Launch), nextNode s d 0 e l → (s.ctx l.ctx).st = .idle →
    placeTask s l e.node (tabGet l.nodes e.node).nrec = .at_ a none → (s.region a).outOfService = false →
    ∃ u t, exec (.nodeDispatch d 0) s = .next u ∧ (u.ctx l.ctx).st = .running ∧ (u.ctx l.ctx).task = some t ∧ t.launch = l.id ∧
      t.node = e.node ∧ t.regs = [a] ∧ t.iv = s.iv ∧ (∀ v ∈ (s.region a).units, (u.unit v).owner = some a) ∧ t ∈ u.tasks) ∧
  (∀ (s a : State) (d n : Nat) (e : Ready) (l : Launch), nextNode s d 3 e l →
    groupWrite s l.home l.ctx (taskOf s l e.node e.prio (tabGet l.nodes e.node).nrec [] 0).1.param.toNat
      (bytesOf 8 (tabGet l.nodes e.node).nrec.kernel ++ bytesOf 8 (taskWord l.num e.prio 3 e.node).toNat) (nodeSite l.home 0) = .ok n a →
    ∃ u t, exec (.nodeDispatch d 3) s = .next u ∧ u.tasks = s.tasks ++ [t] ∧ t.kind = 3 ∧ t.launch = l.id ∧ t.node = e.node ∧
      u.mem = a.mem) ∧
  (∀ (s t : State) (d g : Nat) (e : Ready) (l : Launch) (bs : List Byte) (a b : Pattern), nextNode s d 1 e l → copyEngine s l e.node = some g →
    (tabGet l.nodes e.node).nrec.kernel % 128 = 0 →
    groupRead s l.home l.ctx (tabGet l.nodes e.node).nrec.kernel 256 0 (nodeSite l.home s.iv) = .ok bs t → jobOf t l.ctx bs = some (a, b) →
    ∃ u j, exec (.nodeDispatch d 1) s = .next u ∧ jobsOf u l.home g = jobsOf t l.home g ++ [j] ∧ j.src = a ∧ j.dst = b ∧ j.node = true) ∧
  (∀ (s : State) (d k : Nat) (e : Ready), (s.die d).ready[k]? = some e → e.prio < 3 → e.since + 2000000 ≤ s.clk →
    agesFirst (s.die d).ready s.clk k e = true → e.inPool = true →
    ∃ u, exec (.nodeAging d k) s = .next u ∧ (u.die d).ready =
      ((s.die d).ready.filter fun f => !(f.launch == e.launch && f.node == e.node)) ++ [{ e with prio := e.prio + 1, since := e.since + 2000000 }]) ∧
  (∀ (s : State) (k : Nat) (t : Task) (l : Launch), (s.tasks.find? fun t => t.id == k) = some t → launch? s t.launch = some l →
    ((t.kind = 1 ∧ k ∉ s.outstanding) ∨ (t.kind = 0 ∧ taskDone s t = true) ∨ (t.kind = 2 ∧ k ∉ s.outstanding)) →
    ∃ u l', exec (.taskComplete k) s = .next u ∧ (∀ q ∈ u.tasks, q.id ≠ k) ∧ launch? u t.launch = some l' ∧
      (tabGet l'.nodes t.node).st = .complete ∧
      (t.kind = 0 → (u.ctx t.ctx).st = .idle ∧ (u.ctx t.ctx).task = none ∧ u.ctxReg t.ctx 1 = 0)) ∧
  (∀ (s : State) (k : Nat) (p : Patch) (g : Group), (s.patches.find? fun p => p.id == k) = some p →
    group? s p.ctx p.group = some g → patchReady s p.ctx p.group k = true →
    ∃ u g', exec (.patchApply k) s = .next u ∧ group? u p.ctx p.group = some g' ∧
      tabGet? (if g'.newest = 0 then g'.tab0 else g'.tab1) p.node = some p.param ∧ ∀ q ∈ u.patches, q.id ≠ k) ∧
  (∀ (s : State) (x n : Nat), busyRegion s (regKey x n) = true → let r := s.region (regKey x n)
    (r.activity + 2 ^ 24 ≤ s.clk →
      exec (.stuckTimeout x n) s = .next (takeFault s x 0 0x14 { die := r.die, cl := r.cluster 0, attempt := r.replays })) ∧
    (s.clk < r.activity + 2 ^ 24 → exec (.stuckTimeout x n) s = .next s)) ∧
  (∀ (s : State) (u op b : Nat) (r : OpRec) (q : OpState), forwards s u op b r q →
    ∃ t, exec (.barrierForward u op) s = .next t ∧
      ∀ p ∈ s.pend, p.who = .oper u op → p.id ∈ (bar t (s.regOf u) b).deps)

/-! ### Words: moving values, registers, branches and tags (R108-R119) -/

namespace Sys2Proof.Claims

/-- The immediate of mov and sel under a type (R111): the integer IMM23 converted to a floating type, or result(imm). -/
def immValue (ty : Ty) (f : FormA) : Word :=
  match fmtOf ty with
  | some m => BitVec.ofNat 64 (fpOfInt m .rne false 0 f.imm.toInt).1
  | none => resPay ty (opNum ty (immWord f))

/-- The payload of gettag (R118): [23:16] SEQ, [15:12] LREG, [11:0] ITER, the rest zero. -/
def tagWord (sq : BitVec 8) (lreg : BitVec 4) (iter : BitVec 12) : Word := ((0#40 ++ sq) ++ lreg) ++ iter

/-- A field control of R123: the last operand whole. -/
def control (f : FormA) (i : Issue) : Word := if f.i then immWord f else (i.ops.getLast?.map (·.pay)).getD 0

/-- bit(p) of R123. -/
def bitOf (ty : Ty) (a : Int) (p : Nat) : Bool :=
  if p < ty.width then (pat ty a).getLsbD p else decide (ty.code ≤ 3) && (pat ty a).getLsbD (ty.width - 1)

/-- Whether a test of R59 holds of two values. -/
def testOf (cond : Nat) (a b : Int) : Bool :=
  match cond with
  | 0 => decide (a = b)
  | 1 => decide (a ≠ b)
  | 2 => decide (a < b)
  | 3 => decide (a ≤ b)
  | 4 => decide (a > b)
  | 5 => decide (a ≥ b)
  | _ => false

/-- The state after a word that yields nothing: in its firing the slot has fired, and g says what else changed. -/
def firesAs (s t : State) (i : Issue) (g : Firing → Firing) : Prop :=
  t = (s.modFiring i.f fun q => { q with fired := q.fired ++ [i.slot] }).modFiring i.f g

end Sys2Proof.Claims

/-- R123: the payload of bfx and bfi, bit by bit. -/
def Obligations.BitFieldResults : Prop :=
  ∀ (h : Hdr) (f : FormA) (s : State) (i : Issue), gate s h false = .run i → h.ty.code ≤ 7 →
    let lsb := (control f i).toNat % 64
    let width := min ((control f i).toNat / 256 % 128) h.ty.width
    (∃ v : Int, exec (.bfx h f) s = .next (give s i h (i.result (resPay h.ty v) false)) ∧
      (∀ j < width, (BitVec.ofInt 128 v).getLsbD j = bitOf h.ty (arg h f i 0) (lsb + j)) ∧
      (∀ j < 128, width ≤ j → (BitVec.ofInt 128 v).getLsbD j =
        (decide (h.ty.code ≤ 3) && decide (0 < width) && bitOf h.ty (arg h f i 0) (lsb + width - 1)))) ∧
    (∃ v : Int, exec (.bfi h f) s = .next (give s i h (i.result (resPay h.ty v) false)) ∧
      (∀ j < h.ty.width, (pat h.ty v).getLsbD j =
        if lsb ≤ j ∧ j < lsb + width then (pat h.ty (arg h f i 1)).getLsbD (j - lsb) else (pat h.ty (arg h f i 0)).getLsbD j))

/-- R124 and R125: cmp and cvti, with the codes that the verifier refuses. -/
def Obligations.CompareAndConvert : Prop :=
  (∀ (h : Hdr) (f : FormA), wellFormed (.cmp h f) = true → f.mode.toNat ≤ 5) ∧
  (∀ (h : Hdr) (f : FormA) (s : State) (i : Issue), gate s h false = .run i → f.mode.toNat ≤ 5 →
    exec (.cmp h f) s = .next (give s i h
      (i.result (if testOf f.mode.toNat (arg h f i 0) (arg h f i 1) then 1 else 0) false))) ∧
  (∀ (h : Hdr) (f : FormA), wellFormed (.cvti h f) = true → h.ar = 1 ∧ f.i = false ∧ f.imm = 0) ∧
  (∀ (h : Hdr) (f : FormA) (s : State) (i : Issue), gate s h false = .run i →
    let a := opNum (Ty.ofCode (f.mode.toNat % 8)) i.l.pay
    exec (.cvti h f) s = .next (give s i h (i.result (resPay h.ty
      (if f.mode.toNat ≥ 8 then max (least h.ty) (min (most h.ty) a) else a)) false)))

/-- R111, R115, R118 and R119: mov, movi, gettag, count and rix, movk bit by bit, sel and null. -/
def Obligations.MoveAndSelectResults : Prop :=
  (∀ (h : Hdr) (s : State) (i : Issue), gate s h false = .run i →
     (∀ f : FormA, exec (.mov h f) s = .next (give s i h
       (i.result (if f.i then immValue h.ty f else resPay h.ty (opNum h.ty i.l.pay)) false))) ∧
     (∀ f : FormA, exec (.movi h f) s = .next (give s i h (i.result (resPay h.ty (opNum h.ty (immWord f))) false))) ∧
     (∀ f : FormC, exec (.gettag h f) s = .next (give s i h (i.result (tagWord i.l.sq i.l.lreg i.l.iter) false))) ∧
     (∀ (f : FormA) (n : Nat), i.fi.num = some n → exec (.count h f) s = .next (give s i h
       (i.result (BitVec.ofNat 64 (if f.i then n % f.imm.toNat else n)) false))) ∧
     (∀ f : FormA, exec (.rix h f) s = .next (give s i h (i.result (BitVec.ofNat 64 i.fi.rep) false))) ∧
     (∀ f : FormA, ∃ p : Word, exec (.movk h f) s = .next (give s i h (i.result p false)) ∧
       (∀ j < h.ty.width, p.getLsbD j =
         if 16 * (f.mode.toNat % 4) ≤ j ∧ j < 16 * (f.mode.toNat % 4) + 16
         then f.imm.getLsbD (j - 16 * (f.mode.toNat % 4)) else i.l.pay.getLsbD j) ∧
       (∀ j < 64, h.ty.width ≤ j → p.getLsbD j = (decide (h.ty.code ≤ 3) && p.getLsbD (h.ty.width - 1))))) ∧
  ((∀ (h : Hdr) (f : FormA) (s : State) (i : Issue), gate s h false false true = .run i →
     let v : Token := if i.l.pay ≠ 0 then i.r else if f.i then { pay := immValue h.ty f } else i.x
     exec (.sel h f) s = .next (
       if i.l.n || v.n then give s i h { i.tok 0 with n := true }
       else give s i h { i.tok (resPay h.ty (opNum h.ty v.pay)) with x := i.l.x || v.x, p := i.l.p || v.p })) ∧
   (∀ (h : Hdr) (f : FormA) (s : State) (i : Issue), gate s h false false true = .run i →
     exec (.null h f) s = .next (give s i h { i.tok 0 with n := true })))

/-- R113 and R116: rd yields the register last committed; wr is recorded for the commit; br and brc choose the next
block. -/
def Obligations.RegistersAndBranches : Prop :=
  (∀ (h : Hdr) (f : FormS) (s : State) (i : Issue) (q : OpState), gate s h false = .run i → s.op? i.f.u i.f.op = some q →
    let r := tabGet q.sregs f.id.toNat
    exec (.rd h f) s = .next (give s i h { i.tok (resPay h.ty (opNum h.ty r.val)) with x := r.x, p := r.p, deps := r.deps })) ∧
  (∀ (h : Hdr) (f : FormS) (s : State) (i : Issue), gate s h false = .run i →
    let r : SReg := { val := resPay h.ty (opNum h.ty i.l.pay), x := i.l.x, p := i.l.p, deps := s.carry i.deps }
    ∃ t, exec (.wr h f) s = .next t ∧ firesAs s t i fun g => { g with wrs := tabSet g.wrs f.id.toNat r }) ∧
  (∀ (h : Hdr) (f : FormA) (s : State) (i : Issue), gate s h false = .run i → wellFormed (.br h f) = true →
    ∃ t, exec (.br h f) s = .next t ∧ firesAs s t i fun g => { g with branch := some f.imm.toNat }) ∧
  (∀ (h : Hdr) (f : FormA) (s : State) (i : Issue), gate s h false false true = .run i →
    (i.l.p = true → exec (.brc h f) s = .next (takePoison s i)) ∧
    (i.l.p = false → ∃ t, exec (.brc h f) s = .next t ∧ firesAs s t i fun g =>
      { g with branch := some (if i.l.pay ≠ 0 ∧ i.l.n = false then f.imm.toNat % 64 else f.imm.toNat / 64 % 64) }))

/-- R117 and R118: tagnew takes the first iteration at or after the cursor that is not live, when fewer than 64 are and
no request waits before it. -/
def Obligations.TagGrantRule : Prop :=
  ∀ (h : Hdr) (f : FormC) (s : State) (i : Issue), gate s h false = .run i →
    let l := f.imm.toNat % 16
    let r := s.region (s.regOf i.f.u)
    let fl := tabGet r.lists l
    r.tagReqs = [] → laneBefore s i = false → fl.live.length < 64 →
    ∃ (n d : Nat) (t : State), n = (fl.cursor + d) % 4096 ∧ d ≤ 64 ∧ n ∉ fl.live ∧
      (∀ e < d, (fl.cursor + e) % 4096 ∈ fl.live) ∧
      (tabGet (t.region (s.regOf i.f.u)).lists l).live = fl.live ++ [n] ∧
      (tabGet (t.region (s.regOf i.f.u)).lists l).cursor = (n + 1) % 4096 ∧
      exec (.tagnew h f) s = .next (give t i h
        { pay := tagWord 0 (BitVec.ofNat 4 l) (BitVec.ofNat 12 n), lreg := BitVec.ofNat 4 l, iter := BitVec.ofNat 12 n })

/-- R61, R112 and R118: tagfree, tagset, in and out. -/
def Obligations.TokenWords : Prop :=
  (∀ (h : Hdr) (f : FormC) (s : State) (i : Issue), gate s h false = .run i →
    ∃ t, exec (.tagfree h f) s = .next t ∧ firesAs s t i fun g =>
      { g with tagfrees := g.tagfrees ++ [(i.l.lreg.toNat, i.l.iter.toNat)] }) ∧
  (∀ (h : Hdr) (f : FormC) (s : State) (i : Issue), gate s h false = .run i →
    let t := i.result (resPay h.ty (opNum h.ty i.l.pay)) false
    (h.ar = 2 → exec (.tagset h f) s = .next (give s i h { t with
      lreg := BitVec.ofNat 4 (i.r.pay.toNat / 4096), iter := BitVec.ofNat 12 i.r.pay.toNat
      sq := BitVec.ofNat 8 (i.r.pay.toNat / 65536) })) ∧
    (h.ar = 1 → f.tagop.toNat ≤ 4 → exec (.tagset h f) s = .next (give s i h (tagOp f.tagop.toNat f.imm.toNat t)))) ∧
  (∀ (h : Hdr) (f : FormC) (s : State) (i : Issue) (k : Token), gate s h false = .run i →
    inToken s i f.ch.toNat = some k → f.tagop.toNat ≤ 4 →
    exec (.inTok h f) s = .next (give s i h
      (tagOp f.tagop.toNat f.imm.toNat { k with pay := resPay h.ty (opNum h.ty k.pay) }))) ∧
  (∀ (h : Hdr) (f : FormC) (s : State) (i : Issue), gate s h false = .run i →
    inToken s i f.ch.toNat = none → exec (.inTok h f) s = .next (give s i h { i.tok 0 with n := true })) ∧
  (∀ (h : Hdr) (f : FormC) (s : State) (i : Issue), gate s h true true = .run i → f.tagop.toNat ≤ 4 →
    exec (.outTok h f) s = .next (complete s i h (.send f.ch.toNat
      (tagOp f.tagop.toNat f.imm.toNat { i.l with pay := resPay h.ty (opNum h.ty i.l.pay), deps := s.carry i.deps }) false))) ∧
  (∀ (k : Token) (m : Nat), tagOp 0 m k = k ∧ tagOp 1 m k = { k with iter := k.iter + 1 } ∧
    tagOp 2 m k = { k with iter := BitVec.ofNat 12 m } ∧ tagOp 3 m k = { k with sq := BitVec.ofNat 8 m } ∧
    tagOp 4 m k = { k with sq := k.sq + 1 })

/-! ### Words: floating point (R126-R138) -/

namespace Sys2Proof.Claims

/-- The formats of the three types that the arithmetic opcodes take, and of all five (R23, R25). -/
def fmt3 (ty : Ty) : Option Fmt := match ty with | .f16 => some .f16 | .bf16 => some .bf16 | .f32 => some .f32 | _ => none
def fmt5 (ty : Ty) : Option Fmt := match ty with | .e4m3 => some .e4m3 | .e5m2 => some .e5m2 | t => fmt3 t

/-- The operand codes in order (R126): the low w bits of each token's payload, then the immediate converted. -/
def codes (h : Hdr) (f : FormA) (i : Issue) : List Nat :=
  (i.ops.map fun t => t.pay.toNat % 2 ^ h.ty.width) ++ (if f.i then [(immValue h.ty f).toNat % 2 ^ h.ty.width] else [])
def code (h : Hdr) (f : FormA) (i : Issue) (k : Nat) : Nat := (codes h f i).getD k 0

/-- What a rounding instruction computes from its operand codes, the mode and the stochastic bits. -/
def roundRow : Instr → Option (Hdr × FormA × (Fmt → RMode → Nat → Nat → Nat → Nat → Nat × Bool))
  | .fadd h f => some (h, f, fun m rm d a b _ => fpAdd m rm d a b)
  | .fsub h f => some (h, f, fun m rm d a b _ => fpSub m rm d a b)
  | .fmul h f => some (h, f, fun m rm d a b _ => fpMul m rm d a b)
  | .fdiv h f => some (h, f, fun m rm d a b _ => fpDiv m rm d a b)
  | .fma h f => some (h, f, fun m rm d a b c => fpFma m rm d a b c)
  | .sqrt h f => some (h, f, fun _ rm d a _ _ => fpSqrt rm d a)
  | .rcp h f => some (h, f, fun _ rm d a _ _ => fpRcp rm d a)
  | .rsq h f => some (h, f, fun _ rm d a _ _ => fpRsq rm d a)
  | .ex2 h f => some (h, f, fun _ rm d a _ _ => fpEx2 rm d a)
  | .lg2 h f => some (h, f, fun _ rm d a _ _ => fpLg2 rm d a)
  | _ => none

/-- The sign, exponent field and fraction field of a code (R25). -/
def signF (m : Fmt) (a : Nat) : Nat := a / 2 ^ (m.ebits + m.fbits) % 2
def expF (m : Fmt) (a : Nat) : Nat := a / 2 ^ m.fbits % 2 ^ m.ebits
def fracF (m : Fmt) (a : Nat) : Nat := a % 2 ^ m.fbits
/-- NaN and infinity by the fields (R26). -/
def nanF (m : Fmt) (a : Nat) : Bool :=
  if m = .e4m3 then decide (expF m a = 15 ∧ fracF m a = 7) else decide (expF m a = 2 ^ m.ebits - 1 ∧ fracF m a ≠ 0)
def infF (m : Fmt) (a : Nat) : Bool :=
  if m = .e4m3 then false else decide (expF m a = 2 ^ m.ebits - 1 ∧ fracF m a = 0)
def zeroF (m : Fmt) (a : Nat) : Bool := decide (expF m a = 0 ∧ fracF m a = 0)
/-- The place of a code that is no NaN in the order of R28: -0 lies just below +0. -/
def rank (m : Fmt) (a : Nat) : Int :=
  if signF m a = 1 then -(a % 2 ^ (m.ebits + m.fbits) : Nat) - 1 else (a % 2 ^ (m.ebits + m.fbits) : Nat)
/-- The code of a signed infinity and of a signed zero. -/
def infCode (m : Fmt) (neg : Nat) : Nat := neg * 2 ^ (m.ebits + m.fbits) + (2 ^ m.ebits - 1) * 2 ^ m.fbits
def zeroCode (m : Fmt) (neg : Nat) : Nat := neg * 2 ^ (m.ebits + m.fbits)

/-- The special cases of R129 for a sum of two codes: the code and X, or none where the sum is rounded. -/
def sumCase (m : Fmt) (rm : RMode) (a b : Nat) : Option (Nat × Bool) :=
  if nanF m a || nanF m b then some (m.nan, false)
  else if infF m a && infF m b then some (if signF m a = signF m b then (a, false) else (m.nan, true))
  else if infF m a then some (a, false)
  else if infF m b then some (b, false)
  else if zeroF m a && zeroF m b && decide (signF m a = signF m b) then some (a, false)
  else if decide (rank m a = -(rank m b) - 1) then some (zeroCode m (if rm = .rd then 1 else 0), false)
  else none
/-- The special cases of R129 for a product. -/
def productCase (m : Fmt) (a b : Nat) : Option (Nat × Bool) :=
  let sgn := (signF m a + signF m b) % 2
  if nanF m a || nanF m b then some (m.nan, false)
  else if (infF m a && zeroF m b) || (zeroF m a && infF m b) then some (m.nan, true)
  else if infF m a || infF m b then some (infCode m sgn, false)
  else if zeroF m a || zeroF m b then some (zeroCode m sgn, false)
  else none
/-- The special cases of R129 for a quotient. -/
def quotientCase (m : Fmt) (a b : Nat) : Option (Nat × Bool) :=
  let sgn := (signF m a + signF m b) % 2
  if nanF m a || nanF m b then some (m.nan, false)
  else if (zeroF m a && zeroF m b) || (infF m a && infF m b) then some (m.nan, true)
  else if infF m a then some (infCode m sgn, false)
  else if infF m b then some (zeroCode m sgn, false)
  else if zeroF m a then some (zeroCode m sgn, false)
  else if zeroF m b then some (infCode m sgn, true)
  else none

/-- The integer n of R136 for the value (-1)^neg × m × 2^e in the four modes other than SR. -/
def roundedInt (rm : RMode) (neg : Bool) (m : Nat) (e : Int) : Int :=
  let v : Int := if neg then -(m : Int) else m
  if 0 ≤ e then v * 2 ^ e.toNat
  else
    let d : Int := 2 ^ (-e).toNat
    let q := v / d
    let r := v % d
    match rm with
    | .rd => q
    | .ru => if r = 0 then q else q + 1
    | .rz => if r = 0 ∨ neg = false then q else q + 1
    | _ => if 2 * r < d then q else if 2 * r > d then q + 1 else q + q % 2

end Sys2Proof.Claims

/-- R128 and R134: a rounding instruction yields the correctly rounded code of its operands with the X of R40 OR its
operands' X; and the special cases of R129 for sum, difference, product and quotient. -/
def Obligations.FloatArithmetic : Prop :=
  (∀ (w : Instr) (h : Hdr) (f : FormA) (v : Fmt → RMode → Nat → Nat → Nat → Nat → Nat × Bool) (m : Fmt) (s : State) (i : Issue),
    roundRow w = some (h, f, v) → fmt3 h.ty = some m → gate s h false = .run i →
    let r := v m (rmodeOf (f.mode.toNat % 8)) (fireDraw s i 0) (code h f i 0) (code h f i 1) (code h f i 2)
    exec w s = .next (give s i h (i.result (BitVec.ofNat 64 r.1) r.2))) ∧
  (∀ (h : Hdr) (f : FormA) (m : Fmt) (s : State) (i : Issue) (r : Nat × Bool), fmt3 h.ty = some m → gate s h false = .run i →
    let a := code h f i 0
    let b := code h f i 1
    let yields := fun (w : Instr) => exec w s = .next (give s i h (i.result (BitVec.ofNat 64 r.1) r.2))
    (sumCase m (rmodeOf (f.mode.toNat % 8)) a b = some r → yields (.fadd h f)) ∧
    (sumCase m (rmodeOf (f.mode.toNat % 8)) a (b ^^^ 2 ^ (m.ebits + m.fbits)) = some r → yields (.fsub h f)) ∧
    (productCase m a b = some r → yields (.fmul h f)) ∧
    (quotientCase m a b = some r → yields (.fdiv h f)))

/-- R131 to R133, R42 and R59: fmin, fmax, fabs, fneg, fcmp and fclass by the fields of their operands. -/
def Obligations.FloatSignsAndTests : Prop :=
  (∀ (h : Hdr) (f : FormA) (m : Fmt) (s : State) (i : Issue), fmt5 h.ty = some m → gate s h false = .run i →
     let a := code h f i 0
     let b := code h f i 1
     let prefers := decide (f.mode.toNat ≥ 8)
     let pick := fun (first : Bool) =>
       if nanF m a && nanF m b then m.nan
       else if nanF m a then (if prefers then b else m.nan)
       else if nanF m b then (if prefers then a else m.nan)
       else if first then a else b
     exec (.fmax h f) s = .next (give s i h (i.result (BitVec.ofNat 64 (pick (decide (rank m a ≥ rank m b)))) false)) ∧
     exec (.fmin h f) s = .next (give s i h (i.result (BitVec.ofNat 64 (pick (decide (rank m a ≤ rank m b)))) false)) ∧
     exec (.fabs h f) s = .next (give s i h (i.result (BitVec.ofNat 64
       (if nanF m a then m.nan else a % 2 ^ (m.ebits + m.fbits))) false)) ∧
     exec (.fneg h f) s = .next (give s i h (i.result (BitVec.ofNat 64
       (if nanF m a then m.nan else a ^^^ 2 ^ (m.ebits + m.fbits))) false))) ∧
  (∀ (h : Hdr) (f : FormA) (m : Fmt) (s : State) (i : Issue), fmt5 h.ty = some m → gate s h false = .run i →
     let a := code h f i 0
     let b := code h f i 1
     let un := nanF m a || nanF m b
     (f.mode.toNat ≤ 7 → exec (.fcmp h f) s = .next (give s i h (i.result
       (if (match f.mode.toNat with
           | 1 => un || testOf 1 (rank m a) (rank m b)
           | 6 => un
           | 7 => !un
           | c => !un && testOf c (rank m a) (rank m b)) then 1 else 0) false))) ∧
     exec (.fclass h f) s = .next (give s i h (i.result (BitVec.ofNat 64 (2 ^
       (if nanF m a then 8
        else if infF m a then (if signF m a = 1 then 0 else 7)
        else if zeroF m a then (if signF m a = 1 then 3 else 4)
        else if expF m a = 0 then (if signF m a = 1 then 2 else 5)
        else (if signF m a = 1 then 1 else 6)))) false)))

/-- R130, R135 to R137: the conversions and fscale; a conversion from a type to itself changes no value (R36); cvtfi rounds
as R136 says. -/
def Obligations.FloatConversions : Prop :=
  (∀ (h : Hdr) (f : FormA) (src m : Fmt) (s : State) (i : Issue),
    fmt5 (Ty.ofCode (f.imm.toNat % 16)) = some src → fmt5 h.ty = some m → gate s h false = .run i →
    let a := i.l.pay.toNat % 2 ^ src.width
    let r := encodeNum m (rmodeOf (f.mode.toNat % 8)) (decide (f.mode.toNat ≥ 8)) (fireDraw s i 0) (src.decode a)
    exec (.cvtf h f) s = .next (give s i h (i.result (BitVec.ofNat 64 r.1) r.2)) ∧
    (src = m → nanF m a = false → (infF m a && decide (f.mode.toNat ≥ 8)) = false →
      exec (.cvtf h f) s = .next (give s i h (i.result (BitVec.ofNat 64 a) false))) ∧
    (nanF src a = true → exec (.cvtf h f) s = .next (give s i h (i.result (BitVec.ofNat 64 m.nan) false)))) ∧
  (∀ (h : Hdr) (f : FormA) (src : Fmt) (s : State) (i : Issue),
    fmt5 (Ty.ofCode (f.imm.toNat % 16)) = some src → gate s h false = .run i →
    let a := i.l.pay.toNat % 2 ^ src.width
    let sat := decide (f.mode.toNat ≥ 8)
    let rm := rmodeOf (f.mode.toNat % 8)
    let yields := fun (v : Int) (x : Bool) => exec (.cvtfi h f) s = .next (give s i h (i.result (resPay h.ty v) x))
    (nanF src a = true → yields 0 false) ∧
    (infF src a = true → yields (if sat then (if signF src a = 1 then least h.ty else most h.ty) else 0) true) ∧
    (zeroF src a = true → yields 0 false) ∧
    (∀ neg c e, src.decode a = .fin neg c e → rm ≠ .sr →
      let n := roundedInt rm neg c e
      if least h.ty ≤ n ∧ n ≤ most h.ty then yields n false
      else yields (if sat then max (least h.ty) (min (most h.ty) n) else n) true) ∧
    (∀ neg c e, src.decode a = .fin neg c e → rm = .sr →
      ∃ n, (n = roundedInt .rd neg c e ∨ n = roundedInt .ru neg c e) ∧
        if least h.ty ≤ n ∧ n ≤ most h.ty then yields n false
        else yields (if sat then max (least h.ty) (min (most h.ty) n) else n) true)) ∧
  (∀ (h : Hdr) (f : FormA) (m : Fmt) (s : State) (i : Issue), fmt5 h.ty = some m → gate s h false = .run i →
    let v := opNum (Ty.ofCode (f.imm.toNat % 16)) i.l.pay
    let r := encodeNum m (rmodeOf (f.mode.toNat % 8)) (decide (f.mode.toNat ≥ 8)) (fireDraw s i 0)
      (if v = 0 then .zero false else .fin (decide (v < 0)) v.natAbs 0)
    exec (.cvtif h f) s = .next (give s i h (i.result (BitVec.ofNat 64 r.1) r.2))) ∧
  (∀ (h : Hdr) (f : FormA) (m : Fmt) (s : State) (i : Issue), fmt3 h.ty = some m → gate s h false = .run i →
    let n : Int := Int.bmod (i.r.pay.toNat % 2 ^ 32 : Nat) (2 ^ 32)
    let r := encodeNum m (rmodeOf (f.mode.toNat % 8)) false (fireDraw s i 0)
      (match m.decode (i.l.pay.toNat % 2 ^ m.width) with | .fin g c e => .fin g c (e + n) | v => v)
    exec (.fscale h f) s = .next (give s i h (i.result (BitVec.ofNat 64 r.1) r.2)))

/-! ### Memory words and the events that perform them (R144-R166) -/

namespace Sys2Proof.Claims

/-- base + index × size + OFF18 modulo 2^64 (R155): the base and the index where the form has them. -/
def addrOf (h : Hdr) (f : FormM) (base idx : Word) : Word := base + idx * BitVec.ofNat 64 (h.ty.width / 8) + f.off.signExtend 64

/-- The address of ld and of st by their operand counts (R155). -/
def ldAt (h : Hdr) (f : FormM) (i : Issue) : Word :=
  match h.ar.toNat with
  | 0 => addrOf h f 0 0
  | 1 => addrOf h f i.l.pay 0
  | _ => addrOf h f i.l.pay i.r.pay
def stAt (h : Hdr) (f : FormM) (i : Issue) : Word :=
  match h.ar.toNat with
  | 0 | 1 => addrOf h f 0 0
  | 2 => addrOf h f i.l.pay 0
  | _ => addrOf h f i.l.pay i.r.pay
/-- The data operand of st by its operand count (R155). -/
def stToken (h : Hdr) (i : Issue) : Token :=
  match h.ar.toNat with
  | 0 | 1 => i.l
  | 2 => i.r
  | _ => i.x

/-- Nothing stands between a system core and a place: it is outside the register space (R14). -/
def reachable (u : Nat) (loc : Loc) : Prop := isCore u = true → ∀ pa, loc = .mem pa → inRegSpace pa = false

/-- n bytes of plain memory: no register space, no view, no armed injection. -/
def plainAt (s : State) (pa n : Nat) : Prop :=
  0 < n ∧ inRegSpace pa = false ∧ einjHits s pa n = false ∧ ∀ k < n, winOf s (pa + k) = none

/-- The new word and the exception of an atomic operation (R161). -/
def atomicSpec (ty : Ty) (sub m v : Nat) : Nat × Bool :=
  match sub with
  | 0 => if ty = .f32 then fpAdd .f32 .rne 0 m v else ((m + v) % 2 ^ ty.width, false)
  | 1 => if ty = .f32 then (fpMinMax .f32 false false m v, false)
    else (if opNum ty (BitVec.ofNat 64 m) ≤ opNum ty (BitVec.ofNat 64 v) then m else v, false)
  | 2 => if ty = .f32 then (fpMinMax .f32 true false m v, false)
    else (if opNum ty (BitVec.ofNat 64 m) ≥ opNum ty (BitVec.ofNat 64 v) then m else v, false)
  | 3 => (m &&& v, false)
  | 4 => (m ||| v, false)
  | 5 => (m ^^^ v, false)
  | _ => (v, false)

/-- The conditions under which an atomic performs at issue on the bytes bs of its place (R157, R161, R162). -/
def atomicGoes (s : State) (h : Hdr) (f : FormM) (i : Issue) (align n : Nat) (loc : Loc) (cls place : Nat) (bs : List Byte)
    (t : State) : Prop :=
  gate s h true = .run i ∧ inMirror s i.f.u = false ∧ mustWait s i = false ∧ waitsInv s i = false ∧
  (∃ pol, unitAddr s i.f.u f.as.toNat (addrOf h f i.l.pay 0) align kAtomic = .ok loc cls pol ∧
    place = atomicPlace i.f.u loc f.scope.toNat pol) ∧
  reachable i.f.u loc ∧ heldAt s i.f loc [place] = false ∧
  ∃ ids, fireRead s i.f i.fi i.deps true loc n = (bs, false, ids, t)

/-- The bytes that a load at a plain place may read (R252, R254): those there now, or those there before a store of the last
4,096 cycles that nothing the load depends on follows. -/
def mayRead (s : State) (floor pa n : Nat) (bs : List Byte) : Prop :=
  bs = memBytes s.mem pa n ∨
  ∃ r ∈ s.hist, floor < r.pos ∧ s.clk < r.at_ + 4096 ∧ bs = pastBytes s (r.pos - 1) pa (memBytes s.mem pa n)

/-- An address outside the undo entries in use (R340). -/
def offUndo (s : State) (a : Nat) : Prop :=
  ∀ d < 8, ∀ e ∈ (s.die d).undo, a < undoBase s d + 80 * e.slot ∨ undoBase s d + 80 * e.slot + 80 ≤ a

/-- An address outside the slots that the next n undo entries of a log may take. -/
def offNextUndo (s : State) (n a : Nat) : Prop :=
  ∀ d < 8, a < undoBase s d ∨ undoBase s d + 80 * ((s.die d).undo.length + n) ≤ a

end Sys2Proof.Claims

/-- R155 to R157, R160, R252 and R254: ld yields the little-endian bytes of its place, extended under R24, with P of a poisoned
line; where stores of the last 4,096 cycles wrote there, it may read what they replaced (the model's reading of the lease, log 86); an own staged store that an edge orders
before it is read instead; ldl of one node and of none. -/
def Obligations.LoadResults : Prop :=
  (∀ (h : Hdr) (f : FormM) (s : State) (i : Issue) (loc : Loc) (cls pol : Nat),
    gate s h false = .run i → mustWait s i = false → waitsInv s i = false → h.ar.toNat ≤ 2 →
    h.ty.width / 8 ≠ 0 → unitAddr s i.f.u f.as.toNat (ldAt h f i) (h.ty.width / 8) kLoad = .ok loc cls pol →
    reachable i.f.u loc → s.holds = [] →
    let n := h.ty.width / 8
    let yields := fun (bs : List Byte) (bad : Bool) =>
      exec (.ld h f) s = .next (give s i h { i.result (resPay h.ty (natOfBytes bs)) false with p := i.ps || bad })
    (∀ pa, loc = .mem pa → plainAt s pa n → i.fi.staged = [] → (s.unit i.f.u).l1bad = [] →
      (s.hist = [] → yields (memBytes s.mem pa n) ((List.range n).any fun k => s.poison.contains ((pa + k) / 64 * 64))) ∧
      (s.hist ≠ [] → (∀ r ∈ s.hist, r.pos ≤ s.mpos) → ∃ t bs k, mayRead s (readFloor s (s.regOf i.f.u) i.deps) pa n bs ∧ t.mem = s.mem ∧ t.units = s.units ∧
        exec (.ld h f) s = .next (give t i h { i.result (resPay h.ty (natOfBytes bs)) false with
          p := i.ps || (List.range n).any (fun k => s.poison.contains ((pa + k) / 64 * 64)), deps := [k] }))) ∧
    (∀ u a, loc = .scratch u a → (s.unit u).bad = [] → i.fi.staged = [] → yields (memBytes (s.unit u).scratch a n) false) ∧
    (∀ u a (bs : List Byte) (c k q : Nat) (d : List Nat) (sl tg sq : Nat), loc = .scratch u a → (s.unit u).bad = [] → bs.length = n →
      i.fi.staged = [{ id := k, slot := sl, deps := d, tag := tg, sq := sq, eff := .store loc bs q c }] → k ∈ i.deps → yields bs false)) ∧
  (∀ (h : Hdr) (f : FormM) (s : State) (i : Issue) (pa cls pol : Nat),
    gate s h false = .run i → mustWait s i = false → waitsInv s i = false →
    unitAddr s i.f.u f.as.toNat i.l.pay 64 kLoad = .ok (.mem pa) cls pol → reachable i.f.u (.mem pa) → s.holds = [] →
    let emit : Token := { pay := resPay h.ty (natOfBytes (memBytes s.mem (pa + f.off.toNat) (h.ty.width / 8)))
                          lreg := i.l.lreg, iter := i.l.iter, sq := 0, deps := s.carry i.deps }
    (h.ar = 2 → i.r.pay = 0 → exec (.ldl h f) s = .next (give s i h { i.tok i.l.pay with sq := 0, x := i.xs, p := i.ps })) ∧
    ((h.ar = 1 ∨ i.r.pay ≠ 0) → plainAt s pa 64 → s.hist = [] → i.fi.staged = [] → pa % 64 = 0 → s.poison.contains pa = false →
      f.off.toNat + h.ty.width / 8 ≤ 64 → natOfBytes (memBytes s.mem pa 8) = 0 →
      exec (.ldl h f) s = .next (give (stage s i (.send f.sub.toNat emit true)).2 i h { i.tok 0 with sq := 0, x := i.xs, p := false })))

/-- R156, R157 and R165: st is staged with the low bytes of its data operand; ojoin yields one completion token with every
obligation of its operands. -/
def Obligations.StoreAndJoin : Prop :=
  (∀ (h : Hdr) (f : FormM) (s : State) (i : Issue) (loc : Loc) (cls pol : Nat),
    gate s h true = .run i → inMirror s i.f.u = false → waitsInv s i = false → h.ar.toNat ≤ 3 →
    unitAddr s i.f.u f.as.toNat (stAt h f i) (h.ty.width / 8) kWrite = .ok loc cls pol → reachable i.f.u loc →
    exec (.st h f) s = .next (complete s i h
      (.store loc (bytesOf (h.ty.width / 8) (stToken h i).pay.toNat) f.scope.toNat cls))) ∧
  (∀ (h : Hdr) (f : FormM) (s : State) (i : Issue), gate s h true = .run i →
    exec (.ojoin h f) s = .next (give s i h (i.tok 0)) ∧
    ∀ t ∈ i.ops, ∀ d ∈ t.deps, d ∈ i.deps)

/-- R161 to R163: amo, cas and oamo yield the old word, hold their line with the new bytes until the commit, and change no
memory before it. -/
def Obligations.AtomicResults : Prop :=
  (∀ (h : Hdr) (f : FormM) (s t : State) (i : Issue) (loc : Loc) (cls place : Nat) (bs : List Byte),
    tyAmo h.ty f.sub = true → f.sub.toNat ≤ 6 → atomicGoes s h f i (h.ty.width / 8) (h.ty.width / 8) loc cls place bs t →
    bs.length = h.ty.width / 8 →
    let r := atomicSpec h.ty f.sub.toNat (natOfBytes bs) (i.r.pay.toNat % 2 ^ h.ty.width)
    exec (.amo h f) s = .next (holdLine t i h loc place cls [(loc.inLine, bytesOf (h.ty.width / 8) r.1)]
      { i.tok (resPay h.ty (natOfBytes bs)) with x := i.r.x || i.x.x || r.2 })) ∧
  (∀ (h : Hdr) (f : FormM) (s t : State) (i : Issue) (loc : Loc) (cls place : Nat) (bs : List Byte),
    atomicGoes s h f i (h.ty.width / 8) (h.ty.width / 8) loc cls place bs t →
    exec (.cas h f) s = .next (holdLine t i h loc place cls
      (if bs = bytesOf (h.ty.width / 8) i.r.pay.toNat then [(loc.inLine, bytesOf (h.ty.width / 8) i.x.pay.toNat)] else [])
      { i.tok (resPay h.ty (natOfBytes bs)) with x := i.r.x || i.x.x })) ∧
  (∀ (h : Hdr) (f : FormM) (s t : State) (i : Issue) (loc : Loc) (cls place : Nat) (bs : List Byte),
    tyAmo h.ty f.sub = true → f.sub.toNat ≤ 6 → atomicGoes s h f i 16 16 loc cls place bs t →
    bs.length = 16 → t.oaWaits = [] →
    let due := natOfBytes (bs.drop 8)
    let m := natOfBytes (bs.take (h.ty.width / 8))
    let r := atomicSpec h.ty f.sub.toNat m (i.r.pay.toNat % 2 ^ h.ty.width)
    (i.x.pay.toNat = due → exec (.oamo h f) s = .next (holdLine t i h loc place cls
      [(loc.inLine, bytesOf (h.ty.width / 8) r.1), (loc.inLine + 8, bytesOf 8 (due + 1))]
      { i.tok (resPay h.ty m) with x := i.r.x || i.x.x || r.2 })) ∧
    (i.x.pay.toNat < due → exec (.oamo h f) s = .next (give t i h { i.tok 0 with n := true })) ∧
    (due < i.x.pay.toNat → exec (.oamo h f) s = .next { t with
      oaWaits := [{ f := i.f, slot := i.slot, loc := loc, place := oaPlace loc place, seq := i.x.pay.toNat }] })) ∧
  (∀ (s : State) (i : Issue) (h : Hdr) (loc : Loc) (place cls : Nat) (ws : List (Nat × List Byte)) (k : Token),
    (holdLine s i h loc place cls ws k).holds =
      s.holds ++ [{ id := s.nextId, f := i.f, since := s.clk, loc := loc, place := place, cls := cls, writes := ws }] ∧
    (holdLine s i h loc place cls ws k).mem = s.mem)

/-- R164 and R166: pref, cwb, cinv, falloc and ffree. -/
def Obligations.LinesAndFrames : Prop :=
  (∀ (h : Hdr) (f : FormM) (s : State) (i : Issue), gate s h true = .run i → mustWait s i = false →
    (f.scope.toNat < 3 → exec (.pref h f) s = .next (give s i h (i.tok 0))) ∧
    ∃ t, exec (.pref h f) s = .next (give t i h (i.tok 0)) ∧ t.units = s.units ∧ t.dirty = s.dirty ∧ t.pend = s.pend) ∧
  (∀ (h : Hdr) (f : FormM) (s : State) (i : Issue), gate s h true = .run i → (addrOf h f i.l.pay 0).toNat < 2 ^ 56 →
    (addrOf h f i.l.pay 0).toNat % 8 ≠ 0 → ∀ w ∈ [Instr.cwb h f, .cinv h f], exec w s = .next (takeBlock s i 0x23 (addrOf h f i.l.pay 0))) ∧
  (∀ (h : Hdr) (f : FormM) (s : State) (i : Issue) (ls : List Nat), gate s h true = .run i → (addrOf h f i.l.pay 0).toNat % 8 = 0 →
    (linesFrom s i.f.u kWrite (f.sub.toNat + 1) ((addrOf h f i.l.pay 0).toNat / 64 * 64) = .ok ls →
      exec (.cwb h f) s = .next (complete s i h (.cwb ls f.scope.toNat))) ∧
    (linesFrom s i.f.u kLoad (f.sub.toNat + 1) ((addrOf h f i.l.pay 0).toNat / 64 * 64) = .ok ls →
      exec (.cinv h f) s = .next (complete s i h (.cinv ls f.scope.toNat)))) ∧
  (∀ (h : Hdr) (f : FormM) (s : State) (i : Issue), gate s h true = .run i → mustWait s i = false →
    let p := (s.unit (memUnit i.f.u)).plane
    let b := ((if h.ar = 0 then f.off.toNat else i.l.pay.toNat) + 63) / 64 * 64
    (p.limit < p.top + b → exec (.falloc h f) s = .next (give s i h (i.result (BitVec.allOnes 64) false))) ∧
    (p.top + b ≤ p.limit → ∃ t, exec (.falloc h f) s = .next (give t i h (i.result (BitVec.ofNat 64 (p.top - p.base)) false)) ∧
      (t.unit (memUnit i.f.u)).plane.top = p.top + b ∧ t.mem = s.mem)) ∧
  (∀ (h : Hdr) (f : FormM) (s : State) (i : Issue), gate s h true = .run i →
    let p := (s.unit (memUnit i.f.u)).plane
    let l := i.l.pay.toNat
    (l = 0 ∨ (p.frame ≤ l ∧ l ≤ p.top - p.base) → exec (.ffree h f) s = .next (complete s i h (.ffree l))) ∧
    (l ≠ 0 → (l < p.frame ∨ p.top - p.base < l) → exec (.ffree h f) s = .next (takeBlock s i fPERM i.l.pay)))

/-- R157, R162 and R166: a released store, atomic, cwb, cinv or ffree performs once all it depends on has: the bytes stored
read as the store's, every other byte as before. -/
def Obligations.ReleasedMemoryPerforms : Prop :=
  ∀ (s : State) (k : Nat) (p : Pend), (s.pend.find? fun q => q.id == k) = some p → s.live p.deps = [] → storeBehind s p = false →
    (∀ pa bs sc cls, p.eff = .store (.mem pa) bs sc cls → (cls ≠ 2 ∨ p.own.iv = 0) → inRegSpace pa = false →
      storeHeld s p (.mem pa) = false →
      ∃ t, exec (.memoryOpPerform k) s = .next t ∧ t.pend = s.pend.filter (fun q => q.id ≠ k) ∧ k ∉ t.outstanding ∧
        ∀ a, (cls ≠ 0 ∨ p.own.iv = 0 ∨ offNextUndo s bs.length a) →
          memGet t.mem a = if pa ≤ a ∧ a < pa + bs.length then bs.getD (a - pa) 0 else memGet s.mem a) ∧
    (∀ u x bs sc cls, p.eff = .store (.scratch u x) bs sc cls → storeHeld s p (.scratch u x) = false →
      ∃ t, exec (.memoryOpPerform k) s = .next t ∧ t.mem = s.mem ∧ k ∉ t.outstanding ∧
        ∀ a, memGet (t.unit u).scratch a = if x ≤ a ∧ a < x + bs.length then bs.getD (a - x) 0 else memGet (s.unit u).scratch a) ∧
    (∀ n g pa w bs, p.eff = .hold n → (s.holds.find? fun q => q.id == n) = some g → g.loc = .mem pa → g.writes = [(w, bs)] →
      (g.cls ≠ 2 ∨ p.own.iv = 0) → (∀ q ∈ s.holds, q.f = g.f → locLine q.loc = locLine g.loc → n ≤ q.id) →
      ∃ t, exec (.memoryOpPerform k) s = .next t ∧ t.holds = s.holds.filter (fun q => q.id ≠ n) ∧
        ∀ a, (g.cls ≠ 0 ∨ p.own.iv = 0 ∨ offNextUndo s bs.length a) → memGet t.mem a = if pa / 64 * 64 + w ≤ a ∧ a < pa / 64 * 64 + w + bs.length then bs.getD (a - (pa / 64 * 64 + w)) 0
          else memGet s.mem a) ∧
    (∀ ls sc, p.eff = .cinv ls sc → linesHeld s p ls = false → 3 ≤ sc →
      ∃ t, exec (.memoryOpPerform k) s = .next t ∧ t.mem = s.mem ∧ (∀ l ∈ ls, tabGet? t.views l = none ∧ l ∉ t.dirty)) ∧
    (∀ ls sc, p.eff = .cwb ls sc → linesHeld s p ls = false → 5 ≤ sc →
      ∃ t, exec (.memoryOpPerform k) s = .next t ∧ t.mem = s.mem ∧ (∀ l ∈ ls, l ∉ t.dirty)) ∧
    (∀ off, p.eff = .ffree off → off ≠ 0 →
      ∃ t, exec (.memoryOpPerform k) s = .next t ∧
        (t.unit (memUnit (agentUnit p.who))).plane.top = (t.unit (memUnit (agentUnit p.who))).plane.base + off)

/-- R117, R144, R162, R163 and R259: an evicted line is clean; a hold of 4,096 cycles is revoked; a buffered atomic is
presented again; a waiting tagnew is granted; a host write reads back. -/
def Obligations.MemoryEvents : Prop :=
  (∀ (s : State) (line : Nat), exec (.mscEvict line) s = .next { s with dirty := s.dirty.filter (· ≠ line / 64 * 64) }) ∧
  (∀ (s : State) (k : Nat) (g : Hold) (q : Firing), (s.holds.find? fun x => x.id == k) = some g → s.firing? g.f = some q →
    q.st = .running → (∃ t ∈ q.staged, t.eff = .hold k) →
    (g.since + 4096 ≤ s.clk → exec (.atomicHoldRevoke k) s = .next (abortFiring s g.f .clear)) ∧
    (s.clk < g.since + 4096 → exec (.atomicHoldRevoke k) s = .next s)) ∧
  (∀ (s t : State) (f : FireRef) (slot : Nat) (w : Word) (h : Hdr) (m : FormM) (i : Issue) (loc : Loc) (cls place : Nat)
    (bs : List Byte), fetchWord s f slot = some w → decode w = .instr (.oamo h m) →
    atomicGoes { s with focus := f, focusSlot := slot } h m i 16 16 loc cls place bs t → i.x.pay.toNat = natOfBytes (bs.drop 8) →
    let r := atomicOp h.ty m.sub.toNat (natOfBytes (bs.take (h.ty.width / 8))) (i.r.pay.toNat % 2 ^ h.ty.width)
    exec (.oamoRetry f slot) s = .next (holdLine (oaDrop t i.f i.slot) i h loc place cls
      [(loc.inLine, bytesOf (h.ty.width / 8) r.1), (loc.inLine + 8, bytesOf 8 (natOfBytes (bs.drop 8) + 1))]
      (atomicTok i h.ty (bs.take (h.ty.width / 8)) r.2))) ∧
  (∀ (s : State) (ctx reg l : Nat) (a : List TagReq) (q : TagReq) (b : List TagReq),
    let r := s.region (regKey ctx reg)
    r.stopped = false → (tabGet r.lists l).live.length < 64 → r.tagReqs = a ++ q :: b → q.lreg = l → q.grant = none →
    (∀ x ∈ a, x.lreg ≠ l ∨ x.grant ≠ none) →
    ∃ t n, exec (.tagGrant ctx reg l) s = .next t ∧ n ∉ (tabGet r.lists l).live ∧
      (t.region (regKey ctx reg)).tagReqs = a ++ { q with grant := some n } :: b ∧
      (tabGet (t.region (regKey ctx reg)).lists l).live = (tabGet r.lists l).live ++ [n]) ∧
  (∀ (s : State) (fn addr n : Nat) (bs : List Byte), fn < 32 → memoryRange addr bs.length = true → bs ≠ [] → s.holds = [] →
    (∀ c ∈ vCuts (bs.length / 64 + 2) addr bs.length, winOf s c.1 = none) →
    ∃ t, exec (.hostMemoryAccess fn addr n true bs) s = .next t ∧
      ∀ a, offUndo s a → memGet t.mem a = if addr ≤ a ∧ a < addr + bs.length then bs.getD (a - addr) 0 else memGet s.mem a)

/-! ### Tile words of the matrix nodes (R193-R219) -/

namespace Sys2Proof.Claims

/-- A tile instruction has its operands, everything they depend on has performed, and no register or accumulator it names
is busy (R201, R202). -/
def tileGoes (s : State) (h : Hdr) (i : Issue) (side : Bool) (regs accs : List Nat) : Prop :=
  gate s h side = .run i ∧ s.live i.deps = [] ∧ (∀ n ∈ regs, tileBusy (nodeOf s i) n = false) ∧
  (∀ n ∈ accs, accBusy (nodeOf s i) n = false)

/-- The registers that mma and mmasp read (R197, R214): those the handles name, or the fields. -/
def stepA (h : Hdr) (f : FormT) (i : Issue) : Nat :=
  if h.ar.toNat ≥ 2 ∧ i.l.pay.getLsbD 4 then i.l.pay.toNat % 16 else f.a.toNat
def stepB (h : Hdr) (f : FormT) (i : Issue) : Nat :=
  if h.ar.toNat ≥ 2 ∧ i.r.pay.getLsbD 4 then i.r.pay.toNat % 16 else f.b.toNat

/-- A node may begin a K-step of an accumulator (R201, R207): none is in progress, and leave is held. -/
def stepMay (s : State) (i : Issue) (n : Nat) : Prop :=
  (nodeOf s i).kstep = none ∧
  ((((nodeOf s i).acc n).bind.isSome = true ∧ ((nodeOf s i).acc n).leave = true) ∨
    hasLeave s (unitDie i.f.u) (stepLeave (nodeOf s i) i n) = true)

/-- ROW and COL of an element instruction (R216): of an operand's bits [11:0], or of per-op. -/
def placeOf (f : FormT) (o : Option Token) : Nat × Nat :=
  match o with
  | some t => (t.pay.toNat / 128 % 32, t.pay.toNat % 128)
  | none => (f.per.toNat / 128 % 32, f.per.toNat % 128)

end Sys2Proof.Claims

/-- R211, R213 and R215: tcfg, tzero, tbind and tfree. -/
def Obligations.TileControl : Prop :=
  (∀ (h : Hdr) (f : FormT) (s : State) (i : Issue), tileGoes s h i false [f.a.toNat] [] →
    let v := if h.ar = 1 then i.l.pay.toNat % 2 ^ 20 else f.b.toNat * 65536 + f.per.toNat % 4096
    (tcfgOk v = true → exec (.tcfg h f) s = .next (give
      (s.modNode i.f.u fun n => n.setTile f.a.toNat { n.tile f.a.toNat with
        fmt := v / 65536 % 16, mxk := v / 1024 % 4, rowsM1 := v / 32 % 32, colsM1 := v % 32 }) i h
      (i.result (BitVec.ofNat 64 v) false))) ∧
    (tcfgOk v = false → exec (.tcfg h f) s = .next (give s i h { i.tok 0 with n := true }))) ∧
  (∀ (h : Hdr) (f : FormT) (s : State) (i : Issue),
    (f.per.getLsbD 0 = true → tileGoes s h i false [f.a.toNat] [] → exec (.tzero h f) s = .next (give
      (s.modNode i.f.u fun n => n.setTile f.a.toNat { n.tile f.a.toNat with bytes := [], side := [], p := false }) i h (i.tok 0))) ∧
    (f.per.getLsbD 0 = false → tileGoes s h i false [] [f.acc.toNat] → exec (.tzero h f) s = .next (give
      (s.modNode i.f.u fun n => n.setAcc f.acc.toNat { n.acc f.acc.toNat with
        isInt := f.per.getLsbD 1, els := [], xs := [], p := false }) i h (i.tok 0)))) ∧
  (∀ (h : Hdr) (f : FormT) (s : State) (i : Issue), tileGoes s h i false [] [f.acc.toNat] →
    let tag := if h.ar = 1 then i.l.tag else i.fi.tag
    let binds := fun (s : State) => exec (.tbind h f) s = .next (matchUnit (give
      (s.modNode i.f.u fun n => { n.setAcc f.acc.toNat
        { n.acc f.acc.toNat with bind := some (tag, f.per.toNat % 256, n.age) } with age := n.age + 1 }) i h (i.tok 0)) i.f.u)
    (∀ a ∈ (nodeOf s i).accs, a.1 ≠ f.acc.toNat → a.2.bind.any (fun b => b.1 == tag) = false) → binds s) ∧
  (∀ (h : Hdr) (f : FormT) (s : State) (i : Issue),
    let reg := if h.ar = 1 ∧ i.l.pay.getLsbD 4 then i.l.pay.toNat % 16 else f.a.toNat
    (f.per.getLsbD 0 = false → tileGoes s h i false [reg] [] → exec (.tfree h f) s = .next (matchUnit (give
      (s.modNode i.f.u fun n => if n.statics.contains reg then n else n.setTile reg { n.tile reg with st := .free }) i h (i.tok 0)) i.f.u)) ∧
    (f.per.getLsbD 0 = true → tileGoes s h i false [] [f.acc.toNat] → exec (.tfree h f) s = .next (matchUnit (give
      (endLeave (s.modNode i.f.u fun n => n.setAcc f.acc.toNat { n.acc f.acc.toNat with bind := none, leave := false })
        (unitDie i.f.u) (.kseq i.f.u f.acc.toNat)) i h (i.tok 0)) i.f.u)))

/-- R201, R204 to R207 and R214: mma and mmasp begin a K-step of 12 cycles (24 where a pruned position meets an infinite or
NaN element); at its end the accumulator is written and the completion token is produced. -/
def Obligations.KSteps : Prop :=
  (∀ (h : Hdr) (f : FormT) (s : State) (i : Issue),
    let n := f.acc.toNat
    let node := nodeOf s i
    let a := node.tile (stepA h f i)
    let b := node.tile (stepB h f i)
    let g := if h.ar = 3 then i.x else i.l
    tileGoes s h i false [stepA h f i, stepB h f i] [n] → stepMay s i n →
    exec (.mma h f) s = .next (startStep s i f
      (stepAcc (fmtInt a.fmt && fmtInt b.fmt) f.za f.asc g.pay.toNat i.xs (a.p || b.p || (f.asc && g.p)) (node.acc n) (denseLeaves a b))
      12 (stepA h f i) (stepB h f i))) ∧
  (∀ (h : Hdr) (f : FormT) (s : State) (i : Issue),
    let n := f.acc.toNat
    let node := nodeOf s i
    let a := node.tile (stepA h f i)
    let b := node.tile (stepB h f i)
    let b1 := node.tile ((stepB h f i + 1) % 16)
    let m := node.tile (f.per.toNat / 1024 % 16)
    let g := if h.ar = 3 then i.x else i.l
    tileGoes s h i false [stepA h f i, stepB h f i, (stepB h f i + 1) % 16, f.per.toNat / 1024 % 16] [n] → stepMay s i n →
    exec (.mmasp h f) s = .next (startStep s i f
      (stepAcc (fmtInt a.fmt && fmtInt b.fmt && fmtInt b1.fmt) f.za f.asc g.pay.toNat i.xs (a.p || b.p || b1.p || (f.asc && g.p)) (node.acc n)
        (sparseLeaves a m b b1)) (if slowSparse a m b b1 then 24 else 12) (stepA h f i) (stepB h f i))) ∧
  (∀ (s : State) (die cl : Nat) (k : KStep), (s.node die cl).kstep = some k → k.ends ≤ s.clk →
    ∃ t, exec (.kstepEnd die cl) s = .next t ∧ (t.node die cl).kstep = none ∧
      (t.node die cl).acc k.acc =
        { k.next with bind := ((s.node die cl).acc k.acc).bind, leave := ((s.node die cl).acc k.acc).leave } ∧
      (k.live = true → ∀ h i, hdrAt s k.f k.slot = some h → issueOf { s with focus := k.f, focusSlot := k.slot } h = some i →
        ∃ r, t = give r i h (i.tok 0))) ∧
  (∀ (acc : Acc) (p : Bool) (ls : Nat → Nat → List (Option KLeaf)) (r c : Nat), r < 32 → c < 32 →
    (∀ x ∈ ls r c, x = none) →
    (stepAcc false true false 0 false p acc ls).el (r * 32 + c) = 0 ∧
    (acc.isInt = false → acc.el (r * 32 + c) < 2 ^ 32 →
      (stepAcc false false false 0 false p acc ls).el (r * 32 + c) = acc.el (r * 32 + c)))

/-- R216: tread and twrite of an accumulator and of a tile, and a position outside them. -/
def Obligations.TileElements : Prop :=
  (∀ (h : Hdr) (f : FormT) (s : State) (i : Issue),
    let rc := placeOf f (if h.ar = 1 then some i.l else none)
    let a := (nodeOf s i).tile f.a.toNat
    let c := (nodeOf s i).acc f.acc.toNat
    (f.per.getLsbD 13 = true → tileGoes s h i false [] [f.acc.toNat] →
      (rc.2 < 32 → exec (.tread h f) s = .next (give s i h
        { i.tok (resPay h.ty (c.el (rc.1 * 32 + rc.2))) with x := c.xOf (rc.1 * 32 + rc.2), p := c.p })) ∧
      (32 ≤ rc.2 → exec (.tread h f) s = .next (give s i h { i.tok 0 with n := true }))) ∧
    (f.per.getLsbD 13 = false → tileGoes s h i false [f.a.toNat] [] →
      (f.per.getLsbD 12 = false → rc.1 < a.rows → rc.2 < a.perRow → exec (.tread h f) s = .next (give s i h
        { i.tok (resPay h.ty (a.code rc.1 rc.2)) with x := a.xBit rc.1 rc.2, p := a.p })) ∧
      (f.per.getLsbD 12 = true → rc.1 < a.rows → rc.2 < 8 → exec (.tread h f) s = .next (give s i h
        { i.tok (resPay h.ty (memGet a.side (rc.1 * 8 + rc.2)).toNat) with x := false, p := a.p })) ∧
      (a.rows ≤ rc.1 → exec (.tread h f) s = .next (give s i h { i.tok 0 with n := true })))) ∧
  (∀ (h : Hdr) (f : FormT) (s : State) (i : Issue),
    let rc := placeOf f (if h.ar = 2 then some i.r else none)
    let a := (nodeOf s i).tile f.a.toNat
    (f.per.getLsbD 13 = true → tileGoes s h i false [] [f.acc.toNat] → rc.2 < 32 →
      exec (.twrite h f) s = .next (give (s.modNode i.f.u fun n =>
        let c := n.acc f.acc.toNat
        n.setAcc f.acc.toNat { (c.setEl (rc.1 * 32 + rc.2) i.l.pay.toNat).setXs (rc.1 * 32 + rc.2) i.l.x with p := c.p || i.l.p })
        i h (i.tok 0))) ∧
    (f.per.getLsbD 13 = false → f.per.getLsbD 12 = false → tileGoes s h i false [f.a.toNat] [] → rc.1 < a.rows → rc.2 < a.perRow →
      exec (.twrite h f) s = .next (give (s.modNode i.f.u fun n =>
        let b := n.tile f.a.toNat
        n.setTile f.a.toNat { (b.setCode rc.1 rc.2 i.l.pay.toNat).setX rc.1 rc.2 i.l.x with p := b.p || i.l.p }) i h (i.tok 0))) ∧
    (f.per.getLsbD 13 = false → tileGoes s h i false [f.a.toNat] [] → a.rows ≤ rc.1 →
      exec (.twrite h f) s = .next (give s i h (i.tok 0)))) ∧
  (∀ (c : Acc) (n v m : Nat) (x : Bool), ((c.setEl n v).setXs n x).el m = (if m = n then v % 2 ^ 32 else c.el m) ∧
    ((c.setEl n v).setXs n x).xOf m = (if m = n then x else c.xOf m))

/-- R217 and R218: tscal scales every element of an accumulator; tcvt, whose completion token takes X under MX (log 106), tamax
and ttrans. -/
def Obligations.TileConversions : Prop :=
  (∀ (h : Hdr) (f : FormT) (s : State) (i : Issue), tileGoes s h i false [] [f.acc.toNat] →
    let c := (nodeOf s i).acc f.acc.toNat
    let r := fun (n : Nat) => finish .f32 (rmodeOf (f.per.toNat % 8)) (fireDraw s i n)
      (mulNum (Fmt.decode .f32 (i.l.pay.toNat % 2 ^ 32)) (if c.isInt then numOfInt (c.int n) else Fmt.decode .f32 (c.el n)))
    ∃ c' : Acc, exec (.tscal h f) s = .next (give (s.modNode i.f.u fun n => n.setAcc f.acc.toNat c') i h (i.tok 0)) ∧
      c'.isInt = false ∧ (∀ n < 1024, c'.el n = (r n).1 % 2 ^ 32) ∧
      ∀ n < 1024, c'.xOf n = (c.xOf n || (r n).2 || i.l.x)) ∧
  (∀ (h : Hdr) (f : FormT) (s : State) (i : Issue), tileGoes s h i false [f.a.toNat] [f.acc.toNat] →
    tstWaits s i.f.u f.a.toNat = false →
    ∃ (t : Tile) (x : Bool), exec (.tcvt h f) s =
        .next (give (s.modNode i.f.u fun n => n.setTile f.a.toNat t) i h { i.tok 0 with x := x }) ∧
      (h.ty ≠ .mx → x = false) ∧ t.fmt = h.ty.code ∧ t.rowsM1 = 31 ∧ t.p = ((nodeOf s i).acc f.acc.toNat).p ∧
      t.mxk = (if h.ty = .mx then f.per.toNat / 16 % 4 else 0)) ∧
  (∀ (h : Hdr) (f : FormT) (s : State) (i : Issue),
    let a := (nodeOf s i).tile f.a.toNat
    let c := (nodeOf s i).acc f.acc.toNat
    let cells := (List.range a.rows).flatMap fun r => (List.range a.perRow).map fun k => (r, k)
    (f.per.getLsbD 0 = true → tileGoes s h i false [] [f.acc.toNat] →
      (c.isInt = true → exec (.tamax h f) s = .next (give s i h { i.tok (resPay .i32
        (min (2 ^ 31 - 1) ((List.range 1024).foldl (fun m n => max m ((c.int n).natAbs : Int)) 0))) with
          x := !c.xs.isEmpty, p := c.p })) ∧
      (c.isInt = false → exec (.tamax h f) s = .next (give s i h
        { i.tok (BitVec.ofNat 64 (maxMag ((List.range 1024).map fun n => Fmt.decode .f32 (c.el n))).1) with
          x := !c.xs.isEmpty || (maxMag ((List.range 1024).map fun n => Fmt.decode .f32 (c.el n))).2, p := c.p }))) ∧
    (f.per.getLsbD 0 = false → tileGoes s h i false [f.a.toNat] [] → fmtInt a.fmt = true →
      exec (.tamax h f) s = .next (give s i h { i.tok (resPay .i32
        (min (2 ^ 31 - 1) (cells.foldl (fun m q => max m ((a.int q.1 q.2).natAbs : Int)) 0))) with
          x := cells.any (fun q => a.xBit q.1 q.2), p := a.p })) ∧
    (f.per.getLsbD 0 = false → tileGoes s h i false [f.a.toNat] [] → fmtInt a.fmt = false →
      exec (.tamax h f) s = .next (give s i h { i.tok (BitVec.ofNat 64 (maxMag (cells.map fun q => a.num q.1 q.2)).1) with
        x := cells.any (fun q => a.xBit q.1 q.2) || (maxMag (cells.map fun q => a.num q.1 q.2)).2, p := a.p }))) ∧
  (∀ (h : Hdr) (f : FormT) (s : State) (i : Issue), tileGoes s h i false [f.a.toNat, f.b.toNat] [] →
    let a := (nodeOf s i).tile f.a.toNat
    let cols := a.rows * (a.elBits / 8)
    ((a.fmt = 0xD ∨ a.fmt = 0xE ∨ 32 < a.perRow ∨ cols % 4 ≠ 0) →
      exec (.ttrans h f) s = .next (give s i h { i.tok 0 with n := true })) ∧
    (a.fmt ≠ 0xD → a.fmt ≠ 0xE → a.perRow ≤ 32 → cols % 4 = 0 →
      ∃ t : Tile, exec (.ttrans h f) s = .next (give (s.modNode i.f.u fun n => n.setTile f.b.toNat t) i h (i.tok 0)) ∧
        t.fmt = a.fmt ∧ t.rowsM1 = a.perRow - 1 ∧ t.colsM1 = cols / 4 - 1 ∧ t.p = a.p))

/-- R212 and R219: tld, tst and acon are staged; a misaligned base raises ALIGN. -/
def Obligations.TileTransfers : Prop :=
  (∀ (h : Hdr) (f : FormT) (s : State) (i : Issue), gate s h true = .run i →
    let stride : Int := if h.ar.toNat ≥ 2 then Int.bmod i.r.pay.toNat (2 ^ 64) else ((nodeOf s i).tile f.a.toNat).cols
    let side := if h.ar = 3 then some i.x.pay.toNat else none
    (i.l.pay.toNat % 16 = 0 → stride % 16 = 0 → (h.ar = 3 → i.x.pay.toNat % 8 = 0) →
      exec (.tld h f) s = .next (complete s i h (.tld f.a.toNat i.l.pay.toNat stride side (f.per.toNat % 8))) ∧
      (inMirror s i.f.u = false →
        exec (.tst h f) s = .next (complete s i h (.tst f.a.toNat i.l.pay.toNat stride side (f.per.toNat % 8))))) ∧
    (i.l.pay.toNat % 16 ≠ 0 → exec (.tld h f) s = .next (takeBlock s i fALIGN i.l.pay))) ∧
  (∀ (h : Hdr) (f : FormT) (s : State) (i : Issue), tileGoes s h i true [] [f.acc.toNat] →
    let c := (nodeOf s i).acc f.acc.toNat
    let ty := if c.isInt then Ty.i32 else Ty.f32
    let part := fun (idx gen : Nat) => partialOf s i ty idx gen ((List.range 1024).map fun n => fillTo ty (c.el n)) (!c.xs.isEmpty) c.p
    (h.ar = 0 → exec (.acon h f) s = .next (complete s i h
      (.contrib (f.a.toNat * 16 + f.b.toNat) (part (f.per.toNat % 4096) (f.per.toNat / 4096 % 4))))) ∧
    (h.ar = 1 → exec (.acon h f) s = .next (complete s i h
      (.contrib (i.l.pay.toNat % 512) (part (i.l.pay.toNat / 512 % 4096) (i.l.pay.toNat / 2 ^ 21 % 4))))))

/-! ### Pools (R167-R192) -/

namespace Sys2Proof.Claims

/-- A pool is local, or its home is here (R170, R386). -/
def localPool (p : Pool) : Prop := p.glob = false

/-- k is a released pool operation that reaches the home of pool n now (R173, R182): it waits for nothing, and its operator
has no other on the way to that pool. -/
def poolTurn (s : State) (k : Nat) (p : Pend) (n : Nat) : Prop :=
  (s.pend.find? fun q => q.id == k) = some p ∧ effPool p.eff = some n ∧ p.step = 0 ∧ s.live p.deps = [] ∧
    ∀ q ∈ s.pend, q.who = p.who → q.step = 0 → effPool q.eff = some n → q.id = k

/-- The sum, in index order, of one element of the partials present in a generation. -/
def sumOf (ty : Ty) (p : Pool) (g e : Nat) : Int :=
  ((List.range p.decl.width).map fun i => ((partAt p g i).map fun q => opNum ty (q.data.getD e 0)).getD 0).sum

end Sys2Proof.Claims

/-- R189 to R192: pdecl, pcon, pset, pexp and pdrop leave for the pool's home at commit; the alignment of pdecl's record is the
model's reading (log 101). -/
def Obligations.PoolReleases : Prop :=
  (∀ (h : Hdr) (f : FormS) (s t : State) (i : Issue) (bs : List Byte) (ids : List Nat) (r : PoolRec),
    gate s h true = .run i → mustWait s i = false → i.l.pay.toNat % (h.ty.width / 8) = 0 →
    readRange s i i.l.pay.toNat 32 = .ok bs false ids t → poolRecOf bs = some r →
    (r.ty = h.ty.code → exec (.pdecl h f) s = .next (complete t i h (.pdecl f.id.toNat r))) ∧
    (r.ty ≠ h.ty.code → exec (.pdecl h f) s = .next (poolBlockFault t i 0x34 f.id.toNat 0 0 none))) ∧
  (∀ (h : Hdr) (f : FormS) (s : State) (i : Issue), gate s h true = .run i → mustWait s i = false → i.l.pay.toNat < 2 ^ 56 →
    i.l.pay.toNat % (h.ty.width / 8) ≠ 0 → exec (.pdecl h f) s = .next (takeBlock s i 0x23 i.l.pay)) ∧
  (∀ (h : Hdr) (f : FormS) (s : State) (i : Issue), gate s h true true = .run i → f.imm.getLsbD 14 = false →
    (f.imm.getLsbD 15 = false → exec (.pcon h f) s = .next (complete s i h (.contrib f.id.toNat
      (partialOf s i h.ty (f.imm.toNat % 4096) (f.imm.toNat / 4096 % 4) [atWidth h.ty i.l.pay] i.l.x i.l.p)))) ∧
    (f.imm.getLsbD 15 = true → i.l.p = false → exec (.pcon h f) s = .next (complete s i h (.contrib f.id.toNat
      (partialOf s i h.ty (i.l.pay.toNat % 4096) (i.l.pay.toNat / 4096 % 4) [atWidth h.ty i.r.pay] i.r.x i.r.p)))) ∧
    (f.imm.getLsbD 15 = true → i.l.p = true → exec (.pcon h f) s = .next (takePoison s i))) ∧
  (∀ (h : Hdr) (f : FormS) (s t : State) (i : Issue) (p : Pool) (bs : List Byte) (bad : Bool) (ids : List Nat),
    gate s h true true = .run i → mustWait s i = false → f.imm.getLsbD 14 = true → f.imm.getLsbD 15 = false →
    s.pool? (s.ctxOf i.f.u) f.id.toNat = some p → i.l.pay.toNat % (h.ty.width / 8) = 0 →
    i.l.pay.toNat + p.decl.len * (h.ty.width / 8) ≤ sharedSize s i.f.u →
    fireRead s i.f i.fi i.deps false (.scratch (memUnit i.f.u) i.l.pay.toNat) (p.decl.len * (h.ty.width / 8)) = (bs, bad, ids, t) →
    exec (.pcon h f) s = .next (complete t i h (.contrib f.id.toNat
      (partialOf t i h.ty (f.imm.toNat % 4096) (f.imm.toNat / 4096 % 4) (elemsOf h.ty p.decl.len bs) i.l.x (i.l.p || bad))))) ∧
  (∀ (h : Hdr) (f : FormS) (s : State) (i : Issue), gate s h true = .run i →
    (inMirror s i.f.u = false → exec (.pset h f) s = .next (complete s i h
      (.pset f.id.toNat (f.imm.toNat % 4) (f.imm.getLsbD 3) (f.imm.getLsbD 2)))) ∧
    exec (.pdrop h f) s = .next (complete s i h (.pdrop f.id.toNat))) ∧
  (∀ (h : Hdr) (f : FormS) (s : State) (i : Issue) (p : Pool) (segs : List (Loc × Nat × Nat)),
    gate s h true = .run i → inMirror s i.f.u = false → s.pool? (s.ctxOf i.f.u) f.id.toNat = some p →
    i.l.pay.toNat % poolSize p.decl = 0 →
    segsFrom s i.f.u (vCuts (poolBytes p.decl / 64 + 2) i.l.pay.toNat (poolBytes p.decl)) = .ok segs →
    exec (.pexp h f) s = .next (complete s i h
      (.pexp f.id.toNat (f.imm.toNat % 4) (f.imm.getLsbD 3) (f.imm.getLsbD 2) i.l.pay.toNat segs))) ∧
  (∀ (h : Hdr) (f : FormS) (s : State) (i : Issue), gate s h true = .run i → inMirror s i.f.u = false →
    s.pool? (s.ctxOf i.f.u) f.id.toNat = none → exec (.pexp h f) s = .next (complete s i h
      (.pexp f.id.toNat (f.imm.toNat % 4) (f.imm.getLsbD 3) (f.imm.getLsbD 2) i.l.pay.toNat [])))

/-- R177, R184, R186, R191 and R192: prd, pswap and pstat take the answer of the pool's home when it is there, and the wait goes;
an answer that a pool gave before it was dropped is taken too; a pool that is not declared raises POOL_UNDECL, another type and an element past LEN POOL_TYPE. -/
def Obligations.PoolReads : Prop :=
  ∀ (h : Hdr) (f : FormS) (s : State) (i : Issue), gate s h true = .run i → mustWait s i = false →
    poolBehind s (.oper i.f.u i.f.op) f.id.toNat = false →
    let x := s.ctxOf i.f.u
    let n := f.id.toNat
    let e := if h.ar = 1 then i.l.pay.toNat % 2 ^ 32 else f.imm.toNat / 16
    (∀ (p : Pool) (w : Wait) (v : List Word) (xb : Bool) (deps : List Nat),
      s.poolLeft = [] → s.pool? x n = some p → (p.waits.find? fun w => w.asker == .fire i.f i.slot) = some w → w.res = some (.value v xb deps) →
      let s' := s.setPool x n { p with waits := p.waits.filter fun u => u.id ≠ w.id }
      (p.decl.ty = h.ty.code → e < p.decl.len →
        exec (.prd h f) s = .next (give s' i h { i.tok (v.getD e 0) with x := xb, deps := deps }) ∧
        (inMirror s i.f.u = false →
          exec (.pswap h f) s = .next (give s' i h { i.tok (v.getD e 0) with x := xb, deps := deps }))) ∧
      exec (.pstat h f) s = .next (give s' i h (i.tok (v.getD 0 0)))) ∧
    (∀ (r : PoolRec) (w : Wait) (v : List Word) (xb : Bool) (deps : List Nat), leftWait s x n i = some (r, w) →
      w.res = some (.value v xb deps) → e < r.len →
      exec (.prd h f) s = .next (give { s with poolLeft := s.poolLeft.filter fun u => u.2.2.id ≠ w.id } i h
        { i.tok (v.getD e 0) with x := xb, deps := deps })) ∧
    (s.poolLeft = [] → s.pool? x n = none →
      exec (.prd h f) s = .next (poolBlockFault s i 0x33 n 0 (f.imm.toNat % 4) none) ∧
      exec (.pstat h f) s = .next (poolBlockFault s i 0x33 n 0 (f.imm.toNat % 4) none)) ∧
    (∀ p : Pool, s.poolLeft = [] → s.pool? x n = some p → (p.decl.ty ≠ h.ty.code ∨ p.decl.len ≤ e) →
      exec (.prd h f) s = .next (poolBlockFault s i 0x34 n 0 (f.imm.toNat % 4) none))

/-- R168, R177 and R178: a prd of the open generation of a local pool of operator iadd that waits for no partial yields its
base plus the sum of the partials present, modulo the width, whatever the tree that combined them; the pool is as before. -/
def Obligations.PoolReadYieldsTheSum : Prop :=
  ∀ (h : Hdr) (f : FormS) (s : State) (i : Issue) (p : Pool) (k : Nat), gate s h true = .run i → mustWait s i = false →
    poolBehind s (.oper i.f.u i.f.op) f.id.toNat = false → s.pool? (s.ctxOf i.f.u) f.id.toNat = some p →
    waitsSaved s (s.ctxOf i.f.u) = false → s.poolLeft = [] →
    p.glob = false → p.fmt = 0 → p.waits = [] → p.decl.op = 8 → (h.ty = .i32 ∨ h.ty = .i64) → p.decl.ty = h.ty.code → p.decl.expect = 0 →
    p.decl.width = 2 ^ k → k ≤ 12 → p.base.length = p.decl.len → (∀ q ∈ p.parts, q.data.length = p.decl.len) →
    (∀ b ∈ p.base, resPay h.ty (opNum h.ty b) = b) →
    (∀ g q, partAt p p.gen g = some q → partBad p.decl q = false) → h.ar = 0 → f.imm.toNat / 16 < p.decl.len →
    f.imm.getLsbD 2 = true →
    ∃ (t : State) (x : Bool) (d : List Nat), exec (.prd h f) s = .next (give t i h
        { i.tok (resPay h.ty (opNum h.ty (p.base.getD (f.imm.toNat / 16) 0) + sumOf h.ty p p.gen (f.imm.toNat / 16))) with
          x := x, deps := d }) ∧
      t.pool? (s.ctxOf i.f.u) f.id.toNat = some p ∧ t.units = s.units ∧ t.mem = s.mem

/-- R171, R173, R174, R177, R181 and R186: what reaches a local pool's home with no wait there: a declaration, a
contribution, a settle, a drop; and a wait whose deadline has passed is answered with the set as it is. -/
def Obligations.PoolHomeEvents : Prop :=
  (∀ (s : State) (k n : Nat) (p : Pend) (r : PoolRec), poolTurn s k p n → p.eff = .pdecl n r →
    s.pool? p.own.ctx n = none → wbit (s.ctxReg p.own.ctx 0x24) 0 = false → poolRecOk r = true →
    usedOf s p.own.ctx 0x15 + poolUnits r ≤ wbits (s.ctxReg p.own.ctx 0x15) 31 0 → (backPlace s p.own.ctx (poolUnits r)).isSome = true →
    ∃ t q, exec (.poolContribRegister k) s = .next t ∧ t.pool? p.own.ctx n = some q ∧ q.decl = { r with id := n } ∧ q.gen = 0 ∧
      q.base = poolInit { r with id := n } ∧ q.parts = [] ∧ k ∉ t.outstanding) ∧
  (∀ (s : State) (k n : Nat) (p : Pend) (q : Partial) (o : Pool), poolTurn s k p n → p.eff = .contrib n q →
    s.pool? p.own.ctx n = some o → localPool o → o.waits = [] → o.fmt = 0 → o.decl.chk = 0 →
    q.ty = o.decl.ty → q.idx < o.decl.width → q.data.length = o.decl.len → (s.region p.own.reg).isMirror = false →
    q.gen < 4 → (o.gen % 4 = q.gen → partAt o o.gen q.idx = none →
      ∃ t o' r, exec (.poolContribRegister k) s = .next t ∧ t.pool? p.own.ctx n = some o' ∧
        o'.parts = o.parts ++ [r] ∧ r.idx = q.idx ∧ r.gen = o.gen ∧ r.data = q.data ∧ r.x = q.x ∧ r.p = q.p ∧ r.op = none ∧
        r.who = { q.who with x := q.x, p := q.p, gen := o.gen % 4, csum := 0 } ∧
        o'.base = o.base ∧ o'.gen = o.gen ∧ k ∉ t.outstanding) ∧
    ((o.gen + 1) % 4 = q.gen → partAt o (o.gen + 1) q.idx = none →
      ∃ t o' r, exec (.poolContribRegister k) s = .next t ∧ t.pool? p.own.ctx n = some o' ∧
        o'.parts = o.parts ++ [r] ∧ r.idx = q.idx ∧ r.gen = o.gen + 1 ∧ r.data = q.data ∧ r.op = some k ∧ o'.gen = o.gen ∧
        t.outstanding = s.outstanding ∧ k ∉ t.pend.map (·.id)) ∧
    ((q.gen + 1) % 4 = o.gen % 4 →
      ∃ t o', exec (.poolContribRegister k) s = .next t ∧ t.pool? p.own.ctx n = some o' ∧
        o'.parts = o.parts ∧ o'.late = min 255 (o.late + 1) ∧ k ∉ t.outstanding)) ∧
  (∀ (s : State) (k n : Nat) (p : Pend) (g : Nat) (tol : Bool) (o : Pool) (v : List Word) (x : Bool) (d : List Nat),
    poolTurn s k p n → p.eff = .pset n g tol true → s.pool? p.own.ctx n = some o → localPool o → o.waits = [] →
    waitsSaved s p.own.ctx = false → o.decl.expect = 0 → readValue s o tol = .value v x d →
    ∃ t o', exec (.poolContribRegister k) s = .next t ∧ t.pool? p.own.ctx n = some o' ∧ o'.gen = o.gen + 1 ∧ o'.base = v ∧
      o'.baseX = x ∧ (o'.parts.map fun q => { q with op := none }) = (o.parts.filter fun q => q.gen > o.gen).map (fun q => { q with op := none }) ∧
      (∀ q ∈ o.parts, q.gen = o.gen + 1 → ∀ j, q.op = some j → j ∉ t.outstanding) ∧ o'.waits = [] ∧ k ∉ t.outstanding) ∧
  (∀ (s : State) (k n : Nat) (p : Pend) (o : Pool), poolTurn s k p n → p.eff = .pdrop n → s.pool? p.own.ctx n = some o →
    o.waits = [] → ∃ t, exec (.poolContribRegister k) s = .next t ∧ t.pool? p.own.ctx n = none ∧ k ∉ t.outstanding) ∧
  (∀ (s : State) (x n w : Nat) (o : Pool) (a : Wait) (t0 : Nat), s.pool? x n = some o → localPool o → waitsSaved s x = false → o.waits = [a] → a.id = w →
    a.kind = .prd → a.remote = false → a.res = none → a.gen = o.gen → a.start = some t0 → o.decl.deadline ≠ 0 →
    t0 + o.decl.deadline ≤ s.clk → (∃ g c, a.asker = .fire g c) →
    ∃ t o', exec (.poolDeadlineExpiry x n w) s = .next t ∧ t.pool? x n = some o' ∧
      o'.waits = [{ a with res := some (readValue s o a.tol) }] ∧ o'.parts = o.parts)

/-! ### Streams and copies (R220-R248) -/

namespace Sys2Proof.Claims

/-- k is a released stream command for a region cluster that its dispatcher, with room, accepts now (R222). -/
def cmdTurn (s : State) (k : Nat) (p : Pend) (rc : Nat) : Prop :=
  (s.pend.find? fun q => q.id == k) = some p ∧ effCl p.eff = some rc ∧ firstOf s p (fun e => effCl e == some rc) = true ∧
  s.live p.deps = [] ∧ actActive s p.own = true ∧ ctxRuns s p.own.ctx = true ∧ (s.region p.own.reg).stopped = false ∧
  (s.cluster (s.region p.own.reg).die ((s.region p.own.reg).cluster rc)).queue.length < 32

/-- A port's stream may take its next step: its region runs, it has the leave it needs, and what it delivers to is open
(R227, R228, R230, R233). -/
def portGoes (s : State) (d c p : Nat) (m : Stream) : Prop :=
  (s.port d c p).stream = some m ∧ portRuns s d c p = true ∧ streamLeave s d c p m.pat = true

/-- The address of element e of a pattern without a ring (R224): BASE plus each index times its stride, modulo 2^64. -/
def elementAt (p : Pattern) (e : Nat) : Nat := (((p.base : Int) + offsetOf (indexOf p.counts e) p.strides) % (2 ^ 64 : Nat)).toNat

/-- The ring slot f and the address va of the next element of an outlet's stream (R224, R240): in a ring, the slot being
filled when it is free, at an offset inside it. -/
def placeAt (s : State) (x : Nat) (m : Stream) (f va : Nat) : Prop :=
  if m.pat.ring then
    f = (if m.pos % max (slotSteps m.pat) 1 = 0 then ringFill s x m.pat.ringId else m.fill) ∧
    (f + 2 ^ 32 - ringRel s x m.pat.ringId) % 2 ^ 32 < ringS s x m.pat.ringId ∧
    ∃ off : Nat, (off : Int) = offsetOf ((indexOf m.pat.counts m.pos).take (m.pat.ndim - 1)) m.pat.strides % (2 ^ 64 : Nat) ∧
      off < ringSize s x m.pat.ringId ∧ va = ringSlot s x m.pat.ringId f + off
  else f = 0 ∧ va = elementAt m.pat m.pos

/-- What a port's n bytes at a virtual address reach in one piece of plain memory, for a store with room (R144, R231). -/
def storesTo (s : State) (d c va n pa cls : Nat) (own : Owner) : Prop :=
  let x := s.ctxOf (tarn0 d c)
  (vCuts 2 va n = [(va, n)]) ∧ isPending s x va = false ∧
  (∃ leaf, xlate s d x va kWrite true = .ok pa leaf ∧ pteClass leaf = cls) ∧ physFault s pa kWrite = false ∧
  lineHeld s (.mem pa) d = false ∧ storeRoom s (.mem pa) n own.iv cls = .ok ∧ (cls ≠ 2 ∨ own.iv = 0) ∧ inRegSpace pa = false

/-- The register a tile spring has claimed is full (R197, R227, R229): all its runs have been read, or a replay has filled it from
the stream buffer. -/
def tileFilled (s : State) (d c p n : Nat) (m : Stream) (t : State) : Prop :=
  let q := s.port d c p
  (q.buffer.length ≤ q.bufPos ∧ readRuns d c p n (m.pat.rows * m.pat.rowCells + 1) m s = .done t) ∨
  (∃ bs bad, q.bufPos < q.buffer.length ∧ q.buffer[q.bufPos]? = some (bs, bad) ∧
    t = s.modNode (nodeKey d c) fun (v : Tiles) =>
      v.setTile n (fillTile (v.tile n) m.pat.rows (m.pat.counts.getD 0 0 * m.pat.elBits / 8) m.pat.sided bs bad))

/-- The register that a handle names, seen with the outlet's pattern as its configuration (R197, R229). -/
def outletTile (s : State) (d c : Nat) (m : Stream) (k : Token) : Tile :=
  { (s.node d c).tile (k.pay.toNat % 16) with
    fmt := m.pat.ty, mxk := m.pat.mxk, colsM1 := m.pat.counts.getD 0 0 * m.pat.elBits / 32 - 1 }

/-- A queue whose first command is no sbar: nothing at its head is done. -/
def noSbarFirst (q : List Cmd) : Prop := ∀ m r, q = m :: r → m.kind ≠ .sbar

end Sys2Proof.Claims

/-- R235 and R241 to R248: the stream instructions; tlw, tlrd and ringaw yield, and the rest is staged. -/
def Obligations.StreamWords : Prop :=
  (∀ (h : Hdr) (f : FormS) (s : State) (i : Issue), gate s h true = .run i →
    let cl := f.id.toNat / 32 % 64
    let p := f.id.toNat % 32
    exec (.strm h f) s = .next (complete s i h (.strm cl p i.l.pay.toNat)) ∧
    exec (.sstop h f) s = .next (complete s i h (.sstop cl p (f.imm.getLsbD 0))) ∧
    exec (.pbinv h f) s = .next (complete s i h (.pbinv cl (if h.ar = 1 then some i.l.pay.toNat else none))) ∧
    exec (.sbar h f) s = .next (complete s i h (.sbar cl)) ∧
    (inMirror s i.f.u = false → exec (.cpy h f) s = .next (complete s i h (.cpy (f.id.toNat % 16) i.l.pay.toNat))) ∧
    (∃ t : Pattern, exec (.strmi h f) s = .next (complete s i h (.strmi cl p t)) ∧
      t.base = i.l.pay.toNat ∧ t.ty = f.imm.toNat / 4096 ∧ t.ndim = (if f.imm.getLsbD 1 then 2 else 1) ∧
      t.tl = f.imm.toNat / 64 % 64 ∧ t.itsel = f.imm.toNat / 16 % 4 ∧ t.sqsel = f.imm.toNat / 4 % 4 ∧
      t.counts = [i.r.pay.toNat % 2 ^ 32, i.r.pay.toNat / 2 ^ 32].take t.ndim ∧
      t.strides = [Int.bmod i.x.pay.toNat (2 ^ 32), Int.bmod (i.x.pay.toNat / 2 ^ 32) (2 ^ 32)].take t.ndim)) ∧
  (∀ (h : Hdr) (f : FormS) (s : State) (i : Issue), gate s h true = .run i →
    let n := if h.ar = 1 then (i.l.pay + f.imm.zeroExtend 64).toNat else f.imm.toNat
    exec (.ringrel h f) s = .next (complete s i h (.ringrel f.id.toNat (n % 2 ^ 32))) ∧
    (mustWait s i = false →
      let x := s.ctxOf i.f.u
      let tl := tabGet (s.ctx x).tl f.id.toNat
      exec (.tlrd h f) s = .next (give s i h (i.tok (BitVec.ofNat 64 tl))) ∧
      (n ≤ tl → exec (.tlw h f) s =
        .next (give (linkDeps s).2 i h { i.result (BitVec.ofNat 64 n) false with deps := (linkDeps s).1 })) ∧
      (tl < n → exec (.tlw h f) s = .next s) ∧
      (ringBefore n (ringRel s x f.id.toNat) = true → exec (.ringaw h f) s = .next (giveNull s i h)) ∧
      (ringBefore n (ringRel s x f.id.toNat) = false → ringBefore n (ringFill s x f.id.toNat) = true →
        exec (.ringaw h f) s = .next (give (linkDeps s).2 i h
          { i.result (BitVec.ofNat 64 (ringSlot s x f.id.toNat (n % 2 ^ 32))) false with deps := (linkDeps s).1 })) ∧
      (ringBefore n (ringRel s x f.id.toNat) = false → ringBefore n (ringFill s x f.id.toNat) = false →
        exec (.ringaw h f) s = .next s)))

/-- R222, R225, R226, R232, R244 and R248: a dispatcher's acceptance; a stream starts when no earlier command of its port
is in the queue; a spring's marker leaves when it may; an engine takes a copy job. -/
def Obligations.StreamCommands : Prop :=
  (∀ (s : State) (k rc : Nat) (p : Pend), cmdTurn s k p rc →
    let d := (s.region p.own.reg).die
    let c := (s.region p.own.reg).cluster rc
    (∀ r port t, p.eff = .strmi r port t → patOk s p.own.ctx (portKind port) t = true →
      (springPort port = true → (springDest? s d c port).isSome = true) → noSbarFirst (s.cluster d c).queue →
      ∃ u, exec (.streamCmdAccept k) s = .next u ∧ k ∉ u.pend.map (·.id) ∧
        (u.cluster d c).queue = (s.cluster d c).queue ++
          [{ id := k, port := port, kind := .strm t, own := p.own, floor := readFloor s p.own.reg p.deps }]) ∧
    (∀ r port va, p.eff = .strm r port va → va % 128 ≠ 0 →
      exec (.streamCmdAccept k) s = .next (acceptFault s p port fSTRM (BitVec.ofNat 64 va))) ∧
    (∀ r port dq m, p.eff = .sstop r port dq → dq = false → (s.port d c port).stream = some m → m.st ≠ .frozen →
      ∃ u, exec (.streamCmdAccept k) s = .next u ∧ (u.port d c port).stream = none ∧ k ∉ u.outstanding ∧ m.cmd ∉ u.outstanding) ∧
    (∀ r, p.eff = .pbinv r none → ∃ u, exec (.streamCmdAccept k) s = .next u ∧ (u.cluster d c).pcache = [] ∧ k ∉ u.outstanding) ∧
    (∀ r, p.eff = .sbar r → (s.cluster d c).queue = [] →
      ∃ u, exec (.streamCmdAccept k) s = .next u ∧ (u.cluster d c).queue = [] ∧ k ∉ u.outstanding)) ∧
  (∀ (s : State) (d c k : Nat) (m : Cmd) (t : Pattern), ((s.cluster d c).queue.find? fun n => n.id == k) = some m →
    m.kind = .strm t → mayStart s d c m = true → t.count ≠ 0 →
    ∃ u a, exec (.streamStart d c k) s = .next u ∧ (u.port d c m.port).stream = some a ∧ a.cmd = k ∧ a.pat = t ∧ a.pos = 0 ∧
      a.st = .running ∧ a.floor = m.floor ∧ a.since = s.clk ∧ u.mem = s.mem) ∧
  (∀ (s t : State) (d c k b : Nat) (m : Cmd) (dst : Dest), ((s.cluster d c).queue.find? fun n => n.id == k) = some m →
    m.kind = .marker b → springDest? s d c m.port = some dst → mayStart s d c m = true → destOpen s dst = true →
    deliver { s with nextId := s.nextId + 1 } { id := s.nextId, ctx := m.own.ctx, src := .port d c m.port, dst := dst, item := .mark .barrier b } = some t →
    ∃ u, exec (.barrierMarkerSend d c k) s = .next u ∧ k ∉ u.outstanding ∧ ∀ n ∈ (u.cluster d c).queue, n.id ≠ k) ∧
  (∀ (s t v : State) (k e va : Nat) (p : Pend) (segs : List (Nat × Nat × Nat)) (bs : List Byte) (ids : List Nat) (a b : Pattern),
    (s.pend.find? fun q => q.id == k) = some p → p.eff = .cpy e va →
    firstOf s p (fun f => match f with | .cpy g _ => g == e | _ => false) = true → s.live p.deps = [] →
    ctxRuns s p.own.ctx = true → (jobsOf s (copyDie s p) e).length < 16 → va % 128 = 0 →
    reachAll s { d := copyDie s p, x := p.own.ctx, who := .pend k, u := agentUnit p.who, site := pendSite p } kOther (vCuts 6 va 256)
      = .ok segs t →
    readSegs t (readFloor t p.own.reg p.deps) t.clk segs = (bs, false, ids, v) → jobOf v p.own.ctx bs = some (a, b) →
    ∃ u, exec (.copyJobAccept k) s = .next u ∧ k ∉ u.pend.map (·.id) ∧
      jobsOf u (copyDie s p) e = jobsOf v (copyDie s p) e ++
        [{ id := k, own := p.own, cl := copyCl p, tag := p.tag, src := a, dst := b, floor := readFloor v p.own.reg p.deps }])

/-- R224, R227, R228 and R234: a spring delivers its next element with the tag its selectors give; an outlet stores a
token's low bytes at its next element and nothing else in memory, and nothing for a null token. -/
def Obligations.StreamElements : Prop :=
  (∀ (s t v : State) (d c p : Nat) (m : Stream) (dst : Dest) (bs : List Byte) (bad : Bool) (ids : List Nat), portGoes s d c p m → p < 8 →
    m.pat.ring = false → springDest? s d c p = some dst → destOpen s dst = true →
    let ty := Ty.ofCode m.pat.ty
    elementAt m.pat m.pos % tySize ty = 0 → nextElem s d c p m (elementAt m.pat m.pos) (tySize ty) = .ok bs bad ids t →
    let ix := indexOf m.pat.counts m.pos
    let tok : Token := { pay := resPay ty (natOfBytes bs), p := bad, deps := ids, lreg := BitVec.ofNat 4 m.pat.lreg
                         iter := BitVec.ofNat 12 (m.pat.itbase + (if m.pat.itsel = 0 then 0 else ix.getD (m.pat.itsel - 1) 0))
                         sq := BitVec.ofNat 8 (m.pat.sqbase + (if m.pat.sqsel = 0 then 0 else ix.getD (m.pat.sqsel - 1) 0)) }
    deliver { t with nextId := t.nextId + 1 } { id := t.nextId, ctx := s.ctxOf (tarn0 d c), src := .port d c p, dst := dst, item := .tok tok } = some v →
    exec (.springElement d c p) s = .next (advance (v.modPort d c p fun q =>
      keepElem { q with stream := q.stream.map fun (m : Stream) => { m with st := .running } } bs bad) d c p)) ∧
  (∀ (s v : State) (d c p pa cls f va : Nat) (m : Stream) (h : Held) (t : Token) (r : List Held), portGoes s d c p m → 8 ≤ p → p ≤ 15 →
    (s.port d c p).held = h :: r → h.item = .tok t → s.live t.deps = [] → placeAt s (s.ctxOf (tarn0 d c)) m f va →
    pickFrom s (outletChoices s d c p m) = (0, v) → m.pos + 1 ∉ m.ahead →
    (s.region (s.regOf (tarn0 d c))).isMirror = false → (s.region (s.regOf (tarn0 d c))).mirror = none →
    let goesOn := fun u : State => exec (.outletStore d c p) s = .next u ∧
      (m.pos + 1 < m.pat.count → ∃ m', (u.port d c p).stream = some m' ∧ m'.pos = m.pos + 1) ∧
      (m.pat.ring = true → (m.pos + 1) % max (slotSteps m.pat) 1 = 0 →
        ringFill u (s.ctxOf (tarn0 d c)) m.pat.ringId = (f + 1) % 2 ^ 32)
    (t.n = true → ∃ u, goesOn u ∧ u.mem = s.mem) ∧
    (t.n = false → t.p = false → t.x = false → va % tySize (Ty.ofCode m.pat.ty) = 0 →
      let own := heldOwner m.own h (s.region (s.regOf (tarn0 d c))).replays
      storesTo (setFill v d c p f) d c va (tySize (Ty.ofCode m.pat.ty)) pa cls own →
      ∃ u, goesOn u ∧
        ∀ a, (cls ≠ 0 ∨ own.iv = 0 ∨ offNextUndo s (tySize (Ty.ofCode m.pat.ty)) a) → memGet u.mem a = if pa ≤ a ∧ a < pa + tySize (Ty.ofCode m.pat.ty) then BitVec.ofNat 8 (t.pay.toNat / 256 ^ (a - pa))
          else memGet s.mem a)) ∧
  (∀ (s : State) (d e : Nat) (j : Job) (l : List Job), jobsOf s d e = j :: l →
    (j.started = false → jobMayStart s j = true → j.dst.count ≠ 0 →
      ∃ u, exec (.copyElement d e) s = .next u ∧ jobsOf u d e = { j with started := true, since := s.clk } :: l) ∧
    (j.started = true → jobRuns s j = true → hasLeave s d (.copy d j.cl e j.id) = true → j.src.ring = false → j.dst.ring = false →
      j.src.host = true → j.dst.host = true → j.dst.pool = false → j.src.ty = j.dst.ty → 0 < tySize (Ty.ofCode j.src.ty) →
      let n := tySize (Ty.ofCode j.src.ty)
      elementAt j.src j.pos % n = 0 → elementAt j.dst j.pos % n = 0 →
      ∃ u, exec (.copyElement d e) s = .next u ∧ u.mem = s.mem ∧
        ∀ a, memGet u.hostMem a = if elementAt j.dst j.pos ≤ a ∧ a < elementAt j.dst j.pos + n
          then memGet s.hostMem (elementAt j.src j.pos + (a - elementAt j.dst j.pos)) else memGet s.hostMem a))

/-- R197, R198, R228, R229 and R240 (log 107): a tile spring claims the lowest free spring register and fills it with rows and side bytes;
a tile outlet frees the spring register it stored. -/
def Obligations.TilePorts : Prop :=
  (∀ (s : State) (d c p n : Nat) (m : Stream) (r : List Nat), portGoes s d c p m → (p = 16 ∨ (p = 17 ∧ canClaim s d c 16 = false)) →
    m.filling = none → mayClaim s d c p (tileHandle m 0) = true → freeRegs (s.node d c) = n :: r →
    ∃ u m', exec (.tileSpringClaim d c p) s = .next u ∧ (u.port d c p).stream = some m' ∧ m' = { m with filling := some n } ∧
      ((u.node d c).tile n).st = .filling ∧ (∀ k, k ≠ n → (u.node d c).tile k = (s.node d c).tile k) ∧ u.mem = s.mem) ∧
  (∀ (s t w : State) (d c p n : Nat) (m : Stream) (dst : Dest), portGoes s d c p m →
    (s.region (s.regOf (tarn0 d c))).ctx = s.ctxOf (tarn0 d c) → springDest? s d c p = some dst → m.filling = some n →
    destOpen s dst = true → tileFilled s d c p n m t →
    let v := (t.node d c).tile n
    let full := t.modNode (nodeKey d c) fun q => q.setTile n { v with st := .held }
    let deps := (linkDeps full).1
    let sent := (linkDeps full).2
    deliver { sent with nextId := sent.nextId + 1 }
        { id := sent.nextId, ctx := t.ctxOf (tarn0 d c), src := .port d c p, dst := dst, item := .tok { tileHandle m n with deps := deps } }
      = some w →
    exec (.tileSpringDeliver d c p) s = .next (advance (w.modPort d c p fun q =>
      keepElem { q with stream := q.stream.map fun (m : Stream) => { m with st := .running } } (tileImage v m.pat) v.p) d c p)) ∧
  (∀ (s t v : State) (d c p n fuel : Nat) (m : Stream) (g : Run) (segs : List (Nat × Nat × Nat)) (bs : List Byte) (bad : Bool)
    (ids : List Nat), m.part < m.pat.rows * m.pat.rowCells → nextRun s (s.ctxOf (tarn0 d c)) m = .ok g →
    reachAll s (portReacher s d c p) kLoad (vCuts (g.bytes / 64 + 2) g.va g.bytes) = .ok segs t →
    readSegs t m.floor m.since segs = (bs, bad, ids, v) →
    ∃ u, readRuns d c p n (fuel + 1) m s = readRuns d c p n fuel { m with part := m.part + g.cells } u ∧
      let r := (u.node d c).tile n
      r.p = (((v.node d c).tile n).p || bad) ∧
      (g.side = false → r.side = ((v.node d c).tile n).side ∧ r.bytes =
        memPut ((v.node d c).tile n).bytes (g.row * 128 + g.col * m.pat.elBits / 8) bs) ∧
      (g.side = true → r.bytes = ((v.node d c).tile n).bytes ∧ r.side = memPut ((v.node d c).tile n).side (g.row * 8) bs)) ∧
  (∀ (s : State) (x : Nat) (m : Stream) (i k : Nat), m.part = i * m.pat.rowCells + k → k < m.pat.rowCells →
    let n := m.pat.counts.getD 0 0
    (k = n → nextRun s x m = .ok { va := (m.pat.side + 8 * (m.pos * m.pat.rows + i)) % 2 ^ 64, cells := 1, bytes := 8, row := i
                                   col := k, side := true }) ∧
    (k < n → m.pat.ring = false → 8 ≤ m.pat.elBits →
      let ix := (k :: i :: indexOf (m.pat.counts.drop 2) m.pos).take m.pat.ndim
      let va := (((m.pat.base : Int) + offsetOf ix m.pat.strides) % (2 ^ 64 : Nat)).toNat
      let c := min (n - k) ((64 - va % 64) * 8 / m.pat.elBits)
      (va % (m.pat.elBits / 8) = 0 →
        nextRun s x m = .ok { va := va, cells := c, bytes := (c * m.pat.elBits + 7) / 8, row := i, col := k }) ∧
      (va % (m.pat.elBits / 8) ≠ 0 → nextRun s x m = .error (0x23, va)))) ∧
  (∀ (t : Tile) (rows n r k : Nat) (bs : List Byte) (bad : Bool), r < rows → k < n → n ≤ 128 → bs.length = rows * n →
    memGet (fillTile t rows n false bs bad).bytes (r * 128 + k) = bs.getD (r * n + k) 0 ∧
    (fillTile t rows n false bs bad).p = bad ∧ (fillTile t rows n false bs bad).st = .held) ∧
  (∀ (s t : State) (d c : Nat) (m : Stream) (h : Held) (k : Token) (r : List Held),
    portGoes s d c 18 m → (s.port d c 18).held = h :: r → h.item = .tok k → s.live k.deps = [] →
    tileBusy (s.node d c) (k.pay.toNat % 16) = false → (s.region (s.regOf (tarn0 d c))).isMirror = false →
    (s.region (s.regOf (tarn0 d c))).mirror = none →
    (k.n = true → m.pat.ring = false → ∃ u, exec (.tileOutletStore d c) s = .next u ∧ u.mem = s.mem) ∧
    (k.n = false → k.p = false → ((s.node d c).tile (k.pay.toNat % 16)).p = false →
      storeRuns d c (heldOwner m.own h (s.region (s.regOf (tarn0 d c))).replays) k (outletTile s d c m k)
        (m.pat.rows * m.pat.rowCells + 1) m s = .done t →
      ∃ u, exec (.tileOutletStore d c) s = .next u ∧ u.mem = t.mem ∧
        ((t.node d c).statics.contains (k.pay.toNat % 16) = false → ((u.node d c).tile (k.pay.toNat % 16)).st = .free))) ∧
  (∀ (s : State) (d c fuel pa cls : Nat) (own : Owner) (m : Stream) (k : Token) (t : Tile) (g : Run),
    m.part < m.pat.rows * m.pat.rowCells → m.pat.ring = false → k.n = false →
    nextRun (setFill s d c 18 0) own.ctx { m with fill := 0 } = .ok g → g.side = false → 8 ≤ m.pat.elBits →
    own.ctx = s.ctxOf (tarn0 d c) → storesTo (setFill s d c 18 0) d c g.va g.bytes pa cls own → pa % 64 + g.bytes ≤ 64 →
    (∀ j, t.xBit g.row j = false) →
    ∃ u, storeRuns d c own k t (fuel + 1) m s = storeRuns d c own k t fuel { m with fill := 0, part := m.part + g.cells } u ∧
      ∀ a, (cls ≠ 0 ∨ own.iv = 0 ∨ offNextUndo s 1 a) → memGet u.mem a =
        if pa ≤ a ∧ a < pa + g.bytes then memGet t.bytes (g.row * 128 + g.col * m.pat.elBits / 8 + (a - pa)) else memGet s.mem a)

/-! ### Kernels, groups, barriers, intervals and the system words (R275-R278, R293-R295, R323-R325, R331-R337, R357-R361, R405,
R410, R411) -/

namespace Sys2Proof.Claims

/-- The words at an address of the shared scratch area (R276). -/
def scratchWords (s : State) (u a n : Nat) : List Word :=
  (List.range n).map fun k => BitVec.ofNat 64 (natOfBytes (memBytes (s.unit (memUnit u)).scratch (a + 8 * k) 8))

/-- n words lie at an address of the shared scratch area, and none has an error or an atomic's hold (R146, R276). -/
def scratchHas (s : State) (i : Issue) (a : Word) (n : Nat) : Prop :=
  a.toNat % 8 = 0 ∧ a.toNat + 8 * n ≤ sharedSize s i.f.u ∧ (s.unit (memUnit i.f.u)).bad = [] ∧ i.fi.staged = [] ∧ s.holds = []

end Sys2Proof.Claims

/-- R275 to R278: call, tcall and ret read their words from the shared scratch area at issue and leave at commit; kload and
kdrop leave at commit with a completion token. -/
def Obligations.KernelWords : Prop :=
  (∀ (h : Hdr) (f : FormS) (s : State) (i : Issue), gate s h true = .run i → mustWait s i = false → inMirror s i.f.u = false →
    scratchHas s i i.r.pay (f.imm.toNat % 16) →
    let ws := scratchWords s i.f.u i.r.pay.toNat (f.imm.toNat % 16)
    let x := i.l.x || i.r.x
    let deps := s.carry (setUnion i.l.deps i.r.deps)
    let cont := if f.id = 0x800 then none
      else some ((s.region (s.regOf i.f.u)).unitIndex i.f.u, f.id.toNat / 32 % 8, f.id.toNat % 16)
    exec (.call h f) s = .next (stageOnly s i (.call i.l.pay.toNat ws x deps cont i.l.tag)) ∧
    exec (.tcall h f) s = .next (stageOnly s i (.tcall i.l.pay.toNat ws x deps i.l.tag))) ∧
  (∀ (h : Hdr) (f : FormS) (s : State) (i : Issue), gate s h true = .run i → mustWait s i = false →
    scratchHas s i i.l.pay (f.imm.toNat % 16) →
    exec (.ret h f) s = .next (stageOnly s i
      (.ret (scratchWords s i.f.u i.l.pay.toNat (f.imm.toNat % 16)) i.l.x (s.carry i.l.deps)))) ∧
  (∀ (h : Hdr) (f : FormS) (s : State) (i : Issue), gate s h true = .run i →
    exec (.kload h f) s = .next (complete s i h (.kload i.l.pay.toNat (f.imm.getLsbD 0))) ∧
    exec (.kdrop h f) s = .next (complete s i h (.kdrop i.l.pay.toNat))) ∧
  (∀ (s : State) (i : Issue) (e : Eff) (g : Firing), s.firing? i.f = some g →
    ∃ g', (stageOnly s i e).firing? i.f = some g' ∧ g'.fired = g.fired ++ [i.slot] ∧ g'.pos = g.pos ∧
      g'.staged = g.staged ++ [{ id := s.nextId, slot := i.slot, deps := s.newId.2.carry i.deps, tag := i.l.tag, sq := i.l.sq.toNat, eff := e }])

/-- R323 to R325, R331, R333, R334, R336 and R337: launch reads and checks its descriptor at issue; gpatch and done leave at
commit; bar names its clusters and is staged; barw waits at its barrier until it completes or fails; bar and barw are null while
another depth has armed it. -/
def Obligations.GroupAndBarrierWords : Prop :=
  ((∀ (h : Hdr) (f : FormS) (s t : State) (i : Issue) (bs : List Byte) (ids : List Nat), gate s h true = .run i → mustWait s i = false →
     inMirror s i.f.u = false → i.l.pay.toNat % 8 = 0 → readRange s i i.l.pay.toNat 40 = .ok bs false ids t →
     ((f.imm.getLsbD 0 = true ∨ descOk t (descOf bs) = true) →
       exec (.launch h f) s = .next (complete t i h (.launch bs (f.imm.getLsbD 0)))) ∧
     (f.imm.getLsbD 0 = false → descOk t (descOf bs) = false → exec (.launch h f) s = .next (takeBlock t i 0x21 i.l.pay))) ∧
   (∀ (h : Hdr) (f : FormS) (s : State) (i : Issue), gate s h true = .run i → mustWait s i = false →
     inMirror s i.f.u = false → i.l.pay.toNat % 8 ≠ 0 → exec (.launch h f) s = .next (takeBlock s i 0x23 i.l.pay)) ∧
   (∀ (h : Hdr) (f : FormS) (s : State) (i : Issue), gate s h true = .run i →
     exec (.gpatch h f) s = .next (complete s i h (.gpatch i.l.pay.toNat (i.r.pay.toNat % 2 ^ 32) i.x.pay)) ∧
     exec (.doneI h f) s = .next (complete s i h .done))) ∧
  (∀ (h : Hdr) (f : FormS) (s : State) (i : Issue), gate s h true = .run i →
     let k := s.regOf i.f.u
     let c := bar s k f.id.toNat
     let r := s.region k
     let busy := c.st = .armed ∨ c.st = .propagating
     (busy → c.depth ≠ depthOf s k → exec (.bar h f) s = .next (giveNull s i h)) ∧
     ((¬ busy ∨ c.depth = depthOf s k) → ∃ cl, exec (.bar h f) s = .next (complete s i h (.bar f.id.toNat cl f.imm.toNat)) ∧
       (h.ar = 1 → ∀ n, n ∈ cl ↔ n < r.width * r.height ∧ n < 64 ∧ i.l.pay.getLsbD n = true) ∧
       (h.ar = 0 → 0 < r.width → ∀ n, n ∈ cl ↔ n < r.width * r.height ∧ n % r.width < (r.kref.getD {}).width ∧
         n / r.width < (r.kref.getD {}).height)) ∧
     (mustWait s i = false → busy → c.depth ≠ depthOf s k → exec (.barw h f) s = .next (giveNull s i h)) ∧
     (mustWait s i = false → c.waits = [] →
       (c.st = .complete → exec (.barw h f) s = .next (give s i h { i.completion with deps := c.deps })) ∧
       (c.st = .failed → exec (.barw h f) s = .next (giveNull s i h)) ∧
       (c.st = .idle ∨ (busy ∧ c.depth = depthOf s k) → ∃ t, exec (.barw h f) s = .next t ∧
         (bar t k f.id.toNat).waits = [{ f := i.f, slot := i.slot }] ∧ t.units = s.units)) ∧
     (mustWait s i = false → (¬ busy ∨ c.depth = depthOf s k) → ∀ deps,
       c.waits = [{ f := i.f, slot := i.slot, res := some (true, deps) }] →
       ∃ t, exec (.barw h f) s = .next (give t i h { i.completion with deps := deps }) ∧ (bar t k f.id.toNat).waits = []))

/-- R357 to R361: seal, sealw, irrev and ivrd. -/
def Obligations.IntervalWords : Prop :=
  (∀ (h : Hdr) (f : FormS) (s : State) (i : Issue), gate s h true = .run i →
    let own := (s.ctxReg (s.ctxOf i.f.u) 1).toNat % 2 ^ 48
    let arg := i.l.pay.toNat % 2 ^ 48
    let n := if h.ar = 1 then arg else own - 1
    (inMirror s i.f.u = false → exec (.sealI h f) s = .next (complete s i h (.seal (if h.ar = 1 then arg else own)))) ∧
    (mustWait s i = false →
      (own ≤ n → exec (.sealw h f) s = .next (giveNull s i h)) ∧
      (n < own → n ≤ s.sealed → exec (.sealw h f) s =
        .next (give (linkDeps s).2 i h { i.result (BitVec.ofNat 64 n) false with deps := (linkDeps s).1 })) ∧
      (n < own → s.sealed < n → exec (.sealw h f) s = .next s) ∧
      (f.imm.toNat % 4 = 0 → exec (.ivrd h f) s = .next (give s i h (i.tok (BitVec.ofNat 64 own)))) ∧
      (f.imm.toNat % 4 = 1 → exec (.ivrd h f) s = .next (give s i h (i.tok (BitVec.ofNat 64 s.iv)))) ∧
      (f.imm.toNat % 4 = 2 → exec (.ivrd h f) s = .next (give s i h (i.tok (BitVec.ofNat 64 s.sealed)))))) ∧
  (∀ (h : Hdr) (f : FormS) (s : State) (i : Issue) (pa cls pol : Nat), gate s h true = .run i → inMirror s i.f.u = false →
    waitsInv s i = false → let n := if f.imm.getLsbD 0 then 4 else 8
    unitAddr s i.f.u 0 i.l.pay n kWrite = .ok (.mem pa) cls pol → reachable i.f.u (.mem pa) →
    exec (.irrev h f) s = .next (complete s i h (.irrev pa (bytesOf n i.r.pay.toNat))))

/-- R283, R284, R293 to R295, R405, R410, R411 and R416: srd yields a register's bits and raises WORLD on a secure one in the
normal world; swr, trap, yield, halt, meas, wdog and a digest are staged; leave yields when its grant has begun, and asks for
it once; a verification yields its answer. -/
def Obligations.SystemWords : Prop :=
  (∀ (h : Hdr) (f : FormS) (s : State) (i : Issue), gate s h true = .run i →
    let n := f.id.toNat
    let bars := secureReg s n = true ∧ isCore i.f.u = false ∧ (s.ctx (s.ctxOf i.f.u)).secure = false
    let at_ := fun (t : Token) => ({ t with lreg := i.fi.lreg, iter := i.fi.iter, sq := 0 } : Token)
    (bars → exec (.swr h f) s = .next (takeBlock s i 0x22 (BitVec.ofNat 64 n))) ∧
    (¬ bars → exec (.swr h f) s = .next (complete s i h (.swr n i.l.pay))) ∧
    (mustWait s i = false →
      (bars → exec (.srd h f) s = .next (takeBlock s i 0x22 (BitVec.ofNat 64 n))) ∧
      (¬ bars → ∃ v, exec (.srd h f) s = .next (give s i h (at_ (i.tok v))) ∧
        (isCore i.f.u = false → n < 0xFF → n ≠ 0 → n ≠ 5 → n ≠ 9 → n ≠ 0xB → v = s.ctxReg (s.ctxOf i.f.u) n) ∧
        (isCore i.f.u = false → n = 0 → v = BitVec.ofNat 64 ((s.ctx (s.ctxOf i.f.u)).part % 16 * 2 ^ 24 +
          (if (s.ctx (s.ctxOf i.f.u)).secure then 2 ^ 16 else 0) + s.ctxOf i.f.u % 256)) ∧
        (isCore i.f.u = false → isNode i.f.u = false → n = 0x100 → v = (s.unit i.f.u).split) ∧
        (isNode i.f.u = true → 0x100 ≤ n → n < 0x200 → v = 0) ∧
        (0x300 ≤ n → n < 0x340 → v = s.devReg n)) ∧
      (isCore i.f.u = true → exec (.leave h f) s = .next (give s i h (at_ (i.tok 0)))) ∧
      (isCore i.f.u = false → hasLeave s (unitDie i.f.u) (.inst i.f i.slot) = true →
        ∃ t, exec (.leave h f) s = .next (give t i h (at_ (i.tok 0))) ∧ t.units = s.units ∧ t.mem = s.mem ∧
          hasLeave t (unitDie i.f.u) (.inst i.f i.slot) = false) ∧
      (isCore i.f.u = false → (s.die (unitDie i.f.u)).leaves = [] → ∃ t, exec (.leave h f) s = .next t ∧ t.units = s.units ∧
        (t.die (unitDie i.f.u)).leaves = [{ who := .inst i.f i.slot, since := s.clk, len := 64 * f.imm.toNat }])) ∧
    exec (.trap h f) s = .next (complete s i h
      (.trap (f.imm.toNat % 2 ^ 15) (f.imm.getLsbD 15) (if h.ar = 1 then i.l.pay else 0))) ∧
    exec (.yield h f) s = .next (complete s i h .yield) ∧
    exec (.halt h f) s = .next (complete s i h .halt) ∧
    exec (.meas h f) s = .next (complete s i h (.meas n i.l.pay.toNat)) ∧
    exec (.wdog h f) s = .next (complete s i h (.wdog f.imm.toNat)) ∧
    (f.id = 0 → i.r.pay.toNat ≤ 2 ^ 32 →
      exec (.crypt h f) s = .next (complete s i h (.digest i.l.pay.toNat i.r.pay.toNat i.x.pay.toNat)))) ∧
  (∀ (h : Hdr) (f : FormS) (s a b t : State) (i : Issue) (dig sig key : List Byte) (ia ib it : List Nat), gate s h true = .run i → f.id ≠ 0 →
    mustWait s i = false → readRange s i i.l.pay.toNat 64 = .ok dig false ia a → readRange a i i.r.pay.toNat 64 = .ok sig false ib b →
    readRange b i i.x.pay.toNat 32 = .ok key false it t →
    ∃ u, exec (.crypt h f) s = .next (give u i h { i.tok (if edVerify dig sig key then 1 else 0) with deps := [t.nextId] }) ∧
      u = (stage t i (.verify i.l.pay.toNat i.r.pay.toNat i.x.pay.toNat)).2)

/-! ### Tokens, firings and blocks (R50-R52, R88-R107) -/

namespace Sys2Proof.Claims

/-- Token k reaches the place it is for now (R91): it is the first of its sender on the way there, and no stopped region has
the place. -/
def arrivesNow (s : State) (k : Nat) (f : Flight) : Prop :=
  (s.flight.find? fun g => g.id == k) = some f ∧ behind s f = false ∧
  (isCore (destAt f.dst) = true ∨ (s.region (s.regOf (destAt f.dst))).stopped = false)

/-- The state without a token on its way. -/
def landed (s : State) (k : Nat) : State := { s with flight := s.flight.filter fun g => g.id ≠ k }

/-- A block of a running firing is ready to commit (R97): its unit issues from its operator, no earlier lane is behind it,
and it has produced everything. -/
def commitsNow (s : State) (f : FireRef) (g : Firing) (q : OpState) (h : Nat) (ws : List Word) : Prop :=
  s.firing? f = some g ∧ s.op? f.u f.op = some q ∧ blockOf? s f = some (h, ws) ∧ unitRuns s f.u = true ∧
  (s.unit f.u).cur = some f.op ∧ g.st = .running ∧ g.started = true ∧ laneWaits q g = false ∧ produced s f g ws = true

end Sys2Proof.Claims

/-- R91, R93, R95 and R221: a token is held at a bound outlet in arrival order; one for a unit that its context no longer has
raises NO_HANDLER; a repeated SEQ at a tagged channel raises TAG_DUP against the receiver and the token is gone. -/
def Obligations.TokenArrivals : Prop :=
  (∀ (s : State) (k d c p : Nat) (f : Flight) (t : Token), arrivesNow s k f → f.dst = .port d c p → f.item = .tok t →
    ownsUnit s (tarn0 d c) f.ctx = true → 8 ≤ p → p ≤ 18 → p ≠ 16 → p ≠ 17 → (s.port d c p).bound = true →
    ∃ u n, exec (.tokenArrival k) s = .next u ∧ k ∉ u.flight.map (·.id) ∧
      (u.port d c p).held = (s.port d c p).held ++ [{ src := f.src, item := f.item, at_ := n, iv := f.iv }] ∧ u.mem = s.mem) ∧
  (∀ (s : State) (k : Nat) (f : Flight), arrivesNow s k f → ownsUnit s (destAt f.dst) f.ctx = false →
    exec (.tokenArrival k) s = .next (noHandler (landed s k) f)) ∧
  (∀ (s : State) (k u o c : Nat) (f : Flight) (t : Token) (r : ChanRec) (q : OpState), arrivesNow s k f → f.dst = .chan u o c →
    f.item = .tok t → ownsUnit s u f.ctx = true → chanRec? s u o c = some r → r.out = false → r.kind = 0 → isNode u = false →
    s.op? u o = some q → (s.unit u).plane.ovf = [] →
    (∃ x ∈ (segmentAt (routeSeg (tabGet q.chans c).held f.src) (tabGet q.chans r.ch).held []).map Prod.fst, x.lreg = t.lreg ∧ x.iter = t.iter ∧ x.sq = t.sq) →
    exec (.tokenArrival k) s = .next (matchUnit (arrivalFault (drainOvf (landed s k) u) (s.ctxOf u) u o c 0x10 f) u))

/-- R102 and R107: the operator chosen when none is kept has the lowest ratio of firing slots used to share, ties going to the
lowest slot, among those whose turn lets no ready firing wait longer than 16 slots for each operator of the unit (log 104); the
present operator keeps the unit for up to 16 firing slots while it has work and does not stall. -/
def Obligations.SelectionRule : Prop :=
  ∀ (s : State) (u : Nat),
    (∀ os o, lowestRatio s u os = some o → o ∈ os ∧ (∀ b ∈ os, (((s.op? u b).getD {}).slots * max ((s.op? u o).getD {}).share 1
        ≥ ((s.op? u o).getD {}).slots * max ((s.op? u b).getD {}).share 1)) ∧
      (os.Pairwise (· < ·) → ∀ b ∈ os, b < o → ((s.op? u b).getD {}).slots * max ((s.op? u o).getD {}).share 1
        > ((s.op? u o).getD {}).slots * max ((s.op? u b).getD {}).share 1)) ∧
    (∀ c, (s.unit u).cur = some c → c ∈ workers s u → (s.unit u).consec < 16 → selectOp s u false = some c) ∧
    (∀ c, (s.unit u).cur = some c → selectOp s u true ≠ some c) ∧
    (∀ c, (s.unit u).cur = some c → 16 ≤ (s.unit u).consec → (workers s u).length ≠ 1 →
      selectOp s u false = pickOp s u (workers s u)) ∧
    (∀ os, (∀ b ∈ os, keepsBound s u os b = true) → pickOp s u os = lowestRatio s u os) ∧
    (∀ os o, pickOp s u os = some o → o ∈ os ∧ ((∃ b ∈ os, keepsBound s u os b = true) →
      ∀ b ∈ os, b ≠ o → slotsWaited s u b = 0 ∨ slotsWaited s u b + 16 ≤ 16 * (s.unit u).plane.ops.length))

/-- R50, R52, R99 to R106: the selected operator starts its issue; the HOLD wait ends it; a started lane runs the block its
branch reached with its repeat count, and is numbered once; a cleared cause makes a held firing ready; scrubbing corrects,
poisons or replays; shares follow occupancy. -/
def Obligations.FiringEvents : Prop :=
  (∀ (s : State) (u o : Nat) (stalled : Bool) (ls : List Firing), unitRuns s u = true → selectOp s u stalled = some o →
    opWork s u o = .start ls → exec (.firingSelection u stalled) s = .next (startIssue (switchTo s u o) u o ls)) ∧
  (∀ (s : State) (u o : Nat) (q : OpState) (f : Firing) (r ls : List Firing), s.op? u o = some q → freshLanes q = f :: r →
    unitRuns s u = true → draining s u = false → f.since + holdOf s u ≤ s.clk → selectOp s u false = some o →
    opWork s u o = .start ls →
    exec (.gatherHoldExpiry u o) s = .next (startIssue (switchTo s u o) u o (readyLanes s u o q true))) ∧
  (∀ (s : State) (u o n b c : Nat) (g : Firing), s.firing? { u := u, op := o, fr := g.id } = some g → entryOf? s u o g = .run b c →
    ∃ g', (startLane s u o n g).firing? { u := u, op := o, fr := g.id } = some g' ∧ g'.st = .running ∧ g'.started = true ∧
      g'.block = b ∧ g'.nrep = c ∧ g'.rep = g.rep ∧ g'.issue = n ∧ g'.fired = [] ∧ g'.pos = [] ∧ g'.toks = g.toks ∧
      g'.num = (if g.num.isSome then g.num else some ((s.op? u o).getD {}).count)) ∧
  (∀ (s : State) (f : FireRef) (g : Firing), s.firing? f = some g → g.st = .held → (g.cause = .clear ∨ g.cause = .writeBack) →
    ∃ t g', exec (.causeClears f) s = .next t ∧ t.firing? f = some g' ∧ g' = { g with st := .ready, since := s.clk, slot0 := (s.unit f.u).issues }) ∧
  (∀ (s : State) (f : FireRef) (g : Firing), s.firing? f = some g → g.st = .held → g.cause = .rollback →
    exec (.causeClears f) s = .next s) ∧
  (∀ (s : State) (u : Nat), exec (.backgroundScrub u .oneBit) s = .next s ∧
    (∀ a, ∃ t, exec (.backgroundScrub u (.scratch a)) s = .next t ∧ a / 8 * 8 ∈ (t.unit (memUnit u)).bad ∧ t.mem = s.mem) ∧
    (∀ a, ∃ t, exec (.backgroundScrub u (.l1 a)) s = .next t ∧ (a / 8 * 8, s.clk) ∈ (t.unit u).l1bad ∧ t.mem = s.mem) ∧
    (isCore u = false → (s.unit u).owner.isSome = true → ∀ e, (e = .sregs ∨ e = .config ∨ e = .freezeStore ∨ e = .tokens) →
      exec (.backgroundScrub u e) s = .next (raiseReplay s (s.ctxOf u) (s.regOf u) 0x52))) ∧
  (∀ (s : State) (u : Nat), (s.unit u).period + 1024 ≤ s.clk →
    ∃ t, exec (.shareReweight u) s = .next t ∧ (t.unit u).plane.ops = reshare (s.unit u).plane.ops ∧
      (t.unit u).period = s.clk / 1024 * 1024) ∧
  (∀ ops : Tab OpState, tabSorted ops = true → ops.length ≤ 8 → 0 < (ops.map fun o => o.2.occ).sum →
    ((reshare ops).map fun o => o.2.share).sum = 16 ∧
    ∀ o ∈ ops, ∃ q, (o.1, q) ∈ reshare ops ∧ q.slots = 0 ∧ q.occ = 0 ∧
      1 + (16 - ops.length) * o.2.occ / (ops.map fun o => o.2.occ).sum ≤ q.share ∧
      q.share ≤ 2 + (16 - ops.length) * o.2.occ / (ops.map fun o => o.2.occ).sum)

/-- R51, R52, R97 and R113: a block without side effects that has produced all commits: its wr values are in the state
registers and no other register changes; after its last repetition the firing goes to its branch, or is gone at END; a
full destination leaves the state as it is. -/
def Obligations.BlockCommitRule : Prop :=
  (∀ (s : State) (f : FireRef) (g : Firing) (q : OpState) (h : Nat) (ws : List Word), commitsNow s f g q h ws → g.staged = [] →
    tabSorted g.wrs = true →
    ∃ t, exec (.blockCommit f) s = .next t ∧
      (∀ n, tabGet ((t.op? f.u f.op).getD {}).sregs n = match tabGet? g.wrs n with | some v => v | none => tabGet q.sregs n) ∧
      (g.nrep ≤ g.rep + 1 → g.branch = some 63 → f.fr < s.nextId → t.firing? f = none)) ∧
  (∀ (s t : State) (f : FireRef) (g : Firing) (q : OpState) (h : Nat) (ws : List Word) (a : Admission), commitsNow s f g q h ws →
    admitAll f (promised s f) [] ((inSlotOrder g).map fun v => (toPend s f g v, v.ok)) {} s = (a, t) →
    (a.stop = none → a.all = true → exec (.blockCommit f) s = .next (continueIssue (commitBlock t f g h ws) f.u f.op)) ∧
    (a.stop = none → a.all = false → a.close = false → ∃ u, exec (.blockCommit f) s = .next u ∧ u.mem = t.mem ∧ u.pend = t.pend ∧
      ∀ g', t.firing? f = some g' → u.firing? f =
        some { g' with staged := g'.staged.map fun (v : Staged) => { v with ok := a.ids.contains v.id } }) ∧
    (∀ slot c ad, a.stop = some (.fault slot c ad) →
      exec (.blockCommit f) s = .next (continueIssue (blockFault t f slot c ad) f.u f.op)) ∧
    (a.stop = some .abort → exec (.blockCommit f) s = .next (abortFiring t f .clear true))) ∧
  (∀ (s : State) (f : FireRef) (g : Firing), g.rep + 1 < g.nrep → s.firing? f = some g →
    ∃ g', (nextBoundary s f g).firing? f = some g' ∧ g'.rep = g.rep + 1 ∧ g'.block = g.block ∧ g'.started = false)

/-! ### Seals, rollback, replay and retirement (R346-R356, R391) -/

namespace Sys2Proof.Claims

/-- SEAL markers of a phase that a device sends down its tree (R391). -/
def downMsgs (s : State) (phase iv : Nat) : List (Nat × Packet) := (downLinks s).map fun n => (n, sealPacket s phase iv)

/-- The link toward the leader (R391). -/
def upLink (s : State) : Nat := wbits (s.devReg 0x311) 4 0

/-- How many devices below have sent DONE for an interval. -/
def donesOf (s : State) (n : Nat) : Nat := (s.sealing.dones.filter fun v => v.1 == n).length

/-- What SEALED n leaves on a device (R345, R347, R352): dev.sealed, no undo entry, held write or journal entry up to n, and the
held writes performed. -/
def sealedAs (s t : State) (n : Nat) : Prop :=
  t.sealed = n ∧ t.iv = s.iv ∧ t.sentPkts = s.sentPkts ++ downMsgs s 3 n ∧
  (∀ d, ∀ e ∈ (t.die d).undo, n < e.iv) ∧ (∀ d < 8, ∀ e ∈ (t.die d).egress, n < e.iv) ∧
  (∀ d, ∀ j ∈ (t.die d).journal, j.iv = 0 ∨ n < j.iv) ∧
  (∀ d < 8, (∀ c < 8, c ≠ d → ∀ e ∈ (s.die c).egress, n < e.iv) → ∀ a, offUndo s a → memGet t.mem a = memGet ((released s d n).foldl releaseWrite s).mem a)

/-- The target of a rollback that arrives (R350, R391): the leader fixes it; another device takes that of its leader. -/
def rollsTo (s : State) (p : Packet) (n : Nat) : Prop :=
  (s.leader = true ∧ n = s.sealed) ∨ (s.leader = false ∧ p.src = (s.link (upLink s)).peer ∧ n = p.iv)

end Sys2Proof.Claims

/-- R346, R347, R348 and R391: a close request travels up and closes the open interval at the leader; CLOSE and SEALED are acted
on and passed down; DONE goes up once this device and every device below is done; a late seal brings one notice. -/
def Obligations.SealEvents : Prop :=
  (∀ (s : State) (p : Packet), isSeal s p 0 = true →
    (s.leader = true → s.iv ≤ p.iv → s.iv + 1 < 2 ^ 48 → ∃ t, exec (.sealRequest p) s = .next t ∧ t.iv = s.iv + 1 ∧
      t.sealed = s.sealed ∧ t.sealing.asked = false ∧ t.sentPkts = s.sentPkts ++ downMsgs s 1 s.iv) ∧
    (s.leader = false → ∃ t, exec (.sealRequest p) s = .next t ∧ t.iv = s.iv ∧
      t.sentPkts = s.sentPkts ++ [(upLink s, sealPacket s 0 p.iv)])) ∧
  (∀ (s : State) (p : Packet), isSeal s p 1 = true → p.iv = s.iv → s.iv + 1 < 2 ^ 48 →
    ∃ t, exec (.sealClose p) s = .next t ∧ t.iv = s.iv + 1 ∧ t.sealed = s.sealed ∧ t.sentPkts = s.sentPkts ++ downMsgs s 1 s.iv) ∧
  (∀ (s : State) (n : Nat), sealReady s n = true → n ∉ s.sealing.doneSent → n < 2 ^ 48 →
    ∃ t, exec (.sealConditionMet n) s = .next t ∧
      (donesOf s n < (downLinks s).length → n ∈ t.sealing.doneSent ∧ t.sealed = s.sealed ∧ t.sentPkts = s.sentPkts) ∧
      ((downLinks s).length ≤ donesOf s n → s.leader = false →
        t.sealed = s.sealed ∧ t.sentPkts = s.sentPkts ++ [(upLink s, sealPacket s 2 n)]) ∧
      ((downLinks s).length ≤ donesOf s n → s.leader = true → sealedAs s t n)) ∧
  (∀ (s : State) (n : Nat), sealReady s n = false → exec (.sealConditionMet n) s = .next s) ∧
  (∀ (s : State) (p : Packet), isSeal s p 2 = true → s.sealed < p.iv → (p.iv, p.src) ∉ s.sealing.dones →
    ∃ t, exec (.sealDone p) s = .next t ∧
      ((p.iv ∉ s.sealing.doneSent ∨ donesOf s p.iv + 1 < (downLinks s).length) →
        (p.iv, p.src) ∈ t.sealing.dones ∧ t.sealed = s.sealed ∧ t.sentPkts = s.sentPkts) ∧
      (p.iv ∈ s.sealing.doneSent → (downLinks s).length ≤ donesOf s p.iv + 1 → s.leader = false →
        t.sentPkts = s.sentPkts ++ [(upLink s, sealPacket s 2 p.iv)]) ∧
      (p.iv ∈ s.sealing.doneSent → (downLinks s).length ≤ donesOf s p.iv + 1 → s.leader = true → p.iv = s.sealed + 1 →
        p.iv < s.iv → s.sealing.rolling = false → sealedAs s t p.iv)) ∧
  (∀ (s : State) (p : Packet), isSeal s p 3 = true → p.iv = s.sealed + 1 → p.iv < s.iv →
    ∃ t, exec (.sealSealed p) s = .next t ∧ sealedAs s t p.iv) ∧
  (∀ (s : State) (c x : Nat), let n := s.sealed + 1
    let lim := wbits (s.devReg 0x302) 31 0
    tabGet? s.sealing.closedAt n = some c → lim ≠ 0 → c + lim * 1024 < s.clk → n ∉ s.sealing.told →
    (∀ q ∈ s.tasks, q.iv = n → q.ctx = x) → (∃ q ∈ s.tasks, q.iv = n) →
    exec .sealTimeout s = .next (takeNotice { s with sealing := { s.sealing with told := s.sealing.told ++ [n] } } x 0x60
      { contextSite s x with iv := n }))

/-- R290, R291, R350, R351, R353, R354 and R356: a rollback opens interval t + 1, undoes and discards what lies above t and
passes on; the third to one target stops the contexts instead; the host's commands of dev.rbctl; a region replays, or its fault
escalates; a cluster takes its quadrant's spare, or goes out of service. -/
def Obligations.RollbackAndReplay : Prop :=
  (∀ (s : State) (p : Packet) (n : Nat), isSeal s p 4 = true → rollsTo s p n → n + 1 < 2 ^ 48 →
    (s.sealing.lastTarget ≠ some n ∨ s.sealing.tries < 2) →
    ∃ t, exec (.sealRollback p) s = .next t ∧ t.iv = n + 1 ∧ t.sealed = s.sealed ∧ t.sealing.rolling = false ∧
      wbits (t.devReg 0x304) 47 0 = n ∧ wbits (t.devReg 0x304) 63 48 = min 0xFFFF (wbits (s.devReg 0x304) 63 48 + 1) ∧
      (∀ d < 8, ∀ e ∈ (t.die d).undo, e.iv ≤ n) ∧ (∀ d, ∀ e ∈ (t.die d).egress, e.iv ≤ n) ∧ (∀ q ∈ t.pend, q.own.iv ≤ n) ∧
      (∀ q ∈ t.pools, ∀ r ∈ q.2.parts, r.iv ≤ n) ∧ (∀ q ∈ t.tasks, q.iv ≤ n) ∧ (∀ m ∈ downMsgs s 4 n, m ∈ t.sentPkts) ∧
      (∀ x, rollsBack s x n = true → (t.ctx x).st = .idle ∧ (t.ctx x).task = none) ∧
      t.mem = ((upFrom 0 8).foldl (fun s d => undoDie s n d) s).mem) ∧
  (∀ (s : State) (n d : Nat) (e : Undo), (s.die d).undo.filter (fun v => v.iv > n) = [e] →
    let t := undoDie s n d
    t.mem = memPut s.mem e.line e.data ∧ (t.die d).undo = (s.die d).undo.filter (fun v => v.iv ≤ n) ∧
    (e.line ∈ t.poison ↔ e.poison = true)) ∧
  (∀ (s : State) (p : Packet) (n : Nat), isSeal s p 4 = true → rollsTo s p n → s.sealing.lastTarget = some n → 2 ≤ s.sealing.tries →
    ∃ t, exec (.sealRollback p) s = .next t ∧ t.iv = s.iv ∧ t.devReg 0x304 = s.devReg 0x304 ∧ t.tasks = s.tasks ∧
      ∀ q ∈ s.tasks, n < q.iv → (s.ctx q.ctx).st ≠ .free → (t.ctx q.ctx).st = .stopped) ∧
  (∀ (s : State) (p : Packet), isSeal s p 4 = true → s.leader = false → p.src ≠ (s.link (upLink s)).peer →
    ∃ t, exec (.sealRollback p) s = .next t ∧ t.iv = s.iv ∧ t.sentPkts = s.sentPkts ++ [(upLink s, sealPacket s 4 p.iv)]) ∧
  (∀ (s : State) (w : RegWrite), writesTo s w 0x30D → wbits w.val 63 61 = 1 →
    ∃ t, exec (.rbctlRollback w) s = .next t ∧
      (s.triageHost = true → s.leader = true → s.sealing.rolling = false → (∃ d ∈ s.dies, ∃ j ∈ d.2.journal, s.sealed < j.iv) →
        t.sealing.rolling = true ∧ t.sealMsgs = s.sealMsgs ++ [sealPacket s 4 0] ∧ wbit (t.devReg 0x30D) 60 = false) ∧
      ((s.triageHost = false ∨ s.leader = false ∨ s.sealing.rolling = true ∨ ∀ d ∈ s.dies, ∀ j ∈ d.2.journal, j.iv ≤ s.sealed) →
        t.sealing = s.sealing ∧ t.sealMsgs = s.sealMsgs ∧ wbit (t.devReg 0x30D) 60 = true)) ∧
  (∀ (s : State) (w : RegWrite), writesTo s w 0x30D → wbits w.val 63 61 = 2 → let c := clKey (wbits w.val 10 8) (wbits w.val 5 0)
    ∃ t, exec (.rbctlRetire w) s = .next t ∧
      (s.triageHost = true → (tabGet s.clTab c).out = false → c ∈ t.fw.retire ∧ wbit (t.devReg 0x30D) 60 = false) ∧
      ((s.triageHost = false ∨ (tabGet s.clTab c).out = true) → t.fw.retire = s.fw.retire ∧ wbit (t.devReg 0x30D) 60 = true)) ∧
  (∀ (s : State) (x n code : Nat) (kr : KRef), n < 64 → let k := regKey x n
    let r := s.region k
    let c := clKey r.die (r.cluster 0)
    r.kref = some kr →
    (∀ img, mayReplay s k = true → imageOf s r.die x kr.image = some img →
      ∃ t, exec (.regionReplay x n code) s = .next t ∧ (t.region k).replays = r.replays + 1 ∧ (t.region k).nonIdem = false ∧
        ∃ v, (t.region k).kref = some v ∧ v.depth = kr.depth ∧ v.image = img.addr ∧ v.cont = kr.cont ∧ v.args = kr.args) ∧
    (mayReplay s k = false →
      exec (.regionReplay x n code) s = .next (takeFault (countFault s x k) x 0 0x53 { die := r.die, cl := r.cluster 0, attempt := r.replays })) ∧
    (s.triageHost = false → 2 ≤ ((tabGet s.clTab c).faults.filter fun t => s.clk < t + 2 ^ 31).length →
      ∃ t, exec (.regionReplay x n code) s = .next t ∧ c ∈ t.fw.retire)) ∧
  (∀ (s : State) (d c : Nat), let k := clKey d c
    k ∈ s.fw.retire → (∀ x ∈ clusterCtxs s d c, (s.ctx x).st = .idle ∨ (s.ctx x).st = .saved ∨ (s.ctx x).st = .stopped) →
    ∃ t, exec (.clusterRetirement d c) s = .next t ∧ k ∉ t.fw.retire ∧
      (spareTaken s d (quadrant c) = false → (tabGet t.clTab k).spare = true ∧
        ∀ x ∈ clusterCtxs s d c, (s.ctx x).st = .saved → (t.ctx x).resume = true) ∧
      (spareTaken s d (quadrant c) = true → (tabGet t.clTab k).out = true ∧
        ∀ r ∈ t.regions, r.2.die = d → c ∈ r.2.clusters → r.2.outOfService = true)) ∧
  (∀ (s : State) (d c x : Nat), clKey d c ∈ s.fw.retire → clusterCtxs s d c = [x] → (s.ctx x).st = .running →
    noSave s x = false → ∃ t, exec (.clusterRetirement d c) s = .next t ∧ (t.ctx x).st = .checkpointing ∧ clKey d c ∈ t.fw.retire)

/-! ### Links and packets (R378-R384, R390, R393) -/

namespace Sys2Proof.Claims

/-- A write of dev.lctlN with a command (R380). -/
def linkCommand (s : State) (w : RegWrite) (n c : Nat) : Prop := n < 18 ∧ writesTo s w (0x320 + n) ∧ wbits w.val 63 61 = c

/-- A packet comes by a usable link, and does not wait here already (R379). -/
def arrivesFirst (s : State) (n : Nat) (p : Packet) : Prop := arrives s n = true ∧ atShore s n p = false ∧ inRx s n p = false

/-- A unicast packet of a kind reaches this device on a usable link, its data not poisoned (R378, R383). -/
def reaches (s : State) (n : Nat) (p : Packet) (typ : BitVec 8) : Prop :=
  arrivesFirst s n p ∧ p.typ = typ ∧ p.mc = false ∧ p.dst = s.devId ∧ p.src ≠ s.devId ∧ p.p = false

/-- The next packet of its flow (R379). -/
def inTurn (s : State) (p : Packet) : Prop := p.flow = (flowIn s p).next

/-- A VALUE answers a request of this device (R387): in the first pool of its context that has its root at the sender and such a
request, the first one of its flow and unit; none of the pool's requests has an answer yet. -/
def askedBy (s : State) (p : Packet) (k : Nat) (q : Pool) (w : Wait) : Prop :=
  let mine := fun (w : Wait) => w.remote && w.res.isNone && w.flow == fld p.body 0 4 && askerUnit s w.asker == p.unit
  (s.pools.find? fun e => e.1 / 512 == p.ctx && e.2.map.getD 0 0 == p.src && e.2.waits.any mine) = some (k, q) ∧
  q.waits.find? mine = some w ∧ ∀ v ∈ q.waits, v.res = none ∧ (v.id = w.id → v = w)

/-- A state in which this device has answered a packet with ACK. -/
def acked (s t : State) (p : Packet) (status : Nat) : Prop :=
  ∃ m, (m, { ackOf p status with src := s.devId, dst := p.src }) ∈ t.sentPkts

end Sys2Proof.Claims

/-- R380, R381 and R393: the events of a link by its state: enable, trained, disable, retrain, release, a lost lane, the
retransmissions that quarantine it, a silent peer; what a lost link carried goes again by another; a flow that waits 2^20
cycles brings its context one notice. When LINK switches is the model's choice (log 113). -/
def Obligations.LinkEvents : Prop :=
  (∀ (s : State) (w : RegWrite) (n : Nat), linkCommand s w n 1 → let l := s.link n
    ∃ t, exec (.linkEnable w) s = .next t ∧ wbits (t.devReg (0x320 + n)) 15 0 = wbits w.val 15 0 ∧
      ((l.st = .off ∨ l.st = .down) → (t.link n).st = .train ∧ (t.link n).host = wbit (s.devReg 0x305) 4 ∧
        ((∀ e ∈ s.links, e.1 = n ∨ e.2.st = .off ∨ e.2.st = .down ∨ e.2.host = wbit (s.devReg 0x305) 4) →
          t.linkHost = wbit (s.devReg 0x305) 4)) ∧
      (l.st ≠ .off → l.st ≠ .down → t.link n = l)) ∧
  (∀ (s : State) (w : RegWrite) (n : Nat), linkCommand s w n 2 → ∃ t, exec (.linkDisable w) s = .next t ∧ (t.link n).st = .off) ∧
  (∀ (s : State) (w : RegWrite) (n : Nat), linkCommand s w n 3 → let l := s.link n
    ∃ t, exec (.linkRelease w) s = .next t ∧ (l.st = .quiet → (t.link n).st = .train ∧ (t.link n).retries = 0) ∧
      (l.st ≠ .quiet → t.link n = l)) ∧
  (∀ (s : State) (w : RegWrite) (n : Nat), linkCommand s w n 4 → let l := s.link n
    ∃ t, exec (.linkRetrain w) s = .next t ∧
      (linkUsable s n = true → minLanes t n ≤ lanesOf l.lanes → t.link n = { l with st := if lanesOf l.lanes = 8 then .up else .degraded }) ∧
      (linkUsable s n = false → t.link n = l)) ∧
  (∀ (s : State) (n lanes peer pl rtt : Nat), n < 18 → let l := s.link n
    (l.st ≠ .train → exec (.linkTrained n lanes peer pl rtt) s = .next s) ∧
    (l.st = .train → ∃ t, exec (.linkTrained n lanes peer pl rtt) s = .next t ∧
      (lanesOf lanes < minLanes s n → t.link n = { l with st := .down }) ∧
      (minLanes s n ≤ lanesOf lanes → (t.link n).st = (if lanesOf lanes = 8 then .up else .degraded) ∧ (t.link n).lanes = lanes % 256 ∧
        (t.link n).peer = peer % 4096 ∧ (t.link n).peerLink = pl % 32 ∧ (t.link n).rtt = rtt))) ∧
  (∀ (s : State) (n lanes : Nat), n < 18 → linkUsable s n = true → let left := (s.link n).lanes &&& lanes
    left ≠ (s.link n).lanes → ∃ t, exec (.laneLost n lanes) s = .next t ∧ (t.link n).lanes = left ∧
      (t.link n).st = (if lanesOf left < minLanes s n then .down else if lanesOf left = 8 then .up else .degraded)) ∧
  (∀ (s : State) (n : Nat), n < 18 → linkUsable s n = true →
    (quarantineAt s n ≠ 0 → quarantineAt s n ≤ (s.link n).window →
      ∃ t, exec (.linkQuarantine n) s = .next t ∧ (t.link n).st = .quiet) ∧
    ((quarantineAt s n = 0 ∨ (s.link n).window < quarantineAt s n) → exec (.linkQuarantine n) s = .next s) ∧
    (s.clk < (s.link n).seen + 2 ^ 20 → exec (.peerSilentTimeout n) s = .next s) ∧
    ((s.link n).seen + 2 ^ 20 ≤ s.clk → ∃ t, exec (.peerSilentTimeout n) s = .next t ∧ (t.link n).st = .down ∧
      ∀ f ∈ s.flows, f.mc = false → f.dev ≠ s.devId → (∃ x ∈ f.unacked, firstHop s f.dev x.links = some n) →
        (∀ y ∈ f.unacked, (firstHop t f.dev y.links).isSome = true) →
        ∀ x ∈ f.unacked, ∃ m ≠ n, firstHop t f.dev x.links = some m ∧ (m, x.pkt) ∈ t.sentPkts) ∧
    (∃ t, exec (.flitRetransmit n) s = .next t ∧
      t.link n = { s.link n with retries := min 0xFFFF ((s.link n).retries + 1), window := (s.link n).window + 1 } ∧
      t = { s with links := t.links })) ∧
  (∀ (s : State) (k x c : Nat) (f : Flow) (y : Sent), (s.flows.find? fun f => f.id == k) = some f → f.stuck = some c → f.told = false →
    c + 2 ^ 20 ≤ s.clk → f.unacked = [y] → y.src = some x →
    exec (.linkFlowTimeout k) s = .next (takeNotice { s with flows := listMod (fun g => g.id == k) (fun g => { g with told := true }) s.flows }
      x 0x80 { pendSite { who := y.who } with addr := BitVec.ofNat 64 f.dev }))

/-- R378, R379, R383, R387, R390 and R393: what a device does with each kind of packet that arrives in turn, with a packet out of
turn, with one for another device and with poison; and what a link engine sends. What a token that lands depends on is the model's
reading (log 102). -/
def Obligations.PacketArrivals : Prop :=
  (∀ (s : State) (n : Nat) (p : Packet), reaches s n p pkTOKEN → inTurn s p → shoreOf s p = [] →
    (∀ d, landing s p = .lands d → ∃ t f, exec (.tokenPkt n p) s = .next t ∧ t.flight = s.flight ++ [f] ∧ f.dst = d ∧
      f.item = .tok { tokenOf p.body with deps := [s.nextId + 1] } ∧ acked s t p 0 ∧ (flowIn t p).next = p.flow + 1) ∧
    (landing s p = .refused → ∃ t, exec (.tokenPkt n p) s = .next t ∧ t.flight = s.flight ∧ acked s t p 0x11 ∧
      (flowIn t p).next = p.flow + 1) ∧
    (landing s p = .held → ∃ t, exec (.tokenPkt n p) s = .next t ∧ t.flight = s.flight ∧ t.shore = s.shore ++ [{ link := n, pkt := p }] ∧
      (flowIn t p).next = p.flow + 1)) ∧
  (∀ (s : State) (n : Nat) (p : Packet), reaches s n p pkTOKEN → inTurn s p → landing s p = .held → (shoreOf s p).length = 255 →
    (flowIn s p).off = false → ∃ t m, exec (.tokenPkt n p) s = .next t ∧ (flowIn t p).off = true ∧
      (m, { typ := pkCTL, ctx := p.ctx, unit := p.unit, body := bytesOf 4 0 ++ bytesOf 4 1, src := s.devId, dst := p.src }) ∈ t.sentPkts) ∧
  (∀ (s : State) (n : Nat) (p : Packet), reaches s n p pkTOKEN →
    ((flowIn s p).next < p.flow → ∃ t, exec (.tokenPkt n p) s = .next t ∧ t = { s with links := t.links, rx := t.rx } ∧
      t.rx = s.rx ++ [{ link := n, pkt := p }]) ∧
    (p.flow < (flowIn s p).next → (∀ e ∈ s.shore, e.pkt ≠ p) → ∃ t, exec (.tokenPkt n p) s = .next t ∧ acked s t p 0 ∧
      t = { s with links := t.links, sentPkts := t.sentPkts })) ∧
  (∀ (s : State) (n : Nat) (p : Packet) (d : Dest), inRx s n p = true → atShore s n p = false → p.typ = pkTOKEN → p.mc = false →
    p.dst = s.devId → p.src ≠ s.devId → p.p = false → inTurn s p → shoreOf s p = [] → n < 18 → landing s p = .lands d →
    ∃ t f, exec (.tokenPkt n p) s = .next t ∧ t.flight = s.flight ++ [f] ∧ f.dst = d ∧ f.item = .tok { tokenOf p.body with deps := [s.nextId + 1] } ∧
      acked s t p 0 ∧ (flowIn t p).next = p.flow + 1 ∧ t.rx = s.rx.erase { link := n, pkt := p }) ∧
  (∀ (s : State) (n : Nat) (p : Packet), arrivesFirst s n p → p.mc = false → p.dst = s.devId → p.p = true → s.triageHost = false →
    (p.typ = pkTOKEN → exec (.tokenPkt n p) s = .next (requestRollback (heard s n))) ∧
    (p.typ = pkWRITE → ctxWaits s p.ctx = false → exec (.writePkt n p) s = .next (requestRollback (heard s n)))) ∧
  (∀ (s : State) (n : Nat) (p : Packet), arrivesFirst s n p → p.mc = false → p.dst = s.devId → p.p = true → s.triageHost = true →
    (s.ctx p.ctx).st = .running → p.typ = pkTOKEN → exec (.tokenPkt n p) s =
      .next (takeFault (heard s n) p.ctx 0 0x50 { die := homeOf s p.ctx, tarn := 0xFE, iv := p.iv })) ∧
  (∀ (s : State) (n m : Nat) (p : Packet), arrivesFirst s n p → p.mc = false → p.dst ≠ s.devId → p.typ = pkPART →
    firstHop s p.dst 0 = some m → exec (.partPkt n p) s = .next (onLink (heard s n) m p)) ∧
  (∀ (s a : State) (n c : Nat) (p : Packet), reaches s n p pkWRITE → inTurn s p → ctxWaits s p.ctx = false →
    writeRemote (heard s n) p = some (c, a) → ∃ t, exec (.writePkt n p) s = .next t ∧ acked s t p c ∧ t.mem = a.mem ∧
      (flowIn t p).next = p.flow + 1) ∧
  (∀ (s : State) (n : Nat) (p : Packet), reaches s n p pkPART → inTurn s p →
    (s.pool? p.ctx (fld p.body 0 4 % 512) = none →
      exec (.partPkt n p) s = .next { heard s n with rx := s.rx ++ [{ link := n, pkt := p }] }) ∧
    (∀ q, s.pool? p.ctx (fld p.body 0 4 % 512) = some q → ∃ t, exec (.partPkt n p) s = .next t ∧ acked s t p 0 ∧
      (partWhole q (fld p.body 10 2) (((flowIn s p).part ++ [p]).flatMap (·.data)) = false →
        (flowIn t p).part = (flowIn s p).part ++ [p] ∧ t.pools = s.pools) ∧
      (partWhole q (fld p.body 10 2) (((flowIn s p).part ++ [p]).flatMap (·.data)) = true → (flowIn t p).part = []))) ∧
  (∀ (s : State) (n : Nat) (p : Packet) (k : WaitKind), reaches s n p pkPOOLOP → inTurn s p → poolopKind (fld p.body 0 1) = some k →
    (s.pool? p.ctx (fld p.body 8 2) = none → ∃ t m, exec (.poolopPkt n p) s = .next t ∧ acked s t p 0 ∧
      (m, { valuePacket {} false p.flow (fld p.body 4 4) p.ctx (.fault 0x33 0 {}) with src := s.devId, dst := p.src }) ∈ t.sentPkts) ∧
    (∀ q, s.pool? p.ctx (fld p.body 8 2) = some q → poolTakes q = true → ∃ t, exec (.poolopPkt n p) s = .next t ∧ acked s t p 0)) ∧
  (∀ (s : State) (n : Nat) (p : Packet), reaches s n p pkVALUE → s.pools = [] → exec (.valuePkt n p) s = .next (heard s n)) ∧
  (∀ (s : State) (n k : Nat) (p : Packet) (q : Pool) (w : Wait), reaches s n p pkVALUE → askedBy s p k q w →
    (∀ f j, w.asker = .fire f j → ∃ t r d, exec (.valuePkt n p) s = .next t ∧ t.pool? p.ctx (k % 512) = some (setRes q w.id r) ∧
      r = (if fld p.body 4 4 ≠ 0 then .fault (fld p.body 4 4) 0 (contribOf p.data)
           else if w.kind = .pset then .value [] p.x [d]
           else if w.kind = .pstat then .value [BitVec.ofNat 64 (fld p.data 0 8)] p.x [d]
           else .value (elemsOf (poolTy q.decl) q.decl.len p.data) p.x [d])) ∧
    (∀ j, w.asker = .pend j → w.kind = .pset → fld p.body 4 4 = 0 →
      ∃ t, exec (.valuePkt n p) s = .next t ∧ j ∉ t.outstanding ∧ j ∉ t.pend.map (·.id))) ∧
  (∀ (s : State) (n : Nat) (p : Packet) (f : Flow) (x : Sent) (u o y : Nat), reaches s n p pkACK → s.mcAcks = [] → s.flows = [f] →
    f.dev = p.src → f.mc = false → f.unit = p.unit → f.ctx = p.ctx → f.unacked = [x] → x.pkt.flow = fld p.body 0 4 →
    x.who = .oper u o → x.src = some y →
    ∃ t, exec (.ackPkt n p) s = .next t ∧ t.flows = [{ f with unacked := [] }] ∧
      (fld p.body 4 4 ≠ 0 → (s.ctx y).st = .running → y ≠ fwCtx → (t.ctx y).st = .stopped) ∧
      (fld p.body 4 4 = 0 → ∀ z, t.ctx z = s.ctx z)) ∧
  (∀ (s : State) (n : Nat) (p : Packet), reaches s n p pkCTL →
    ∃ t, exec (.ctlPkt n p) s = .next t ∧ t.flows = s.flows.map fun (f : Flow) =>
      if f.unit = p.unit ∧ f.ctx = p.ctx ∧ (f.mc = true ∨ f.dev = p.src) then { f with off := fld p.body 4 1 % 2 == 1 } else f) ∧
  (∀ (s : State) (n : Nat) (p : Packet), arrives s n = true → knownType p.typ = false →
    ∃ t, exec (.otherTypePacket n p) s = .next t ∧ t = { s with links := t.links } ∧
      t.link n = { s.link n with seen := s.clk, retries := min 0xFFFF ((s.link n).retries + 1) }) ∧
  (∀ (s a b c : State) (n : Nat) (j : LinkJob) (r : Route) (gs : List (Nat × Nat × Nat)) (bs : List Byte) (bad : Bool) (ids : List Nat),
    linkHead s n = some j → j.pos < j.bytes → readRoute s (linkDie n) j.ctx j.route = .ok r a → r.mc = false → noDevice a r.dev = false →
    let k := min 2048 (j.bytes - j.pos)
    reachAll a { d := linkDie n, x := j.ctx, who := .link n, site := linkSite a j } kLoad (vCuts (k / 64 + 2) (j.src + j.pos) k) = .ok gs b →
    readSegs b j.floor j.since gs = (bs, bad, ids, c) → bs.length ≤ 2048 →
    ∃ t, exec (.mcopyWriteSend n) s = .next t ∧ ∃ f ∈ t.flows, ∃ x ∈ f.unacked, f.dev = r.dev ∧ x.who = .link n ∧ x.src = some j.ctx ∧
      x.pkt.typ = pkWRITE ∧ x.pkt.dst = r.dev ∧ x.pkt.ctx = r.ctx ∧ x.pkt.iv = j.iv ∧ x.pkt.p = bad ∧ x.pkt.data = bs ∧
      x.pkt.body = bytesOf 8 (j.dst + j.pos) ++ bytesOf 2 k)

/-! ### Partitions, functions and firmware (R282, R397-R402, R406-R409) -/

namespace Sys2Proof.Claims

/-- A write of dev.pctl with a command (R398), while none is in progress. -/
def partCommand (s : State) (w : RegWrite) (c : Nat) : Prop := writesTo s w 0x307 ∧ wbits w.val 63 61 = c ∧ pctlBusy s = false

/-- The function of an active partition asks for a command, and none of it is in progress (R402). -/
def fnAsks (s : State) (fn p : Nat) (val : Word) (c : Nat) : Prop :=
  fn < 32 ∧ fnPart s fn = some p ∧ wbits val 63 61 = c ∧ (tabGet s.fns fn).busy = false

/-- Every core starts its kernel of a slot's image from the beginning (R412): nothing of an earlier run is left. -/
def coresFresh (b : Bool) (t : State) : Prop :=
  ∀ k < 8, (t.unit (coreKey k)).store = [coreEntry b k] ∧ (t.unit (coreKey k)).scratch = [] ∧ (t.unit (coreKey k)).cur = none ∧
    ∀ o q, tabGet? (t.unit (coreKey k)).plane.ops o = some q → q.chans = [] ∧ ∀ g ∈ q.firings, g.st = .ready ∧ g.started = false

end Sys2Proof.Claims

/-- R282, R290, R397, R398, R400, R402: activate, release and resize of a partition; a function creates the lowest-numbered
free context over free clusters of its partition, and destroys one that is idle or stopped. -/
def Obligations.PartitionEvents : Prop :=
  (∀ (s : State) (w : RegWrite), partCommand s w 1 → let p := wbits w.val 3 0
    ∃ t, exec (.pctlActivate w) s = .next t ∧
      (entryOkFor s p = true → ptabByte s p 0 = 0 →
        ptabByte t p 0 = 1 ∧ wbit (t.devReg 0x307) 8 = false ∧ tabGet? t.parts p = some (entryBytes t p)) ∧
      ((entryOkFor s p = false ∨ ptabByte s p 0 ≠ 0) → t.mem = s.mem ∧ t.parts = s.parts ∧ wbit (t.devReg 0x307) 8 = true)) ∧
  (∀ (s : State) (w : RegWrite), partCommand s w 3 → let p := wbits w.val 3 0
    ∃ t, exec (.pctlRelease w) s = .next t ∧
      ((∀ c ∈ s.ctxs, c.2.st = .free ∨ c.2.part ≠ p) → ptabByte t p 0 = 0 ∧ tabGet? t.parts p = none ∧ wbit (t.devReg 0x307) 8 = false) ∧
      ((∃ c ∈ s.ctxs, c.2.st ≠ .free ∧ c.2.part = p) → t.mem = s.mem ∧ t.parts = s.parts ∧ wbit (t.devReg 0x307) 8 = true)) ∧
  (∀ (s : State) (w : RegWrite), partCommand s w 2 → let p := wbits w.val 3 0
    (∀ k < 256, offUndo s (ptabEntry s p + k)) →
    ∃ t, exec (.pctlResize w) s = .next t ∧
      (entryOkFor s p = false → t.mem = s.mem ∧ wbit (t.devReg 0x307) 8 = true) ∧
      (entryOkFor s p = true → movingCtxs s ((tabGet? s.parts p).getD []) (entryBytes s p) = [] → s.sealing.rolling = false →
        ptabByte t p 0 = 1 ∧ pctlBusy t = false ∧ wbit (t.devReg 0x307) 8 = false ∧ tabGet? t.parts p = some (entryBytes t p)) ∧
      (∀ x, entryOkFor s p = true → movingCtxs s ((tabGet? s.parts p).getD []) (entryBytes s p) = [x] → (s.ctx x).st = .running →
        noSave s x = false → ptabByte t p 0 = 2 ∧ pctlBusy t = true ∧ (t.ctx x).st = .checkpointing)) ∧
  (∀ (s : State) (w : RegWrite), writesTo s w 0x307 → pctlBusy s = true → wbits w.val 63 61 = 1 →
    ∃ t, exec (.pctlActivate w) s = .next t ∧ t.mem = s.mem ∧ t.parts = s.parts ∧ wbit (t.devReg 0x307) 8 = true ∧ pctlBusy t = true) ∧
  (∀ (s : State) (fn p x : Nat) (val : Word) (rows : List ListRow), fnAsks s fn p val 1 →
    regionList s (tabGet s.fns fn).list.toNat = some rows → ((upFrom 0 256).find? fun y => (s.ctx y).st == .free) = some x →
    ∃ t, exec (.fnReqCreate fn val) s = .next t ∧ (tabGet t.fns fn).busy = false ∧
      ((∀ r ∈ rows, rowOk s p r = true ∧ rowTaken s r = false) → (t.ctx x).st = .idle ∧ (t.ctx x).part = p ∧
        (t.ctx x).nreg = rows.length ∧ (tabGet t.fns fn).made = x ∧ (tabGet t.fns fn).err = false) ∧
      ((∃ r ∈ rows, rowOk s p r = false ∨ rowTaken s r = true) → t.ctxs = s.ctxs ∧ (tabGet t.fns fn).err = true ∧
        (tabGet t.fns fn).code = 0x21)) ∧
  (∀ (s : State) (fn p : Nat) (val : Word), fnAsks s fn p val 2 → let x := wbits val 7 0
    ∃ t, exec (.fnReqDestroy fn val) s = .next t ∧ (tabGet t.fns fn).busy = false ∧
      ((s.ctx x).part = p → ((s.ctx x).st = .idle ∨ (s.ctx x).st = .stopped) → (t.ctx x).st = .free ∧
        (∀ r ∈ t.regions, r.2.ctx ≠ x) ∧ (∀ q ∈ t.tasks, q.ctx ≠ x) ∧ (tabGet t.fns fn).err = false) ∧
      (((s.ctx x).part ≠ p ∨ ((s.ctx x).st ≠ .idle ∧ (s.ctx x).st ≠ .stopped)) → t.ctxs = s.ctxs ∧ (tabGet t.fns fn).err = true))

/-- R9, R406, R407, R408 and R409: a switch of images quiesces the queues; a watchdog that expires ends a trial or restarts
the image; a device reset keeps memory and flash; the responses of SPDM. Their codes, and what resets keep, are the model's
choice (log 33, log 34), as is that ACTIVE names the other slot when a reset boots that (log 105). -/
def Obligations.FirmwareEvents : Prop :=
  (∀ (s : State) (w : RegWrite), writesTo s w 0x308 → wbit w.val 4 = true →
    (s.fw.switching = false → s.fw.updating = false → ∃ t, exec (.fwSwitch w) s = .next t ∧ t.fw.switching = true ∧
      ∀ q, (s.queue q).st = .idle → (t.queue q).st = .quiesced) ∧
    ((s.fw.switching = true ∨ s.fw.updating = true) → exec (.fwSwitch w) s = .next s)) ∧
  (∀ (s : State), (s.fw.wdog = none → exec .watchdogExpiry s = .next s) ∧
    ∀ c, s.fw.wdog = some c →
      (s.clk < c → exec .watchdogExpiry s = .next s) ∧
      (c ≤ s.clk → ∃ t, exec .watchdogExpiry s = .next t ∧ coresFresh (activeSlot s) t ∧ t.fw.wdog = none ∧ trial t = false ∧
        (trial s = true → t.fw.slotB = activeSlot s ∧ ∀ x, t.ctxReg x 7 = s.ctxReg x 7))) ∧
  (∀ s : State, ∃ t, exec .deviceReset s = .next t ∧ t.mem = s.mem ∧ t.hostMem = s.hostMem ∧ t.iv = State.reset.iv ∧
    t.ctxs = State.reset.ctxs ∧ t.pend = [] ∧ t.flight = [] ∧ trial t = false ∧
    ((imageGood (activeSlot s) = true ∨ imageGood (!activeSlot s) = true) → coresFresh (activeSlot t) t) ∧
    (imageGood (activeSlot s) = false → imageGood (!activeSlot s) = false → ∀ k < 8, tabGet? t.units (coreKey k) = none) ∧
    (imageGood (activeSlot s) = true → t.fw.slotB = activeSlot s ∧ activeSlot t = activeSlot s) ∧
    (imageGood (activeSlot s) = false → imageGood (!activeSlot s) = true → t.fw.slotB = !activeSlot s ∧ activeSlot t = !activeSlot s) ∧
    (∀ b, imageGood b = true → t.fw.slotB = b → activeSlot t = b → ∀ k < 8,
      t.devReg (0x380 + k) = BitVec.ofNat 64 (fld (sha512 (measBytes State.reset 0 ++ slotDigest b)) (8 * k) 8))) ∧
  (∀ (s : State) (pf slot off len op hash sign : Nat) (nonce : List Byte),
    (pf < 2 → exec (.getVersion pf) s = .next { s with spdm := s.spdm ++ [{ pf := pf, code := 4, body := [0, 1, 0, 0x13] }] }) ∧
    (pf < 2 → ∃ t b, exec (.getCapabilities pf) s = .next t ∧ t.spdm = s.spdm ++ [{ pf := pf, code := 0x61, body := b }]) ∧
    (pf < 2 → ∃ t b, exec (.negotiateAlgorithms pf hash sign) s = .next t ∧ t.spdm = s.spdm ++ [{ pf := pf, code := 0x63, body := b }]) ∧
    (pf < 2 → ∃ t b, exec (.getDigests pf) s = .next t ∧ t.spdm = s.spdm ++ [{ pf := pf, code := 1, body := b }]) ∧
    (pf < 2 → ∃ t b, exec (.getCertificate pf slot off len) s = .next t ∧ t.spdm = s.spdm ++ [{ pf := pf, code := 2, body := b }] ∧
      b.length ≤ len % 65536) ∧
    (pf < 2 → ∃ t b, exec (.challenge pf slot nonce) s = .next t ∧ t.spdm = s.spdm ++ [{ pf := pf, code := 3, body := nonce.take 32 ++ b }]) ∧
    (pf < 2 → 0 < op → op < 16 → ∃ t b, exec (.getMeasurements pf op) s = .next t ∧
      t.spdm = s.spdm ++ [{ pf := pf, code := 0x60, body := [1, BitVec.ofNat 8 op] ++ measBytes s op ++ b }]) ∧
    (2 ≤ pf → exec (.getVersion pf) s = .next s ∧ exec (.getMeasurements pf op) s = .next s))

/-! ### Words, steps, reset and frames (R8, R9, R53-R57, R66, R158, R339, R342, R380, R404) -/

namespace Sys2Proof.Claims

/-- The guard-capable opcodes of R66. -/
def guardOpcode (op : Nat) : Bool :=
  op == 0x05 || op == 0x07 || (0x60 ≤ op && op ≤ 0x6B) || op == 0x81 || op == 0x82 || op == 0x8E || (0x90 ≤ op && op ≤ 0x97)
  || (0xA0 ≤ op && op ≤ 0xA9) || (0xB0 ≤ op && op ≤ 0xBD) || (0xC0 ≤ op && op ≤ 0xC8)

/-- The guard-capable opcodes that are side effects (R66). -/
def sideOpcode (op : Nat) : Bool := guardOpcode op && !(op == 0x07 || op == 0x60 || op == 0x62)

/-- The guard of R56 on its token: none when it decides nothing, or whether the instruction performs. -/
def performs (g : Guard) (t : Token) : Prop :=
  match g with
  | .always | .order => True
  | .ifTrue => t.pay ≠ 0 ∧ t.n = false
  | .ifFalse => t.pay = 0 ∧ t.n = false

/-- Words that compute from their operand tokens and the state registers alone: the integer and float opcodes, and the moves
and branches that no other rule of their own stops. -/
def computes : Instr → Bool
  | .mov _ _ | .movi _ _ | .movk _ _ | .rd _ _ | .wr _ _ | .sel _ _ | .br _ _ | .null _ _ | .tagfree _ _ | .gettag _ _
  | .count _ _ | .rix _ _ | .add _ _ | .sub _ _ | .mul _ _ | .mulh _ _ | .div _ _ | .rem _ _ | .min _ _ | .max _ _ | .abs _ _
  | .neg _ _ | .adds _ _ | .subs _ _ | .and _ _ | .or _ _ | .xor _ _ | .andn _ _ | .shl _ _ | .shr _ _ | .rot _ _ | .clz _ _
  | .popc _ _ | .bfx _ _ | .bfi _ _ | .cmp _ _ | .cvti _ _ | .mad _ _ | .fadd _ _ | .fsub _ _ | .fmul _ _ | .fma _ _ | .fdiv _ _
  | .sqrt _ _ | .rcp _ _ | .rsq _ _ | .ex2 _ _ | .lg2 _ _ | .fmin _ _ | .fmax _ _ | .fabs _ _ | .fneg _ _ | .fcmp _ _
  | .fclass _ _ | .cvtf _ _ | .cvtfi _ _ | .cvtif _ _ | .fscale _ _ => true
  | _ => false

/-- Only one firing differs: its unit keeps everything else, and so does the device. -/
def onlyFiring (s t : State) (f : FireRef) : Prop :=
  t = { s with units := t.units } ∧ (∀ v, v ≠ f.u → t.unit v = s.unit v) ∧
  t.unit f.u = { s.unit f.u with plane := { (s.unit f.u).plane with ops := (t.unit f.u).plane.ops } } ∧
  (∀ o, o ≠ f.op → t.op? f.u o = s.op? f.u o) ∧ (∀ q, s.op? f.u f.op = some q →
    ∃ gs, t.op? f.u f.op = some { q with firings := gs }) ∧
  (∀ n, n ≠ f.fr → t.firing? { f with fr := n } = s.firing? { f with fr := n })

/-- The steps of the device that touch no memory and no context: power, shares, tag grants, aging and link states. -/
def quiet : Instr → Bool
  | .governorPeriod _ _ | .leaveGrant _ | .dramOvertemp _ _ _ | .shareReweight _ | .causeClears _
  | .tagGrant _ _ _ | .nodeAging _ _ | .linkTrained _ _ _ _ _ | .laneLost _ _ | .linkQuarantine _ | .peerSilentTimeout _
  | .flitRetransmit _ | .ctlPkt _ _ | .otherTypePacket _ _ | .getVersion _ | .getCapabilities _ | .negotiateAlgorithms _ _ _
  | .getDigests _ | .getCertificate _ _ _ _ | .challenge _ _ _ | .getMeasurements _ _ => true
  | _ => false

end Sys2Proof.Claims

/-- R53, R54, R58 and R65: encoding and decoding are each other's inverse on well-formed words: the decoder reads back
every well-formed instruction from the word the encoder writes, and whatever word it reads is the one the encoder
writes for what it read. -/
def Obligations.DecodeEncodeAgree : Prop :=
  (∀ i : Instr, (wordParts i).isSome = true → wellFormed i = true → ∃ w, encode i = some w ∧ decode w = .instr i) ∧
  (∀ (w : Word) (i : Instr), decode w = .instr i → encode i = some w ∧ wellFormed i = true)

/-- R53, R119, R125, R192, R219 and R363: where each field of a word stands; words that the spec assembles decode to their
instructions; an unassigned opcode, an unused target that is not zero and a type outside the set are refused by name. -/
def Obligations.DecodedWords : Prop :=
  (∀ (i : Instr) (op : Nat) (h : Hdr) (lo : BitVec 28), wordParts i = some (op, h, lo) → ∃ w, encode i = some w ∧
    (w.extractLsb' 56 8).toNat = op ∧ (w.extractLsb' 52 4).toNat = h.ty.code ∧ w.extractLsb' 50 2 = guardBits h.g ∧
    w.extractLsb' 48 2 = h.ar ∧ w.extractLsb' 0 28 = lo ∧
    (∀ t, h.t0 = some t → w.getLsbD 47 = true ∧ w.extractLsb' 45 2 = posBits t.pos ∧ w.extractLsb' 38 7 = t.slot) ∧
    (h.t0 = none → w.extractLsb' 38 10 = 0) ∧
    (∀ t, h.t1 = some t → w.getLsbD 37 = true ∧ w.extractLsb' 35 2 = posBits t.pos ∧ w.extractLsb' 28 7 = t.slot) ∧
    (h.t1 = none → w.extractLsb' 28 10 = 0)) ∧
  decode 0x02208040087FFF6A = .instr (.movi ⟨.i32, .always, 0, some ⟨.l, 1⟩, none⟩ ⟨true, 0, 0x7FFF6A⟩) ∧
  decode 0x0331808009804B80 = .instr (.movk ⟨.i64, .always, 1, some ⟨.l, 2⟩, none⟩ ⟨true, 3, 0x4B80⟩) ∧
  decode 0x3801814005000000 = .instr (.cvti ⟨.i8, .always, 1, some ⟨.l, 5⟩, none⟩ ⟨false, 10, 0⟩) ∧
  decode 0x90A1E04000070000 = .instr (.pdecl ⟨.f32, .always, 1, some ⟨.g, 1⟩, none⟩ ⟨7, 0⟩) ∧
  decode 0x84F3810000148000 = .instr (.mma ⟨.none, .always, 3, some ⟨.l, 4⟩, none⟩ ⟨0, 1, 2, false, true, false, 0⟩) ∧
  decode 0xBCFE000000000000 = .instr (.irrev ⟨.none, .order, 2, none, none⟩ ⟨0, 0⟩) ∧
  decode 0 = .refused 1 ∧ decode 0x1220000008000000 = .refused 1 ∧
  decode 0x022080400A7FFF6A = .refused 2 ∧
  decode 0x02200001087FFF6A = .refused 2 ∧ decode 0x02A08040087FFF6A = .refused 5

/-- A step runs the first move of the agenda: a fetch reads the slot's word, and when it decodes runs its instruction with the
focus on the slot; a step of the device runs itself, but a selection only when the unit's operator stalls as it says (R102); a
tick moves the clock; the host writes its memory and reads. With an empty agenda it performs one of the candidates (log 1). -/
def Obligations.StepRunsDecoded : Prop :=
  (∀ (s : State) (f : FireRef) (slot : Nat) (r : List Move), s.agenda = .fetch f slot :: r →
    (canFetch s f = false → step s = .next { s with agenda := r }) ∧
    (canFetch s f = true → fetchWord s f slot = none → step s = .fault .noWord) ∧
    (∀ w, canFetch s f = true → fetchWord s f slot = some w →
      (∀ i, decode w = .instr i → step s = exec i (focusOn { s with agenda := r } f slot)) ∧
      (∀ c, decode w = .refused c → step s = .fault (.badWord w)))) ∧
  (∀ (s : State) (i : Instr) (r : List Move), s.agenda = .event i :: r →
    let v := { s with agenda := r }
    (wordParts i = none → (∀ u b, i ≠ .firingSelection u b) → step s = exec i v) ∧
    (∀ u b, i = .firingSelection u b → (v.unit u).cur ≠ none →
      (issueStuck v u = b → step s = exec i v) ∧ (issueStuck v u ≠ b → awaitsLoad v u = false → step s = .next v)) ∧
    ((wordParts i).isSome = true → step s = .next v)) ∧
  (∀ (s : State) (n : Nat) (r : List Move), s.agenda = .tick n :: r → s.clk + n < 2 ^ 64 →
    (∀ q ∈ s.queues, ∀ p ∈ q.2.pkts, fld p.bytes 0 1 = 5 → p.met = true ∨ s.clk + n < p.lastRead + 65536) →
    (∀ k ∈ s.tasks, k.kind = 3 → s.clk + n < k.since + 65536) →
    ∃ t, step s = .next t ∧ t.clk = s.clk + n ∧ t.agenda = r ∧ t.mem = s.mem) ∧
  (∀ (s : State) (a : Nat) (bs : List Byte) (r : List Move), s.agenda = .hostStore a bs :: r →
    ∃ t, step s = .next t ∧ t.agenda = r ∧ t.mem = s.mem ∧
      ∀ k, memGet t.hostMem k = if a ≤ k ∧ k < a + bs.length then bs.getD (k - a) 0 else memGet s.hostMem k) ∧
  (∀ (s : State) (h : HostTarget) (r : List Move), s.agenda = .hostRead h :: r →
    ∃ t, step s = .next t ∧ t = { s with agenda := r, hostReads := t.hostReads }) ∧
  (∀ s : State, s.agenda = [] → ∃ m ∈ candidates s, step s = perform m { s with fresh := s.fresh + 1 })

/-- R9, R106, R146, R339, R342, R380 and R404: the state right after reset has the values these rules state; no context holds
anything, no queue is enabled, nothing is under way, and both memories are in their canonical form. -/
def Obligations.ResetState : Prop :=
  State.reset.iv = 1 ∧ State.reset.sealed = 0 ∧ State.reset.clk = 0 ∧ State.reset.leader = false ∧
  wbits (State.reset.devReg 0x302) 31 0 = 0x10000 ∧ State.reset.devReg 0x305 = 0 ∧
  (∀ n < 18, wbits (State.reset.devReg (0x320 + n)) 21 20 = 2 ∧ wbits (State.reset.devReg (0x320 + n)) 15 0 = 0x100 ∧
    (State.reset.link n).st = .off) ∧
  (∀ d < 8, wbits (State.reset.dieReg d 0x281) 7 0 = 255 ∧ wbits (State.reset.dieReg d 0x282) 15 0 = 290 ∧
    (State.reset.dieReg d 0x288).toNat = d * 0x1000000000 + 60 * 2 ^ 30 ∧ wbits (State.reset.dieReg d 0x289) 31 0 = 65536) ∧
  (∀ u, (State.reset.unit u).split = 0x1A04021002 ∧ (State.reset.unit u).width.toNat % 2 ^ 56 = 0) ∧
  (∀ x, (State.reset.ctx x).st = .free ∧ ∀ n, State.reset.ctxReg x n = 0) ∧ (∀ q, (State.reset.queue q).st = .disabled) ∧
  State.reset.flight = [] ∧ State.reset.pend = [] ∧ State.reset.agenda = [] ∧ Safety.memoriesOk State.reset = true

/-- R56: the guard token decides a guard-capable instruction; the verifier refuses a guard on any other. -/
def Obligations.GuardRule : Prop :=
  (∀ (w : Instr) (op : Nat) (h : Hdr) (lo : BitVec 28), wordParts w = some (op, h, lo) → h.g ≠ .always → guardOpcode op = false →
    Instr.check w = some 2) ∧
  (∀ (w : Instr) (op : Nat) (h : Hdr) (lo : BitVec 28) (s : State) (i : Issue), wordParts w = some (op, h, lo) →
    guardOpcode op = true → issueOf s h = some i → h.g ≠ .always →
    (sideOpcode op = true → i.g.p = true → exec w s = .next (blockFault s i.f i.slot 0x50 0)) ∧
    (¬ (sideOpcode op = true ∧ i.g.p = true) → ¬ performs h.g i.g → exec w s = .next (giveNull s i h)) ∧
    (¬ (sideOpcode op = true ∧ i.g.p = true) → performs h.g i.g → i.ns = false → i.ps = false →
      gate s h (sideOpcode op) = .run i)) ∧
  (∀ (s : State) (h : Hdr) (i : Issue) (g : Firing), s.firing? i.f = some g →
    ∃ g', (giveNull s i h).firing? i.f = some g' ∧ g'.fired = g.fired ++ [i.slot] ∧
      ∀ k, (h.t0 = some k ∨ h.t1 = some k) → ∃ t, tabGet? g'.pos (posKey k) = some t ∧ t.n = true ∧ t.pay = 0)

/-- R54, R57, R97 and R157: what an issue changes: a computing word changes its own firing and nothing else on the device; a
result reaches its targets; a released effect takes the next identity, is staged once and leaves the rest as it was. -/
def Obligations.IssueFrames : Prop :=
  (∀ (w : Instr) (s t : State), computes w = true → exec w s = .next t → onlyFiring s t s.focus) ∧
  (∀ (s : State) (i : Issue) (h : Hdr) (v : Token) (g : Firing), s.firing? i.f = some g → let t := give s i h v
    onlyFiring s t i.f ∧ ∃ g', t.firing? i.f = some g' ∧ g' = { g with fired := g.fired ++ [i.slot], pos := g'.pos } ∧
      (∀ k, (h.t0 = some k ∨ h.t1 = some k) → ∃ d, tabGet? g'.pos (posKey k) = some { v with deps := d } ∧
        ∀ n, n ∈ d ↔ ((n ∈ i.deps ∨ n ∈ v.deps) ∧ (n ∈ s.outstanding ∨ ∃ e ∈ s.done, e.id = n))) ∧
      (∀ n, (∀ k, (h.t0 = some k ∨ h.t1 = some k) → posKey k ≠ n) → tabGet? g'.pos n = tabGet? g.pos n)) ∧
  (∀ (s : State) (i : Issue) (h : Hdr) (e : Eff) (g : Firing), s.firing? i.f = some g → let t := complete s i h e
    onlyFiring { s with nextId := s.nextId + 1, outstanding := s.outstanding ++ [s.nextId] } t i.f ∧
    ∃ g', t.firing? i.f = some g' ∧ g'.fired = g.fired ++ [i.slot] ∧
      g' = { g with fired := g.fired ++ [i.slot], pos := g'.pos, staged := g'.staged } ∧
      ∃ c, g'.staged = g.staged ++ [c] ∧ c.id = s.nextId ∧ c.slot = i.slot ∧ c.eff = e)

/-- R252, R404, R326, R381 and R407: the steps of the device that move no data leave every byte of device and host memory,
poison, the pools and every context as they were. -/
def Obligations.QuietSteps : Prop :=
  ∀ (w : Instr) (s t : State), quiet w = true → exec w s = .next t →
    t.mem = s.mem ∧ t.hostMem = s.hostMem ∧ t.poison = s.poison ∧ t.pools = s.pools ∧ t.ctxs = s.ctxs ∧ t.iv = s.iv ∧
    t.sealed = s.sealed ∧ t.pend = s.pend

/-- Every step keeps device memory and host memory in the one canonical form of this model (log 6). -/
def Obligations.MemoriesStayCanonical : Prop :=
  ∀ s t : State, Safety.memoriesOk s = true → step s = .next t → Safety.memoriesOk t = true
end

