-- ==== Sys2Proof/Laws/Encoding.lean ====
section
/-! SUPPORT. The five forms and the header of a word: what is read back is what was written (R53, R54, R58). -/

namespace Sys2Proof

/-- The bits of a concatenation that lie in its low part. -/
theorem extract_low {n m k w : Nat} (a : BitVec n) (b : BitVec m) (h : k + w ≤ m) :
    (a ++ b).extractLsb' k w = b.extractLsb' k w := by
  apply BitVec.eq_of_getLsbD_eq
  intro i hi
  simp only [BitVec.getLsbD_extractLsb', hi, decide_true, Bool.true_and, BitVec.getLsbD_append]
  rw [if_pos (by omega)]

/-- The bits of a concatenation that lie in its high part. -/
theorem extract_high {n m k w : Nat} (a : BitVec n) (b : BitVec m) (h : m ≤ k) :
    (a ++ b).extractLsb' k w = a.extractLsb' (k - m) w := by
  apply BitVec.eq_of_getLsbD_eq
  intro i hi
  simp only [BitVec.getLsbD_extractLsb', hi, decide_true, Bool.true_and, BitVec.getLsbD_append]
  rw [if_neg (by omega)]
  congr 1; omega

theorem extract_all {n : Nat} (a : BitVec n) : a.extractLsb' 0 n = a := by
  apply BitVec.eq_of_getLsbD_eq; intro i hi; simp [hi]

theorem bit_high {n m k : Nat} (a : BitVec n) (b : BitVec m) (h : m ≤ k) : (a ++ b).getLsbD k = a.getLsbD (k - m) := by
  rw [BitVec.getLsbD_append, if_neg (by omega)]

theorem bit_low {n m k : Nat} (a : BitVec n) (b : BitVec m) (h : k < m) : (a ++ b).getLsbD k = b.getLsbD k := by
  rw [BitVec.getLsbD_append, if_pos h]

theorem formA_round (f : FormA) : formAOf (formABits f) = f := by
  obtain ⟨i, m, v⟩ := f
  simp only [formAOf, formABits, FormA.mk.injEq]
  refine ⟨?_, ?_, ?_⟩
  · exact (bit_high (n := 5) (m := 23) (k := 27) ((BitVec.ofBool i ++ m)) v (by decide)).trans ((bit_high (n := 1) (m := 4) (k := 4) (BitVec.ofBool i) m (by decide)).trans (by simp))
  · exact (extract_high (n := 5) (m := 23) (k := 23) (w := 4) ((BitVec.ofBool i ++ m)) v (by decide)).trans ((extract_low (n := 1) (m := 4) (k := 0) (w := 4) (BitVec.ofBool i) m (by decide)).trans (extract_all m))
  · exact (extract_low (n := 5) (m := 23) (k := 0) (w := 23) ((BitVec.ofBool i ++ m)) v (by decide)).trans (extract_all v)

theorem formM_round (f : FormM) : formMOf (formMBits f) = f := by
  obtain ⟨a, b, c, d⟩ := f
  simp only [formMOf, formMBits, FormM.mk.injEq]
  refine ⟨?_, ?_, ?_, ?_⟩
  · exact (extract_high (n := 10) (m := 18) (k := 25) (w := 3) (((a ++ b) ++ c)) d (by decide)).trans ((extract_high (n := 6) (m := 4) (k := 7) (w := 3) ((a ++ b)) c (by decide)).trans ((extract_high (n := 3) (m := 3) (k := 3) (w := 3) (a) b (by decide)).trans (extract_all a)))
  · exact (extract_high (n := 10) (m := 18) (k := 22) (w := 3) (((a ++ b) ++ c)) d (by decide)).trans ((extract_high (n := 6) (m := 4) (k := 4) (w := 3) ((a ++ b)) c (by decide)).trans ((extract_low (n := 3) (m := 3) (k := 0) (w := 3) (a) b (by decide)).trans (extract_all b)))
  · exact (extract_high (n := 10) (m := 18) (k := 18) (w := 4) (((a ++ b) ++ c)) d (by decide)).trans ((extract_low (n := 6) (m := 4) (k := 0) (w := 4) ((a ++ b)) c (by decide)).trans (extract_all c))
  · exact (extract_low (n := 10) (m := 18) (k := 0) (w := 18) (((a ++ b) ++ c)) d (by decide)).trans (extract_all d)

theorem formC_round (f : FormC) : formCOf (formCBits f) = f := by
  obtain ⟨a, b, c⟩ := f
  simp only [formCOf, formCBits, FormC.mk.injEq]
  refine ⟨?_, ?_, ?_⟩
  · exact (extract_high (n := 8) (m := 20) (k := 24) (w := 4) ((a ++ b)) c (by decide)).trans ((extract_high (n := 4) (m := 4) (k := 4) (w := 4) (a) b (by decide)).trans (extract_all a))
  · exact (extract_high (n := 8) (m := 20) (k := 20) (w := 4) ((a ++ b)) c (by decide)).trans ((extract_low (n := 4) (m := 4) (k := 0) (w := 4) (a) b (by decide)).trans (extract_all b))
  · exact (extract_low (n := 8) (m := 20) (k := 0) (w := 20) ((a ++ b)) c (by decide)).trans (extract_all c)

theorem formT_round (f : FormT) : formTOf (formTBits f) = f := by
  obtain ⟨a, b, c, d, e, g, p⟩ := f
  simp only [formTOf, formTBits, FormT.mk.injEq]
  refine ⟨?_, ?_, ?_, ?_, ?_, ?_, ?_⟩
  · exact (extract_high (n := 14) (m := 14) (k := 24) (w := 4) ((((((a ++ b) ++ c) ++ BitVec.ofBool d) ++ BitVec.ofBool e) ++ BitVec.ofBool g)) p (by decide)).trans ((extract_high (n := 13) (m := 1) (k := 10) (w := 4) (((((a ++ b) ++ c) ++ BitVec.ofBool d) ++ BitVec.ofBool e)) (BitVec.ofBool g) (by decide)).trans ((extract_high (n := 12) (m := 1) (k := 9) (w := 4) ((((a ++ b) ++ c) ++ BitVec.ofBool d)) (BitVec.ofBool e) (by decide)).trans ((extract_high (n := 11) (m := 1) (k := 8) (w := 4) (((a ++ b) ++ c)) (BitVec.ofBool d) (by decide)).trans ((extract_high (n := 8) (m := 3) (k := 7) (w := 4) ((a ++ b)) c (by decide)).trans ((extract_high (n := 4) (m := 4) (k := 4) (w := 4) (a) b (by decide)).trans (extract_all a))))))
  · exact (extract_high (n := 14) (m := 14) (k := 20) (w := 4) ((((((a ++ b) ++ c) ++ BitVec.ofBool d) ++ BitVec.ofBool e) ++ BitVec.ofBool g)) p (by decide)).trans ((extract_high (n := 13) (m := 1) (k := 6) (w := 4) (((((a ++ b) ++ c) ++ BitVec.ofBool d) ++ BitVec.ofBool e)) (BitVec.ofBool g) (by decide)).trans ((extract_high (n := 12) (m := 1) (k := 5) (w := 4) ((((a ++ b) ++ c) ++ BitVec.ofBool d)) (BitVec.ofBool e) (by decide)).trans ((extract_high (n := 11) (m := 1) (k := 4) (w := 4) (((a ++ b) ++ c)) (BitVec.ofBool d) (by decide)).trans ((extract_high (n := 8) (m := 3) (k := 3) (w := 4) ((a ++ b)) c (by decide)).trans ((extract_low (n := 4) (m := 4) (k := 0) (w := 4) (a) b (by decide)).trans (extract_all b))))))
  · exact (extract_high (n := 14) (m := 14) (k := 17) (w := 3) ((((((a ++ b) ++ c) ++ BitVec.ofBool d) ++ BitVec.ofBool e) ++ BitVec.ofBool g)) p (by decide)).trans ((extract_high (n := 13) (m := 1) (k := 3) (w := 3) (((((a ++ b) ++ c) ++ BitVec.ofBool d) ++ BitVec.ofBool e)) (BitVec.ofBool g) (by decide)).trans ((extract_high (n := 12) (m := 1) (k := 2) (w := 3) ((((a ++ b) ++ c) ++ BitVec.ofBool d)) (BitVec.ofBool e) (by decide)).trans ((extract_high (n := 11) (m := 1) (k := 1) (w := 3) (((a ++ b) ++ c)) (BitVec.ofBool d) (by decide)).trans ((extract_low (n := 8) (m := 3) (k := 0) (w := 3) ((a ++ b)) c (by decide)).trans (extract_all c)))))
  · exact (bit_high (n := 14) (m := 14) (k := 16) ((((((a ++ b) ++ c) ++ BitVec.ofBool d) ++ BitVec.ofBool e) ++ BitVec.ofBool g)) p (by decide)).trans ((bit_high (n := 13) (m := 1) (k := 2) (((((a ++ b) ++ c) ++ BitVec.ofBool d) ++ BitVec.ofBool e)) (BitVec.ofBool g) (by decide)).trans ((bit_high (n := 12) (m := 1) (k := 1) ((((a ++ b) ++ c) ++ BitVec.ofBool d)) (BitVec.ofBool e) (by decide)).trans ((bit_low (n := 11) (m := 1) (k := 0) (((a ++ b) ++ c)) (BitVec.ofBool d) (by decide)).trans (by simp))))
  · exact (bit_high (n := 14) (m := 14) (k := 15) ((((((a ++ b) ++ c) ++ BitVec.ofBool d) ++ BitVec.ofBool e) ++ BitVec.ofBool g)) p (by decide)).trans ((bit_high (n := 13) (m := 1) (k := 1) (((((a ++ b) ++ c) ++ BitVec.ofBool d) ++ BitVec.ofBool e)) (BitVec.ofBool g) (by decide)).trans ((bit_low (n := 12) (m := 1) (k := 0) ((((a ++ b) ++ c) ++ BitVec.ofBool d)) (BitVec.ofBool e) (by decide)).trans (by simp)))
  · exact (bit_high (n := 14) (m := 14) (k := 14) ((((((a ++ b) ++ c) ++ BitVec.ofBool d) ++ BitVec.ofBool e) ++ BitVec.ofBool g)) p (by decide)).trans ((bit_low (n := 13) (m := 1) (k := 0) (((((a ++ b) ++ c) ++ BitVec.ofBool d) ++ BitVec.ofBool e)) (BitVec.ofBool g) (by decide)).trans (by simp))
  · exact (extract_low (n := 14) (m := 14) (k := 0) (w := 14) ((((((a ++ b) ++ c) ++ BitVec.ofBool d) ++ BitVec.ofBool e) ++ BitVec.ofBool g)) p (by decide)).trans (extract_all p)

theorem formS_round (f : FormS) : formSOf (formSBits f) = f := by
  obtain ⟨a, b⟩ := f
  simp only [formSOf, formSBits, FormS.mk.injEq]
  refine ⟨?_, ?_⟩
  · exact (extract_high (n := 12) (m := 16) (k := 16) (w := 12) (a) b (by decide)).trans (extract_all a)
  · exact (extract_low (n := 12) (m := 16) (k := 0) (w := 16) (a) b (by decide)).trans (extract_all b)

theorem posOfBits_posBits (p : Pos) : posOfBits (posBits p) = p := by cases p <;> rfl
theorem guardOfBits_guardBits (g : Guard) : guardOfBits (guardBits g) = g := by cases g <;> rfl
theorem ofCode_code (t : Ty) : Ty.ofCode t.code = t := by cases t <;> rfl
theorem code_lt (t : Ty) : t.code < 16 := by cases t <;> decide

/-- A target field reads back (R54). -/
theorem target_round (t : Option Target) : targetOfBits (targetBits t) = some t := by
  cases t with
  | none => rfl
  | some t =>
    obtain ⟨p, k⟩ := t
    have h9 : (targetBits (some ⟨p, k⟩)).getLsbD 9 = true :=
      (bit_high (n := 3) (m := 7) (k := 9) (1#1 ++ posBits p) k (by decide)).trans
        ((bit_high (n := 1) (m := 2) (k := 2) 1#1 (posBits p) (by decide)).trans (by simp))
    have hp : (targetBits (some ⟨p, k⟩)).extractLsb' 7 2 = posBits p :=
      (extract_high (n := 3) (m := 7) (k := 7) (w := 2) (1#1 ++ posBits p) k (by decide)).trans
        ((extract_low (n := 1) (m := 2) (k := 0) (w := 2) 1#1 (posBits p) (by decide)).trans (extract_all _))
    have hk : (targetBits (some ⟨p, k⟩)).extractLsb' 0 7 = k :=
      (extract_low (n := 3) (m := 7) (k := 0) (w := 7) (1#1 ++ posBits p) k (by decide)).trans (extract_all k)
    rw [targetOfBits, if_pos h9, hp, hk, posOfBits_posBits]

/-- A header reads back (R53). -/
theorem hdr_round (h : Hdr) : hdrOf (hdrBits h) = some h := by
  obtain ⟨ty, g, ar, t0, t1⟩ := h
  have h1 : (hdrBits ⟨ty, g, ar, t0, t1⟩).extractLsb' 0 10 = targetBits t1 :=
    (extract_low (n := 18) (m := 10) (k := 0) (w := 10)
      (((BitVec.ofNat 4 ty.code ++ guardBits g) ++ ar) ++ targetBits t0) (targetBits t1) (by decide)).trans (extract_all _)
  have h0 : (hdrBits ⟨ty, g, ar, t0, t1⟩).extractLsb' 10 10 = targetBits t0 :=
    (extract_high (n := 18) (m := 10) (k := 10) (w := 10)
      (((BitVec.ofNat 4 ty.code ++ guardBits g) ++ ar) ++ targetBits t0) (targetBits t1) (by decide)).trans
      ((extract_low (n := 8) (m := 10) (k := 0) (w := 10)
        ((BitVec.ofNat 4 ty.code ++ guardBits g) ++ ar) (targetBits t0) (by decide)).trans (extract_all _))
  have ha : (hdrBits ⟨ty, g, ar, t0, t1⟩).extractLsb' 20 2 = ar :=
    (extract_high (n := 18) (m := 10) (k := 20) (w := 2)
      (((BitVec.ofNat 4 ty.code ++ guardBits g) ++ ar) ++ targetBits t0) (targetBits t1) (by decide)).trans
      ((extract_high (n := 8) (m := 10) (k := 10) (w := 2)
        ((BitVec.ofNat 4 ty.code ++ guardBits g) ++ ar) (targetBits t0) (by decide)).trans
        ((extract_low (n := 6) (m := 2) (k := 0) (w := 2) (BitVec.ofNat 4 ty.code ++ guardBits g) ar (by decide)).trans
          (extract_all _)))
  have hg : (hdrBits ⟨ty, g, ar, t0, t1⟩).extractLsb' 22 2 = guardBits g :=
    (extract_high (n := 18) (m := 10) (k := 22) (w := 2)
      (((BitVec.ofNat 4 ty.code ++ guardBits g) ++ ar) ++ targetBits t0) (targetBits t1) (by decide)).trans
      ((extract_high (n := 8) (m := 10) (k := 12) (w := 2)
        ((BitVec.ofNat 4 ty.code ++ guardBits g) ++ ar) (targetBits t0) (by decide)).trans
        ((extract_high (n := 6) (m := 2) (k := 2) (w := 2) (BitVec.ofNat 4 ty.code ++ guardBits g) ar (by decide)).trans
          ((extract_low (n := 4) (m := 2) (k := 0) (w := 2) (BitVec.ofNat 4 ty.code) (guardBits g) (by decide)).trans
            (extract_all _))))
  have ht : (hdrBits ⟨ty, g, ar, t0, t1⟩).extractLsb' 24 4 = BitVec.ofNat 4 ty.code :=
    (extract_high (n := 18) (m := 10) (k := 24) (w := 4)
      (((BitVec.ofNat 4 ty.code ++ guardBits g) ++ ar) ++ targetBits t0) (targetBits t1) (by decide)).trans
      ((extract_high (n := 8) (m := 10) (k := 14) (w := 4)
        ((BitVec.ofNat 4 ty.code ++ guardBits g) ++ ar) (targetBits t0) (by decide)).trans
        ((extract_high (n := 6) (m := 2) (k := 4) (w := 4) (BitVec.ofNat 4 ty.code ++ guardBits g) ar (by decide)).trans
          ((extract_high (n := 4) (m := 2) (k := 2) (w := 4) (BitVec.ofNat 4 ty.code) (guardBits g) (by decide)).trans
            (extract_all _))))
  have hc : Ty.ofCode (BitVec.ofNat 4 ty.code).toNat = ty := by cases ty <;> rfl
  simp only [hdrOf, h0, h1, target_round, ha, hg, ht, guardOfBits_guardBits, hc]

end Sys2Proof
end

