-- ==== Sys2Proof/Laws/State.lean ====
section
/-! SUPPORT. What each update of the state does to each field: one lemma a field and an update, true by unfolding, so that
no later proof unfolds a record update. Then the objects that an update reaches, and those it leaves alone. -/

namespace Sys2Proof.Machine

/-! ### modUnit -/

@[simp] theorem State.modUnit_agenda (s : State) (u : Nat) (f : UnitS → UnitS) : (s.modUnit u f).agenda = s.agenda := rfl
@[simp] theorem State.modUnit_focus (s : State) (u : Nat) (f : UnitS → UnitS) : (s.modUnit u f).focus = s.focus := rfl
@[simp] theorem State.modUnit_focusSlot (s : State) (u : Nat) (f : UnitS → UnitS) : (s.modUnit u f).focusSlot = s.focusSlot := rfl
@[simp] theorem State.modUnit_fresh (s : State) (u : Nat) (f : UnitS → UnitS) : (s.modUnit u f).fresh = s.fresh := rfl
@[simp] theorem State.modUnit_nextId (s : State) (u : Nat) (f : UnitS → UnitS) : (s.modUnit u f).nextId = s.nextId := rfl
@[simp] theorem State.modUnit_outstanding (s : State) (u : Nat) (f : UnitS → UnitS) : (s.modUnit u f).outstanding = s.outstanding := rfl
@[simp] theorem State.modUnit_mpos (s : State) (u : Nat) (f : UnitS → UnitS) : (s.modUnit u f).mpos = s.mpos := rfl
@[simp] theorem State.modUnit_hist (s : State) (u : Nat) (f : UnitS → UnitS) : (s.modUnit u f).hist = s.hist := rfl
@[simp] theorem State.modUnit_done (s : State) (u : Nat) (f : UnitS → UnitS) : (s.modUnit u f).done = s.done := rfl
@[simp] theorem State.modUnit_dev (s : State) (u : Nat) (f : UnitS → UnitS) : (s.modUnit u f).dev = s.dev := rfl
@[simp] theorem State.modUnit_dies (s : State) (u : Nat) (f : UnitS → UnitS) : (s.modUnit u f).dies = s.dies := rfl
@[simp] theorem State.modUnit_coreSel (s : State) (u : Nat) (f : UnitS → UnitS) : (s.modUnit u f).coreSel = s.coreSel := rfl
@[simp] theorem State.modUnit_ctxs (s : State) (u : Nat) (f : UnitS → UnitS) : (s.modUnit u f).ctxs = s.ctxs := rfl
@[simp] theorem State.modUnit_regions (s : State) (u : Nat) (f : UnitS → UnitS) : (s.modUnit u f).regions = s.regions := rfl
@[simp] theorem State.modUnit_units (s : State) (u : Nat) (f : UnitS → UnitS) : (s.modUnit u f).units = tabMod s.units u f := rfl
@[simp] theorem State.modUnit_clusters (s : State) (u : Nat) (f : UnitS → UnitS) : (s.modUnit u f).clusters = s.clusters := rfl
@[simp] theorem State.modUnit_pools (s : State) (u : Nat) (f : UnitS → UnitS) : (s.modUnit u f).pools = s.pools := rfl
@[simp] theorem State.modUnit_poolLeft (s : State) (u : Nat) (f : UnitS → UnitS) : (s.modUnit u f).poolLeft = s.poolLeft := rfl
@[simp] theorem State.modUnit_queues (s : State) (u : Nat) (f : UnitS → UnitS) : (s.modUnit u f).queues = s.queues := rfl
@[simp] theorem State.modUnit_served (s : State) (u : Nat) (f : UnitS → UnitS) : (s.modUnit u f).served = s.served := rfl
@[simp] theorem State.modUnit_fns (s : State) (u : Nat) (f : UnitS → UnitS) : (s.modUnit u f).fns = s.fns := rfl
@[simp] theorem State.modUnit_groups (s : State) (u : Nat) (f : UnitS → UnitS) : (s.modUnit u f).groups = s.groups := rfl
@[simp] theorem State.modUnit_launches (s : State) (u : Nat) (f : UnitS → UnitS) : (s.modUnit u f).launches = s.launches := rfl
@[simp] theorem State.modUnit_patches (s : State) (u : Nat) (f : UnitS → UnitS) : (s.modUnit u f).patches = s.patches := rfl
@[simp] theorem State.modUnit_snaps (s : State) (u : Nat) (f : UnitS → UnitS) : (s.modUnit u f).snaps = s.snaps := rfl
@[simp] theorem State.modUnit_tasks (s : State) (u : Nat) (f : UnitS → UnitS) : (s.modUnit u f).tasks = s.tasks := rfl
@[simp] theorem State.modUnit_mem (s : State) (u : Nat) (f : UnitS → UnitS) : (s.modUnit u f).mem = s.mem := rfl
@[simp] theorem State.modUnit_hostMem (s : State) (u : Nat) (f : UnitS → UnitS) : (s.modUnit u f).hostMem = s.hostMem := rfl
@[simp] theorem State.modUnit_poison (s : State) (u : Nat) (f : UnitS → UnitS) : (s.modUnit u f).poison = s.poison := rfl
@[simp] theorem State.modUnit_dirty (s : State) (u : Nat) (f : UnitS → UnitS) : (s.modUnit u f).dirty = s.dirty := rfl
@[simp] theorem State.modUnit_views (s : State) (u : Nat) (f : UnitS → UnitS) : (s.modUnit u f).views = s.views := rfl
@[simp] theorem State.modUnit_holds (s : State) (u : Nat) (f : UnitS → UnitS) : (s.modUnit u f).holds = s.holds := rfl
@[simp] theorem State.modUnit_oaWaits (s : State) (u : Nat) (f : UnitS → UnitS) : (s.modUnit u f).oaWaits = s.oaWaits := rfl
@[simp] theorem State.modUnit_pend (s : State) (u : Nat) (f : UnitS → UnitS) : (s.modUnit u f).pend = s.pend := rfl
@[simp] theorem State.modUnit_flight (s : State) (u : Nat) (f : UnitS → UnitS) : (s.modUnit u f).flight = s.flight := rfl
@[simp] theorem State.modUnit_tlbs (s : State) (u : Nat) (f : UnitS → UnitS) : (s.modUnit u f).tlbs = s.tlbs := rfl
@[simp] theorem State.modUnit_walks (s : State) (u : Nat) (f : UnitS → UnitS) : (s.modUnit u f).walks = s.walks := rfl
@[simp] theorem State.modUnit_invs (s : State) (u : Nat) (f : UnitS → UnitS) : (s.modUnit u f).invs = s.invs := rfl
@[simp] theorem State.modUnit_stages (s : State) (u : Nat) (f : UnitS → UnitS) : (s.modUnit u f).stages = s.stages := rfl
@[simp] theorem State.modUnit_links (s : State) (u : Nat) (f : UnitS → UnitS) : (s.modUnit u f).links = s.links := rfl
@[simp] theorem State.modUnit_flows (s : State) (u : Nat) (f : UnitS → UnitS) : (s.modUnit u f).flows = s.flows := rfl
@[simp] theorem State.modUnit_flowsIn (s : State) (u : Nat) (f : UnitS → UnitS) : (s.modUnit u f).flowsIn = s.flowsIn := rfl
@[simp] theorem State.modUnit_sentPkts (s : State) (u : Nat) (f : UnitS → UnitS) : (s.modUnit u f).sentPkts = s.sentPkts := rfl
@[simp] theorem State.modUnit_shore (s : State) (u : Nat) (f : UnitS → UnitS) : (s.modUnit u f).shore = s.shore := rfl
@[simp] theorem State.modUnit_rx (s : State) (u : Nat) (f : UnitS → UnitS) : (s.modUnit u f).rx = s.rx := rfl
@[simp] theorem State.modUnit_mcAcks (s : State) (u : Nat) (f : UnitS → UnitS) : (s.modUnit u f).mcAcks = s.mcAcks := rfl
@[simp] theorem State.modUnit_linkJobs (s : State) (u : Nat) (f : UnitS → UnitS) : (s.modUnit u f).linkJobs = s.linkJobs := rfl
@[simp] theorem State.modUnit_sealing (s : State) (u : Nat) (f : UnitS → UnitS) : (s.modUnit u f).sealing = s.sealing := rfl
@[simp] theorem State.modUnit_fw (s : State) (u : Nat) (f : UnitS → UnitS) : (s.modUnit u f).fw = s.fw := rfl
@[simp] theorem State.modUnit_clTab (s : State) (u : Nat) (f : UnitS → UnitS) : (s.modUnit u f).clTab = s.clTab := rfl
@[simp] theorem State.modUnit_parts (s : State) (u : Nat) (f : UnitS → UnitS) : (s.modUnit u f).parts = s.parts := rfl
@[simp] theorem State.modUnit_intrs (s : State) (u : Nat) (f : UnitS → UnitS) : (s.modUnit u f).intrs = s.intrs := rfl
@[simp] theorem State.modUnit_hostReads (s : State) (u : Nat) (f : UnitS → UnitS) : (s.modUnit u f).hostReads = s.hostReads := rfl
@[simp] theorem State.modUnit_spdm (s : State) (u : Nat) (f : UnitS → UnitS) : (s.modUnit u f).spdm = s.spdm := rfl
@[simp] theorem State.modUnit_sealMsgs (s : State) (u : Nat) (f : UnitS → UnitS) : (s.modUnit u f).sealMsgs = s.sealMsgs := rfl

/-! ### modCluster -/

@[simp] theorem State.modCluster_agenda (s : State) (d c : Nat) (f : Cluster → Cluster) : (s.modCluster d c f).agenda = s.agenda := rfl
@[simp] theorem State.modCluster_focus (s : State) (d c : Nat) (f : Cluster → Cluster) : (s.modCluster d c f).focus = s.focus := rfl
@[simp] theorem State.modCluster_focusSlot (s : State) (d c : Nat) (f : Cluster → Cluster) : (s.modCluster d c f).focusSlot = s.focusSlot := rfl
@[simp] theorem State.modCluster_fresh (s : State) (d c : Nat) (f : Cluster → Cluster) : (s.modCluster d c f).fresh = s.fresh := rfl
@[simp] theorem State.modCluster_nextId (s : State) (d c : Nat) (f : Cluster → Cluster) : (s.modCluster d c f).nextId = s.nextId := rfl
@[simp] theorem State.modCluster_outstanding (s : State) (d c : Nat) (f : Cluster → Cluster) : (s.modCluster d c f).outstanding = s.outstanding := rfl
@[simp] theorem State.modCluster_mpos (s : State) (d c : Nat) (f : Cluster → Cluster) : (s.modCluster d c f).mpos = s.mpos := rfl
@[simp] theorem State.modCluster_hist (s : State) (d c : Nat) (f : Cluster → Cluster) : (s.modCluster d c f).hist = s.hist := rfl
@[simp] theorem State.modCluster_done (s : State) (d c : Nat) (f : Cluster → Cluster) : (s.modCluster d c f).done = s.done := rfl
@[simp] theorem State.modCluster_dev (s : State) (d c : Nat) (f : Cluster → Cluster) : (s.modCluster d c f).dev = s.dev := rfl
@[simp] theorem State.modCluster_dies (s : State) (d c : Nat) (f : Cluster → Cluster) : (s.modCluster d c f).dies = s.dies := rfl
@[simp] theorem State.modCluster_coreSel (s : State) (d c : Nat) (f : Cluster → Cluster) : (s.modCluster d c f).coreSel = s.coreSel := rfl
@[simp] theorem State.modCluster_ctxs (s : State) (d c : Nat) (f : Cluster → Cluster) : (s.modCluster d c f).ctxs = s.ctxs := rfl
@[simp] theorem State.modCluster_regions (s : State) (d c : Nat) (f : Cluster → Cluster) : (s.modCluster d c f).regions = s.regions := rfl
@[simp] theorem State.modCluster_units (s : State) (d c : Nat) (f : Cluster → Cluster) : (s.modCluster d c f).units = s.units := rfl
@[simp] theorem State.modCluster_clusters (s : State) (d c : Nat) (f : Cluster → Cluster) : (s.modCluster d c f).clusters = tabMod s.clusters (clKey d c) f := rfl
@[simp] theorem State.modCluster_pools (s : State) (d c : Nat) (f : Cluster → Cluster) : (s.modCluster d c f).pools = s.pools := rfl
@[simp] theorem State.modCluster_poolLeft (s : State) (d c : Nat) (f : Cluster → Cluster) : (s.modCluster d c f).poolLeft = s.poolLeft := rfl
@[simp] theorem State.modCluster_queues (s : State) (d c : Nat) (f : Cluster → Cluster) : (s.modCluster d c f).queues = s.queues := rfl
@[simp] theorem State.modCluster_served (s : State) (d c : Nat) (f : Cluster → Cluster) : (s.modCluster d c f).served = s.served := rfl
@[simp] theorem State.modCluster_fns (s : State) (d c : Nat) (f : Cluster → Cluster) : (s.modCluster d c f).fns = s.fns := rfl
@[simp] theorem State.modCluster_groups (s : State) (d c : Nat) (f : Cluster → Cluster) : (s.modCluster d c f).groups = s.groups := rfl
@[simp] theorem State.modCluster_launches (s : State) (d c : Nat) (f : Cluster → Cluster) : (s.modCluster d c f).launches = s.launches := rfl
@[simp] theorem State.modCluster_patches (s : State) (d c : Nat) (f : Cluster → Cluster) : (s.modCluster d c f).patches = s.patches := rfl
@[simp] theorem State.modCluster_snaps (s : State) (d c : Nat) (f : Cluster → Cluster) : (s.modCluster d c f).snaps = s.snaps := rfl
@[simp] theorem State.modCluster_tasks (s : State) (d c : Nat) (f : Cluster → Cluster) : (s.modCluster d c f).tasks = s.tasks := rfl
@[simp] theorem State.modCluster_mem (s : State) (d c : Nat) (f : Cluster → Cluster) : (s.modCluster d c f).mem = s.mem := rfl
@[simp] theorem State.modCluster_hostMem (s : State) (d c : Nat) (f : Cluster → Cluster) : (s.modCluster d c f).hostMem = s.hostMem := rfl
@[simp] theorem State.modCluster_poison (s : State) (d c : Nat) (f : Cluster → Cluster) : (s.modCluster d c f).poison = s.poison := rfl
@[simp] theorem State.modCluster_dirty (s : State) (d c : Nat) (f : Cluster → Cluster) : (s.modCluster d c f).dirty = s.dirty := rfl
@[simp] theorem State.modCluster_views (s : State) (d c : Nat) (f : Cluster → Cluster) : (s.modCluster d c f).views = s.views := rfl
@[simp] theorem State.modCluster_holds (s : State) (d c : Nat) (f : Cluster → Cluster) : (s.modCluster d c f).holds = s.holds := rfl
@[simp] theorem State.modCluster_oaWaits (s : State) (d c : Nat) (f : Cluster → Cluster) : (s.modCluster d c f).oaWaits = s.oaWaits := rfl
@[simp] theorem State.modCluster_pend (s : State) (d c : Nat) (f : Cluster → Cluster) : (s.modCluster d c f).pend = s.pend := rfl
@[simp] theorem State.modCluster_flight (s : State) (d c : Nat) (f : Cluster → Cluster) : (s.modCluster d c f).flight = s.flight := rfl
@[simp] theorem State.modCluster_tlbs (s : State) (d c : Nat) (f : Cluster → Cluster) : (s.modCluster d c f).tlbs = s.tlbs := rfl
@[simp] theorem State.modCluster_walks (s : State) (d c : Nat) (f : Cluster → Cluster) : (s.modCluster d c f).walks = s.walks := rfl
@[simp] theorem State.modCluster_invs (s : State) (d c : Nat) (f : Cluster → Cluster) : (s.modCluster d c f).invs = s.invs := rfl
@[simp] theorem State.modCluster_stages (s : State) (d c : Nat) (f : Cluster → Cluster) : (s.modCluster d c f).stages = s.stages := rfl
@[simp] theorem State.modCluster_links (s : State) (d c : Nat) (f : Cluster → Cluster) : (s.modCluster d c f).links = s.links := rfl
@[simp] theorem State.modCluster_flows (s : State) (d c : Nat) (f : Cluster → Cluster) : (s.modCluster d c f).flows = s.flows := rfl
@[simp] theorem State.modCluster_flowsIn (s : State) (d c : Nat) (f : Cluster → Cluster) : (s.modCluster d c f).flowsIn = s.flowsIn := rfl
@[simp] theorem State.modCluster_sentPkts (s : State) (d c : Nat) (f : Cluster → Cluster) : (s.modCluster d c f).sentPkts = s.sentPkts := rfl
@[simp] theorem State.modCluster_shore (s : State) (d c : Nat) (f : Cluster → Cluster) : (s.modCluster d c f).shore = s.shore := rfl
@[simp] theorem State.modCluster_rx (s : State) (d c : Nat) (f : Cluster → Cluster) : (s.modCluster d c f).rx = s.rx := rfl
@[simp] theorem State.modCluster_mcAcks (s : State) (d c : Nat) (f : Cluster → Cluster) : (s.modCluster d c f).mcAcks = s.mcAcks := rfl
@[simp] theorem State.modCluster_linkJobs (s : State) (d c : Nat) (f : Cluster → Cluster) : (s.modCluster d c f).linkJobs = s.linkJobs := rfl
@[simp] theorem State.modCluster_sealing (s : State) (d c : Nat) (f : Cluster → Cluster) : (s.modCluster d c f).sealing = s.sealing := rfl
@[simp] theorem State.modCluster_fw (s : State) (d c : Nat) (f : Cluster → Cluster) : (s.modCluster d c f).fw = s.fw := rfl
@[simp] theorem State.modCluster_clTab (s : State) (d c : Nat) (f : Cluster → Cluster) : (s.modCluster d c f).clTab = s.clTab := rfl
@[simp] theorem State.modCluster_parts (s : State) (d c : Nat) (f : Cluster → Cluster) : (s.modCluster d c f).parts = s.parts := rfl
@[simp] theorem State.modCluster_intrs (s : State) (d c : Nat) (f : Cluster → Cluster) : (s.modCluster d c f).intrs = s.intrs := rfl
@[simp] theorem State.modCluster_hostReads (s : State) (d c : Nat) (f : Cluster → Cluster) : (s.modCluster d c f).hostReads = s.hostReads := rfl
@[simp] theorem State.modCluster_spdm (s : State) (d c : Nat) (f : Cluster → Cluster) : (s.modCluster d c f).spdm = s.spdm := rfl
@[simp] theorem State.modCluster_sealMsgs (s : State) (d c : Nat) (f : Cluster → Cluster) : (s.modCluster d c f).sealMsgs = s.sealMsgs := rfl

/-! ### modDie -/

@[simp] theorem State.modDie_agenda (s : State) (d : Nat) (f : Die → Die) : (s.modDie d f).agenda = s.agenda := rfl
@[simp] theorem State.modDie_focus (s : State) (d : Nat) (f : Die → Die) : (s.modDie d f).focus = s.focus := rfl
@[simp] theorem State.modDie_focusSlot (s : State) (d : Nat) (f : Die → Die) : (s.modDie d f).focusSlot = s.focusSlot := rfl
@[simp] theorem State.modDie_fresh (s : State) (d : Nat) (f : Die → Die) : (s.modDie d f).fresh = s.fresh := rfl
@[simp] theorem State.modDie_nextId (s : State) (d : Nat) (f : Die → Die) : (s.modDie d f).nextId = s.nextId := rfl
@[simp] theorem State.modDie_outstanding (s : State) (d : Nat) (f : Die → Die) : (s.modDie d f).outstanding = s.outstanding := rfl
@[simp] theorem State.modDie_mpos (s : State) (d : Nat) (f : Die → Die) : (s.modDie d f).mpos = s.mpos := rfl
@[simp] theorem State.modDie_hist (s : State) (d : Nat) (f : Die → Die) : (s.modDie d f).hist = s.hist := rfl
@[simp] theorem State.modDie_done (s : State) (d : Nat) (f : Die → Die) : (s.modDie d f).done = s.done := rfl
@[simp] theorem State.modDie_dev (s : State) (d : Nat) (f : Die → Die) : (s.modDie d f).dev = s.dev := rfl
@[simp] theorem State.modDie_dies (s : State) (d : Nat) (f : Die → Die) : (s.modDie d f).dies = tabMod s.dies d f := rfl
@[simp] theorem State.modDie_coreSel (s : State) (d : Nat) (f : Die → Die) : (s.modDie d f).coreSel = s.coreSel := rfl
@[simp] theorem State.modDie_ctxs (s : State) (d : Nat) (f : Die → Die) : (s.modDie d f).ctxs = s.ctxs := rfl
@[simp] theorem State.modDie_regions (s : State) (d : Nat) (f : Die → Die) : (s.modDie d f).regions = s.regions := rfl
@[simp] theorem State.modDie_units (s : State) (d : Nat) (f : Die → Die) : (s.modDie d f).units = s.units := rfl
@[simp] theorem State.modDie_clusters (s : State) (d : Nat) (f : Die → Die) : (s.modDie d f).clusters = s.clusters := rfl
@[simp] theorem State.modDie_pools (s : State) (d : Nat) (f : Die → Die) : (s.modDie d f).pools = s.pools := rfl
@[simp] theorem State.modDie_poolLeft (s : State) (d : Nat) (f : Die → Die) : (s.modDie d f).poolLeft = s.poolLeft := rfl
@[simp] theorem State.modDie_queues (s : State) (d : Nat) (f : Die → Die) : (s.modDie d f).queues = s.queues := rfl
@[simp] theorem State.modDie_served (s : State) (d : Nat) (f : Die → Die) : (s.modDie d f).served = s.served := rfl
@[simp] theorem State.modDie_fns (s : State) (d : Nat) (f : Die → Die) : (s.modDie d f).fns = s.fns := rfl
@[simp] theorem State.modDie_groups (s : State) (d : Nat) (f : Die → Die) : (s.modDie d f).groups = s.groups := rfl
@[simp] theorem State.modDie_launches (s : State) (d : Nat) (f : Die → Die) : (s.modDie d f).launches = s.launches := rfl
@[simp] theorem State.modDie_patches (s : State) (d : Nat) (f : Die → Die) : (s.modDie d f).patches = s.patches := rfl
@[simp] theorem State.modDie_snaps (s : State) (d : Nat) (f : Die → Die) : (s.modDie d f).snaps = s.snaps := rfl
@[simp] theorem State.modDie_tasks (s : State) (d : Nat) (f : Die → Die) : (s.modDie d f).tasks = s.tasks := rfl
@[simp] theorem State.modDie_mem (s : State) (d : Nat) (f : Die → Die) : (s.modDie d f).mem = s.mem := rfl
@[simp] theorem State.modDie_hostMem (s : State) (d : Nat) (f : Die → Die) : (s.modDie d f).hostMem = s.hostMem := rfl
@[simp] theorem State.modDie_poison (s : State) (d : Nat) (f : Die → Die) : (s.modDie d f).poison = s.poison := rfl
@[simp] theorem State.modDie_dirty (s : State) (d : Nat) (f : Die → Die) : (s.modDie d f).dirty = s.dirty := rfl
@[simp] theorem State.modDie_views (s : State) (d : Nat) (f : Die → Die) : (s.modDie d f).views = s.views := rfl
@[simp] theorem State.modDie_holds (s : State) (d : Nat) (f : Die → Die) : (s.modDie d f).holds = s.holds := rfl
@[simp] theorem State.modDie_oaWaits (s : State) (d : Nat) (f : Die → Die) : (s.modDie d f).oaWaits = s.oaWaits := rfl
@[simp] theorem State.modDie_pend (s : State) (d : Nat) (f : Die → Die) : (s.modDie d f).pend = s.pend := rfl
@[simp] theorem State.modDie_flight (s : State) (d : Nat) (f : Die → Die) : (s.modDie d f).flight = s.flight := rfl
@[simp] theorem State.modDie_tlbs (s : State) (d : Nat) (f : Die → Die) : (s.modDie d f).tlbs = s.tlbs := rfl
@[simp] theorem State.modDie_walks (s : State) (d : Nat) (f : Die → Die) : (s.modDie d f).walks = s.walks := rfl
@[simp] theorem State.modDie_invs (s : State) (d : Nat) (f : Die → Die) : (s.modDie d f).invs = s.invs := rfl
@[simp] theorem State.modDie_stages (s : State) (d : Nat) (f : Die → Die) : (s.modDie d f).stages = s.stages := rfl
@[simp] theorem State.modDie_links (s : State) (d : Nat) (f : Die → Die) : (s.modDie d f).links = s.links := rfl
@[simp] theorem State.modDie_flows (s : State) (d : Nat) (f : Die → Die) : (s.modDie d f).flows = s.flows := rfl
@[simp] theorem State.modDie_flowsIn (s : State) (d : Nat) (f : Die → Die) : (s.modDie d f).flowsIn = s.flowsIn := rfl
@[simp] theorem State.modDie_sentPkts (s : State) (d : Nat) (f : Die → Die) : (s.modDie d f).sentPkts = s.sentPkts := rfl
@[simp] theorem State.modDie_shore (s : State) (d : Nat) (f : Die → Die) : (s.modDie d f).shore = s.shore := rfl
@[simp] theorem State.modDie_rx (s : State) (d : Nat) (f : Die → Die) : (s.modDie d f).rx = s.rx := rfl
@[simp] theorem State.modDie_mcAcks (s : State) (d : Nat) (f : Die → Die) : (s.modDie d f).mcAcks = s.mcAcks := rfl
@[simp] theorem State.modDie_linkJobs (s : State) (d : Nat) (f : Die → Die) : (s.modDie d f).linkJobs = s.linkJobs := rfl
@[simp] theorem State.modDie_sealing (s : State) (d : Nat) (f : Die → Die) : (s.modDie d f).sealing = s.sealing := rfl
@[simp] theorem State.modDie_fw (s : State) (d : Nat) (f : Die → Die) : (s.modDie d f).fw = s.fw := rfl
@[simp] theorem State.modDie_clTab (s : State) (d : Nat) (f : Die → Die) : (s.modDie d f).clTab = s.clTab := rfl
@[simp] theorem State.modDie_parts (s : State) (d : Nat) (f : Die → Die) : (s.modDie d f).parts = s.parts := rfl
@[simp] theorem State.modDie_intrs (s : State) (d : Nat) (f : Die → Die) : (s.modDie d f).intrs = s.intrs := rfl
@[simp] theorem State.modDie_hostReads (s : State) (d : Nat) (f : Die → Die) : (s.modDie d f).hostReads = s.hostReads := rfl
@[simp] theorem State.modDie_spdm (s : State) (d : Nat) (f : Die → Die) : (s.modDie d f).spdm = s.spdm := rfl
@[simp] theorem State.modDie_sealMsgs (s : State) (d : Nat) (f : Die → Die) : (s.modDie d f).sealMsgs = s.sealMsgs := rfl

/-! ### modCtx -/

@[simp] theorem State.modCtx_agenda (s : State) (x : Nat) (f : Ctx → Ctx) : (s.modCtx x f).agenda = s.agenda := rfl
@[simp] theorem State.modCtx_focus (s : State) (x : Nat) (f : Ctx → Ctx) : (s.modCtx x f).focus = s.focus := rfl
@[simp] theorem State.modCtx_focusSlot (s : State) (x : Nat) (f : Ctx → Ctx) : (s.modCtx x f).focusSlot = s.focusSlot := rfl
@[simp] theorem State.modCtx_fresh (s : State) (x : Nat) (f : Ctx → Ctx) : (s.modCtx x f).fresh = s.fresh := rfl
@[simp] theorem State.modCtx_nextId (s : State) (x : Nat) (f : Ctx → Ctx) : (s.modCtx x f).nextId = s.nextId := rfl
@[simp] theorem State.modCtx_outstanding (s : State) (x : Nat) (f : Ctx → Ctx) : (s.modCtx x f).outstanding = s.outstanding := rfl
@[simp] theorem State.modCtx_mpos (s : State) (x : Nat) (f : Ctx → Ctx) : (s.modCtx x f).mpos = s.mpos := rfl
@[simp] theorem State.modCtx_hist (s : State) (x : Nat) (f : Ctx → Ctx) : (s.modCtx x f).hist = s.hist := rfl
@[simp] theorem State.modCtx_done (s : State) (x : Nat) (f : Ctx → Ctx) : (s.modCtx x f).done = s.done := rfl
@[simp] theorem State.modCtx_dev (s : State) (x : Nat) (f : Ctx → Ctx) : (s.modCtx x f).dev = s.dev := rfl
@[simp] theorem State.modCtx_dies (s : State) (x : Nat) (f : Ctx → Ctx) : (s.modCtx x f).dies = s.dies := rfl
@[simp] theorem State.modCtx_coreSel (s : State) (x : Nat) (f : Ctx → Ctx) : (s.modCtx x f).coreSel = s.coreSel := rfl
@[simp] theorem State.modCtx_ctxs (s : State) (x : Nat) (f : Ctx → Ctx) : (s.modCtx x f).ctxs = tabMod s.ctxs x f := rfl
@[simp] theorem State.modCtx_regions (s : State) (x : Nat) (f : Ctx → Ctx) : (s.modCtx x f).regions = s.regions := rfl
@[simp] theorem State.modCtx_units (s : State) (x : Nat) (f : Ctx → Ctx) : (s.modCtx x f).units = s.units := rfl
@[simp] theorem State.modCtx_clusters (s : State) (x : Nat) (f : Ctx → Ctx) : (s.modCtx x f).clusters = s.clusters := rfl
@[simp] theorem State.modCtx_pools (s : State) (x : Nat) (f : Ctx → Ctx) : (s.modCtx x f).pools = s.pools := rfl
@[simp] theorem State.modCtx_poolLeft (s : State) (x : Nat) (f : Ctx → Ctx) : (s.modCtx x f).poolLeft = s.poolLeft := rfl
@[simp] theorem State.modCtx_queues (s : State) (x : Nat) (f : Ctx → Ctx) : (s.modCtx x f).queues = s.queues := rfl
@[simp] theorem State.modCtx_served (s : State) (x : Nat) (f : Ctx → Ctx) : (s.modCtx x f).served = s.served := rfl
@[simp] theorem State.modCtx_fns (s : State) (x : Nat) (f : Ctx → Ctx) : (s.modCtx x f).fns = s.fns := rfl
@[simp] theorem State.modCtx_groups (s : State) (x : Nat) (f : Ctx → Ctx) : (s.modCtx x f).groups = s.groups := rfl
@[simp] theorem State.modCtx_launches (s : State) (x : Nat) (f : Ctx → Ctx) : (s.modCtx x f).launches = s.launches := rfl
@[simp] theorem State.modCtx_patches (s : State) (x : Nat) (f : Ctx → Ctx) : (s.modCtx x f).patches = s.patches := rfl
@[simp] theorem State.modCtx_snaps (s : State) (x : Nat) (f : Ctx → Ctx) : (s.modCtx x f).snaps = s.snaps := rfl
@[simp] theorem State.modCtx_tasks (s : State) (x : Nat) (f : Ctx → Ctx) : (s.modCtx x f).tasks = s.tasks := rfl
@[simp] theorem State.modCtx_mem (s : State) (x : Nat) (f : Ctx → Ctx) : (s.modCtx x f).mem = s.mem := rfl
@[simp] theorem State.modCtx_hostMem (s : State) (x : Nat) (f : Ctx → Ctx) : (s.modCtx x f).hostMem = s.hostMem := rfl
@[simp] theorem State.modCtx_poison (s : State) (x : Nat) (f : Ctx → Ctx) : (s.modCtx x f).poison = s.poison := rfl
@[simp] theorem State.modCtx_dirty (s : State) (x : Nat) (f : Ctx → Ctx) : (s.modCtx x f).dirty = s.dirty := rfl
@[simp] theorem State.modCtx_views (s : State) (x : Nat) (f : Ctx → Ctx) : (s.modCtx x f).views = s.views := rfl
@[simp] theorem State.modCtx_holds (s : State) (x : Nat) (f : Ctx → Ctx) : (s.modCtx x f).holds = s.holds := rfl
@[simp] theorem State.modCtx_oaWaits (s : State) (x : Nat) (f : Ctx → Ctx) : (s.modCtx x f).oaWaits = s.oaWaits := rfl
@[simp] theorem State.modCtx_pend (s : State) (x : Nat) (f : Ctx → Ctx) : (s.modCtx x f).pend = s.pend := rfl
@[simp] theorem State.modCtx_flight (s : State) (x : Nat) (f : Ctx → Ctx) : (s.modCtx x f).flight = s.flight := rfl
@[simp] theorem State.modCtx_tlbs (s : State) (x : Nat) (f : Ctx → Ctx) : (s.modCtx x f).tlbs = s.tlbs := rfl
@[simp] theorem State.modCtx_walks (s : State) (x : Nat) (f : Ctx → Ctx) : (s.modCtx x f).walks = s.walks := rfl
@[simp] theorem State.modCtx_invs (s : State) (x : Nat) (f : Ctx → Ctx) : (s.modCtx x f).invs = s.invs := rfl
@[simp] theorem State.modCtx_stages (s : State) (x : Nat) (f : Ctx → Ctx) : (s.modCtx x f).stages = s.stages := rfl
@[simp] theorem State.modCtx_links (s : State) (x : Nat) (f : Ctx → Ctx) : (s.modCtx x f).links = s.links := rfl
@[simp] theorem State.modCtx_flows (s : State) (x : Nat) (f : Ctx → Ctx) : (s.modCtx x f).flows = s.flows := rfl
@[simp] theorem State.modCtx_flowsIn (s : State) (x : Nat) (f : Ctx → Ctx) : (s.modCtx x f).flowsIn = s.flowsIn := rfl
@[simp] theorem State.modCtx_sentPkts (s : State) (x : Nat) (f : Ctx → Ctx) : (s.modCtx x f).sentPkts = s.sentPkts := rfl
@[simp] theorem State.modCtx_shore (s : State) (x : Nat) (f : Ctx → Ctx) : (s.modCtx x f).shore = s.shore := rfl
@[simp] theorem State.modCtx_rx (s : State) (x : Nat) (f : Ctx → Ctx) : (s.modCtx x f).rx = s.rx := rfl
@[simp] theorem State.modCtx_mcAcks (s : State) (x : Nat) (f : Ctx → Ctx) : (s.modCtx x f).mcAcks = s.mcAcks := rfl
@[simp] theorem State.modCtx_linkJobs (s : State) (x : Nat) (f : Ctx → Ctx) : (s.modCtx x f).linkJobs = s.linkJobs := rfl
@[simp] theorem State.modCtx_sealing (s : State) (x : Nat) (f : Ctx → Ctx) : (s.modCtx x f).sealing = s.sealing := rfl
@[simp] theorem State.modCtx_fw (s : State) (x : Nat) (f : Ctx → Ctx) : (s.modCtx x f).fw = s.fw := rfl
@[simp] theorem State.modCtx_clTab (s : State) (x : Nat) (f : Ctx → Ctx) : (s.modCtx x f).clTab = s.clTab := rfl
@[simp] theorem State.modCtx_parts (s : State) (x : Nat) (f : Ctx → Ctx) : (s.modCtx x f).parts = s.parts := rfl
@[simp] theorem State.modCtx_intrs (s : State) (x : Nat) (f : Ctx → Ctx) : (s.modCtx x f).intrs = s.intrs := rfl
@[simp] theorem State.modCtx_hostReads (s : State) (x : Nat) (f : Ctx → Ctx) : (s.modCtx x f).hostReads = s.hostReads := rfl
@[simp] theorem State.modCtx_spdm (s : State) (x : Nat) (f : Ctx → Ctx) : (s.modCtx x f).spdm = s.spdm := rfl
@[simp] theorem State.modCtx_sealMsgs (s : State) (x : Nat) (f : Ctx → Ctx) : (s.modCtx x f).sealMsgs = s.sealMsgs := rfl

/-! ### modRegion -/

@[simp] theorem State.modRegion_agenda (s : State) (k : Nat) (f : Region → Region) : (s.modRegion k f).agenda = s.agenda := rfl
@[simp] theorem State.modRegion_focus (s : State) (k : Nat) (f : Region → Region) : (s.modRegion k f).focus = s.focus := rfl
@[simp] theorem State.modRegion_focusSlot (s : State) (k : Nat) (f : Region → Region) : (s.modRegion k f).focusSlot = s.focusSlot := rfl
@[simp] theorem State.modRegion_fresh (s : State) (k : Nat) (f : Region → Region) : (s.modRegion k f).fresh = s.fresh := rfl
@[simp] theorem State.modRegion_nextId (s : State) (k : Nat) (f : Region → Region) : (s.modRegion k f).nextId = s.nextId := rfl
@[simp] theorem State.modRegion_outstanding (s : State) (k : Nat) (f : Region → Region) : (s.modRegion k f).outstanding = s.outstanding := rfl
@[simp] theorem State.modRegion_mpos (s : State) (k : Nat) (f : Region → Region) : (s.modRegion k f).mpos = s.mpos := rfl
@[simp] theorem State.modRegion_hist (s : State) (k : Nat) (f : Region → Region) : (s.modRegion k f).hist = s.hist := rfl
@[simp] theorem State.modRegion_done (s : State) (k : Nat) (f : Region → Region) : (s.modRegion k f).done = s.done := rfl
@[simp] theorem State.modRegion_dev (s : State) (k : Nat) (f : Region → Region) : (s.modRegion k f).dev = s.dev := rfl
@[simp] theorem State.modRegion_dies (s : State) (k : Nat) (f : Region → Region) : (s.modRegion k f).dies = s.dies := rfl
@[simp] theorem State.modRegion_coreSel (s : State) (k : Nat) (f : Region → Region) : (s.modRegion k f).coreSel = s.coreSel := rfl
@[simp] theorem State.modRegion_ctxs (s : State) (k : Nat) (f : Region → Region) : (s.modRegion k f).ctxs = s.ctxs := rfl
@[simp] theorem State.modRegion_regions (s : State) (k : Nat) (f : Region → Region) : (s.modRegion k f).regions = tabMod s.regions k f := rfl
@[simp] theorem State.modRegion_units (s : State) (k : Nat) (f : Region → Region) : (s.modRegion k f).units = s.units := rfl
@[simp] theorem State.modRegion_clusters (s : State) (k : Nat) (f : Region → Region) : (s.modRegion k f).clusters = s.clusters := rfl
@[simp] theorem State.modRegion_pools (s : State) (k : Nat) (f : Region → Region) : (s.modRegion k f).pools = s.pools := rfl
@[simp] theorem State.modRegion_poolLeft (s : State) (k : Nat) (f : Region → Region) : (s.modRegion k f).poolLeft = s.poolLeft := rfl
@[simp] theorem State.modRegion_queues (s : State) (k : Nat) (f : Region → Region) : (s.modRegion k f).queues = s.queues := rfl
@[simp] theorem State.modRegion_served (s : State) (k : Nat) (f : Region → Region) : (s.modRegion k f).served = s.served := rfl
@[simp] theorem State.modRegion_fns (s : State) (k : Nat) (f : Region → Region) : (s.modRegion k f).fns = s.fns := rfl
@[simp] theorem State.modRegion_groups (s : State) (k : Nat) (f : Region → Region) : (s.modRegion k f).groups = s.groups := rfl
@[simp] theorem State.modRegion_launches (s : State) (k : Nat) (f : Region → Region) : (s.modRegion k f).launches = s.launches := rfl
@[simp] theorem State.modRegion_patches (s : State) (k : Nat) (f : Region → Region) : (s.modRegion k f).patches = s.patches := rfl
@[simp] theorem State.modRegion_snaps (s : State) (k : Nat) (f : Region → Region) : (s.modRegion k f).snaps = s.snaps := rfl
@[simp] theorem State.modRegion_tasks (s : State) (k : Nat) (f : Region → Region) : (s.modRegion k f).tasks = s.tasks := rfl
@[simp] theorem State.modRegion_mem (s : State) (k : Nat) (f : Region → Region) : (s.modRegion k f).mem = s.mem := rfl
@[simp] theorem State.modRegion_hostMem (s : State) (k : Nat) (f : Region → Region) : (s.modRegion k f).hostMem = s.hostMem := rfl
@[simp] theorem State.modRegion_poison (s : State) (k : Nat) (f : Region → Region) : (s.modRegion k f).poison = s.poison := rfl
@[simp] theorem State.modRegion_dirty (s : State) (k : Nat) (f : Region → Region) : (s.modRegion k f).dirty = s.dirty := rfl
@[simp] theorem State.modRegion_views (s : State) (k : Nat) (f : Region → Region) : (s.modRegion k f).views = s.views := rfl
@[simp] theorem State.modRegion_holds (s : State) (k : Nat) (f : Region → Region) : (s.modRegion k f).holds = s.holds := rfl
@[simp] theorem State.modRegion_oaWaits (s : State) (k : Nat) (f : Region → Region) : (s.modRegion k f).oaWaits = s.oaWaits := rfl
@[simp] theorem State.modRegion_pend (s : State) (k : Nat) (f : Region → Region) : (s.modRegion k f).pend = s.pend := rfl
@[simp] theorem State.modRegion_flight (s : State) (k : Nat) (f : Region → Region) : (s.modRegion k f).flight = s.flight := rfl
@[simp] theorem State.modRegion_tlbs (s : State) (k : Nat) (f : Region → Region) : (s.modRegion k f).tlbs = s.tlbs := rfl
@[simp] theorem State.modRegion_walks (s : State) (k : Nat) (f : Region → Region) : (s.modRegion k f).walks = s.walks := rfl
@[simp] theorem State.modRegion_invs (s : State) (k : Nat) (f : Region → Region) : (s.modRegion k f).invs = s.invs := rfl
@[simp] theorem State.modRegion_stages (s : State) (k : Nat) (f : Region → Region) : (s.modRegion k f).stages = s.stages := rfl
@[simp] theorem State.modRegion_links (s : State) (k : Nat) (f : Region → Region) : (s.modRegion k f).links = s.links := rfl
@[simp] theorem State.modRegion_flows (s : State) (k : Nat) (f : Region → Region) : (s.modRegion k f).flows = s.flows := rfl
@[simp] theorem State.modRegion_flowsIn (s : State) (k : Nat) (f : Region → Region) : (s.modRegion k f).flowsIn = s.flowsIn := rfl
@[simp] theorem State.modRegion_sentPkts (s : State) (k : Nat) (f : Region → Region) : (s.modRegion k f).sentPkts = s.sentPkts := rfl
@[simp] theorem State.modRegion_shore (s : State) (k : Nat) (f : Region → Region) : (s.modRegion k f).shore = s.shore := rfl
@[simp] theorem State.modRegion_rx (s : State) (k : Nat) (f : Region → Region) : (s.modRegion k f).rx = s.rx := rfl
@[simp] theorem State.modRegion_mcAcks (s : State) (k : Nat) (f : Region → Region) : (s.modRegion k f).mcAcks = s.mcAcks := rfl
@[simp] theorem State.modRegion_linkJobs (s : State) (k : Nat) (f : Region → Region) : (s.modRegion k f).linkJobs = s.linkJobs := rfl
@[simp] theorem State.modRegion_sealing (s : State) (k : Nat) (f : Region → Region) : (s.modRegion k f).sealing = s.sealing := rfl
@[simp] theorem State.modRegion_fw (s : State) (k : Nat) (f : Region → Region) : (s.modRegion k f).fw = s.fw := rfl
@[simp] theorem State.modRegion_clTab (s : State) (k : Nat) (f : Region → Region) : (s.modRegion k f).clTab = s.clTab := rfl
@[simp] theorem State.modRegion_parts (s : State) (k : Nat) (f : Region → Region) : (s.modRegion k f).parts = s.parts := rfl
@[simp] theorem State.modRegion_intrs (s : State) (k : Nat) (f : Region → Region) : (s.modRegion k f).intrs = s.intrs := rfl
@[simp] theorem State.modRegion_hostReads (s : State) (k : Nat) (f : Region → Region) : (s.modRegion k f).hostReads = s.hostReads := rfl
@[simp] theorem State.modRegion_spdm (s : State) (k : Nat) (f : Region → Region) : (s.modRegion k f).spdm = s.spdm := rfl
@[simp] theorem State.modRegion_sealMsgs (s : State) (k : Nat) (f : Region → Region) : (s.modRegion k f).sealMsgs = s.sealMsgs := rfl

/-! ### setPool -/

@[simp] theorem State.setPool_agenda (s : State) (x n : Nat) (p : Pool) : (s.setPool x n p).agenda = s.agenda := rfl
@[simp] theorem State.setPool_focus (s : State) (x n : Nat) (p : Pool) : (s.setPool x n p).focus = s.focus := rfl
@[simp] theorem State.setPool_focusSlot (s : State) (x n : Nat) (p : Pool) : (s.setPool x n p).focusSlot = s.focusSlot := rfl
@[simp] theorem State.setPool_fresh (s : State) (x n : Nat) (p : Pool) : (s.setPool x n p).fresh = s.fresh := rfl
@[simp] theorem State.setPool_nextId (s : State) (x n : Nat) (p : Pool) : (s.setPool x n p).nextId = s.nextId := rfl
@[simp] theorem State.setPool_outstanding (s : State) (x n : Nat) (p : Pool) : (s.setPool x n p).outstanding = s.outstanding := rfl
@[simp] theorem State.setPool_mpos (s : State) (x n : Nat) (p : Pool) : (s.setPool x n p).mpos = s.mpos := rfl
@[simp] theorem State.setPool_hist (s : State) (x n : Nat) (p : Pool) : (s.setPool x n p).hist = s.hist := rfl
@[simp] theorem State.setPool_done (s : State) (x n : Nat) (p : Pool) : (s.setPool x n p).done = s.done := rfl
@[simp] theorem State.setPool_dev (s : State) (x n : Nat) (p : Pool) : (s.setPool x n p).dev = s.dev := rfl
@[simp] theorem State.setPool_dies (s : State) (x n : Nat) (p : Pool) : (s.setPool x n p).dies = s.dies := rfl
@[simp] theorem State.setPool_coreSel (s : State) (x n : Nat) (p : Pool) : (s.setPool x n p).coreSel = s.coreSel := rfl
@[simp] theorem State.setPool_ctxs (s : State) (x n : Nat) (p : Pool) : (s.setPool x n p).ctxs = s.ctxs := rfl
@[simp] theorem State.setPool_regions (s : State) (x n : Nat) (p : Pool) : (s.setPool x n p).regions = s.regions := rfl
@[simp] theorem State.setPool_units (s : State) (x n : Nat) (p : Pool) : (s.setPool x n p).units = s.units := rfl
@[simp] theorem State.setPool_clusters (s : State) (x n : Nat) (p : Pool) : (s.setPool x n p).clusters = s.clusters := rfl
@[simp] theorem State.setPool_pools (s : State) (x n : Nat) (p : Pool) : (s.setPool x n p).pools = tabSet s.pools (poolKey x n) p := rfl
@[simp] theorem State.setPool_poolLeft (s : State) (x n : Nat) (p : Pool) : (s.setPool x n p).poolLeft = s.poolLeft := rfl
@[simp] theorem State.setPool_queues (s : State) (x n : Nat) (p : Pool) : (s.setPool x n p).queues = s.queues := rfl
@[simp] theorem State.setPool_served (s : State) (x n : Nat) (p : Pool) : (s.setPool x n p).served = s.served := rfl
@[simp] theorem State.setPool_fns (s : State) (x n : Nat) (p : Pool) : (s.setPool x n p).fns = s.fns := rfl
@[simp] theorem State.setPool_groups (s : State) (x n : Nat) (p : Pool) : (s.setPool x n p).groups = s.groups := rfl
@[simp] theorem State.setPool_launches (s : State) (x n : Nat) (p : Pool) : (s.setPool x n p).launches = s.launches := rfl
@[simp] theorem State.setPool_patches (s : State) (x n : Nat) (p : Pool) : (s.setPool x n p).patches = s.patches := rfl
@[simp] theorem State.setPool_snaps (s : State) (x n : Nat) (p : Pool) : (s.setPool x n p).snaps = s.snaps := rfl
@[simp] theorem State.setPool_tasks (s : State) (x n : Nat) (p : Pool) : (s.setPool x n p).tasks = s.tasks := rfl
@[simp] theorem State.setPool_mem (s : State) (x n : Nat) (p : Pool) : (s.setPool x n p).mem = s.mem := rfl
@[simp] theorem State.setPool_hostMem (s : State) (x n : Nat) (p : Pool) : (s.setPool x n p).hostMem = s.hostMem := rfl
@[simp] theorem State.setPool_poison (s : State) (x n : Nat) (p : Pool) : (s.setPool x n p).poison = s.poison := rfl
@[simp] theorem State.setPool_dirty (s : State) (x n : Nat) (p : Pool) : (s.setPool x n p).dirty = s.dirty := rfl
@[simp] theorem State.setPool_views (s : State) (x n : Nat) (p : Pool) : (s.setPool x n p).views = s.views := rfl
@[simp] theorem State.setPool_holds (s : State) (x n : Nat) (p : Pool) : (s.setPool x n p).holds = s.holds := rfl
@[simp] theorem State.setPool_oaWaits (s : State) (x n : Nat) (p : Pool) : (s.setPool x n p).oaWaits = s.oaWaits := rfl
@[simp] theorem State.setPool_pend (s : State) (x n : Nat) (p : Pool) : (s.setPool x n p).pend = s.pend := rfl
@[simp] theorem State.setPool_flight (s : State) (x n : Nat) (p : Pool) : (s.setPool x n p).flight = s.flight := rfl
@[simp] theorem State.setPool_tlbs (s : State) (x n : Nat) (p : Pool) : (s.setPool x n p).tlbs = s.tlbs := rfl
@[simp] theorem State.setPool_walks (s : State) (x n : Nat) (p : Pool) : (s.setPool x n p).walks = s.walks := rfl
@[simp] theorem State.setPool_invs (s : State) (x n : Nat) (p : Pool) : (s.setPool x n p).invs = s.invs := rfl
@[simp] theorem State.setPool_stages (s : State) (x n : Nat) (p : Pool) : (s.setPool x n p).stages = s.stages := rfl
@[simp] theorem State.setPool_links (s : State) (x n : Nat) (p : Pool) : (s.setPool x n p).links = s.links := rfl
@[simp] theorem State.setPool_flows (s : State) (x n : Nat) (p : Pool) : (s.setPool x n p).flows = s.flows := rfl
@[simp] theorem State.setPool_flowsIn (s : State) (x n : Nat) (p : Pool) : (s.setPool x n p).flowsIn = s.flowsIn := rfl
@[simp] theorem State.setPool_sentPkts (s : State) (x n : Nat) (p : Pool) : (s.setPool x n p).sentPkts = s.sentPkts := rfl
@[simp] theorem State.setPool_shore (s : State) (x n : Nat) (p : Pool) : (s.setPool x n p).shore = s.shore := rfl
@[simp] theorem State.setPool_rx (s : State) (x n : Nat) (p : Pool) : (s.setPool x n p).rx = s.rx := rfl
@[simp] theorem State.setPool_mcAcks (s : State) (x n : Nat) (p : Pool) : (s.setPool x n p).mcAcks = s.mcAcks := rfl
@[simp] theorem State.setPool_linkJobs (s : State) (x n : Nat) (p : Pool) : (s.setPool x n p).linkJobs = s.linkJobs := rfl
@[simp] theorem State.setPool_sealing (s : State) (x n : Nat) (p : Pool) : (s.setPool x n p).sealing = s.sealing := rfl
@[simp] theorem State.setPool_fw (s : State) (x n : Nat) (p : Pool) : (s.setPool x n p).fw = s.fw := rfl
@[simp] theorem State.setPool_clTab (s : State) (x n : Nat) (p : Pool) : (s.setPool x n p).clTab = s.clTab := rfl
@[simp] theorem State.setPool_parts (s : State) (x n : Nat) (p : Pool) : (s.setPool x n p).parts = s.parts := rfl
@[simp] theorem State.setPool_intrs (s : State) (x n : Nat) (p : Pool) : (s.setPool x n p).intrs = s.intrs := rfl
@[simp] theorem State.setPool_hostReads (s : State) (x n : Nat) (p : Pool) : (s.setPool x n p).hostReads = s.hostReads := rfl
@[simp] theorem State.setPool_spdm (s : State) (x n : Nat) (p : Pool) : (s.setPool x n p).spdm = s.spdm := rfl
@[simp] theorem State.setPool_sealMsgs (s : State) (x n : Nat) (p : Pool) : (s.setPool x n p).sealMsgs = s.sealMsgs := rfl

/-! ### modQueue -/

@[simp] theorem State.modQueue_agenda (s : State) (q : Nat) (f : Queue → Queue) : (s.modQueue q f).agenda = s.agenda := rfl
@[simp] theorem State.modQueue_focus (s : State) (q : Nat) (f : Queue → Queue) : (s.modQueue q f).focus = s.focus := rfl
@[simp] theorem State.modQueue_focusSlot (s : State) (q : Nat) (f : Queue → Queue) : (s.modQueue q f).focusSlot = s.focusSlot := rfl
@[simp] theorem State.modQueue_fresh (s : State) (q : Nat) (f : Queue → Queue) : (s.modQueue q f).fresh = s.fresh := rfl
@[simp] theorem State.modQueue_nextId (s : State) (q : Nat) (f : Queue → Queue) : (s.modQueue q f).nextId = s.nextId := rfl
@[simp] theorem State.modQueue_outstanding (s : State) (q : Nat) (f : Queue → Queue) : (s.modQueue q f).outstanding = s.outstanding := rfl
@[simp] theorem State.modQueue_mpos (s : State) (q : Nat) (f : Queue → Queue) : (s.modQueue q f).mpos = s.mpos := rfl
@[simp] theorem State.modQueue_hist (s : State) (q : Nat) (f : Queue → Queue) : (s.modQueue q f).hist = s.hist := rfl
@[simp] theorem State.modQueue_done (s : State) (q : Nat) (f : Queue → Queue) : (s.modQueue q f).done = s.done := rfl
@[simp] theorem State.modQueue_dev (s : State) (q : Nat) (f : Queue → Queue) : (s.modQueue q f).dev = s.dev := rfl
@[simp] theorem State.modQueue_dies (s : State) (q : Nat) (f : Queue → Queue) : (s.modQueue q f).dies = s.dies := rfl
@[simp] theorem State.modQueue_coreSel (s : State) (q : Nat) (f : Queue → Queue) : (s.modQueue q f).coreSel = s.coreSel := rfl
@[simp] theorem State.modQueue_ctxs (s : State) (q : Nat) (f : Queue → Queue) : (s.modQueue q f).ctxs = s.ctxs := rfl
@[simp] theorem State.modQueue_regions (s : State) (q : Nat) (f : Queue → Queue) : (s.modQueue q f).regions = s.regions := rfl
@[simp] theorem State.modQueue_units (s : State) (q : Nat) (f : Queue → Queue) : (s.modQueue q f).units = s.units := rfl
@[simp] theorem State.modQueue_clusters (s : State) (q : Nat) (f : Queue → Queue) : (s.modQueue q f).clusters = s.clusters := rfl
@[simp] theorem State.modQueue_pools (s : State) (q : Nat) (f : Queue → Queue) : (s.modQueue q f).pools = s.pools := rfl
@[simp] theorem State.modQueue_poolLeft (s : State) (q : Nat) (f : Queue → Queue) : (s.modQueue q f).poolLeft = s.poolLeft := rfl
@[simp] theorem State.modQueue_queues (s : State) (q : Nat) (f : Queue → Queue) : (s.modQueue q f).queues = tabMod s.queues q f := rfl
@[simp] theorem State.modQueue_served (s : State) (q : Nat) (f : Queue → Queue) : (s.modQueue q f).served = s.served := rfl
@[simp] theorem State.modQueue_fns (s : State) (q : Nat) (f : Queue → Queue) : (s.modQueue q f).fns = s.fns := rfl
@[simp] theorem State.modQueue_groups (s : State) (q : Nat) (f : Queue → Queue) : (s.modQueue q f).groups = s.groups := rfl
@[simp] theorem State.modQueue_launches (s : State) (q : Nat) (f : Queue → Queue) : (s.modQueue q f).launches = s.launches := rfl
@[simp] theorem State.modQueue_patches (s : State) (q : Nat) (f : Queue → Queue) : (s.modQueue q f).patches = s.patches := rfl
@[simp] theorem State.modQueue_snaps (s : State) (q : Nat) (f : Queue → Queue) : (s.modQueue q f).snaps = s.snaps := rfl
@[simp] theorem State.modQueue_tasks (s : State) (q : Nat) (f : Queue → Queue) : (s.modQueue q f).tasks = s.tasks := rfl
@[simp] theorem State.modQueue_mem (s : State) (q : Nat) (f : Queue → Queue) : (s.modQueue q f).mem = s.mem := rfl
@[simp] theorem State.modQueue_hostMem (s : State) (q : Nat) (f : Queue → Queue) : (s.modQueue q f).hostMem = s.hostMem := rfl
@[simp] theorem State.modQueue_poison (s : State) (q : Nat) (f : Queue → Queue) : (s.modQueue q f).poison = s.poison := rfl
@[simp] theorem State.modQueue_dirty (s : State) (q : Nat) (f : Queue → Queue) : (s.modQueue q f).dirty = s.dirty := rfl
@[simp] theorem State.modQueue_views (s : State) (q : Nat) (f : Queue → Queue) : (s.modQueue q f).views = s.views := rfl
@[simp] theorem State.modQueue_holds (s : State) (q : Nat) (f : Queue → Queue) : (s.modQueue q f).holds = s.holds := rfl
@[simp] theorem State.modQueue_oaWaits (s : State) (q : Nat) (f : Queue → Queue) : (s.modQueue q f).oaWaits = s.oaWaits := rfl
@[simp] theorem State.modQueue_pend (s : State) (q : Nat) (f : Queue → Queue) : (s.modQueue q f).pend = s.pend := rfl
@[simp] theorem State.modQueue_flight (s : State) (q : Nat) (f : Queue → Queue) : (s.modQueue q f).flight = s.flight := rfl
@[simp] theorem State.modQueue_tlbs (s : State) (q : Nat) (f : Queue → Queue) : (s.modQueue q f).tlbs = s.tlbs := rfl
@[simp] theorem State.modQueue_walks (s : State) (q : Nat) (f : Queue → Queue) : (s.modQueue q f).walks = s.walks := rfl
@[simp] theorem State.modQueue_invs (s : State) (q : Nat) (f : Queue → Queue) : (s.modQueue q f).invs = s.invs := rfl
@[simp] theorem State.modQueue_stages (s : State) (q : Nat) (f : Queue → Queue) : (s.modQueue q f).stages = s.stages := rfl
@[simp] theorem State.modQueue_links (s : State) (q : Nat) (f : Queue → Queue) : (s.modQueue q f).links = s.links := rfl
@[simp] theorem State.modQueue_flows (s : State) (q : Nat) (f : Queue → Queue) : (s.modQueue q f).flows = s.flows := rfl
@[simp] theorem State.modQueue_flowsIn (s : State) (q : Nat) (f : Queue → Queue) : (s.modQueue q f).flowsIn = s.flowsIn := rfl
@[simp] theorem State.modQueue_sentPkts (s : State) (q : Nat) (f : Queue → Queue) : (s.modQueue q f).sentPkts = s.sentPkts := rfl
@[simp] theorem State.modQueue_shore (s : State) (q : Nat) (f : Queue → Queue) : (s.modQueue q f).shore = s.shore := rfl
@[simp] theorem State.modQueue_rx (s : State) (q : Nat) (f : Queue → Queue) : (s.modQueue q f).rx = s.rx := rfl
@[simp] theorem State.modQueue_mcAcks (s : State) (q : Nat) (f : Queue → Queue) : (s.modQueue q f).mcAcks = s.mcAcks := rfl
@[simp] theorem State.modQueue_linkJobs (s : State) (q : Nat) (f : Queue → Queue) : (s.modQueue q f).linkJobs = s.linkJobs := rfl
@[simp] theorem State.modQueue_sealing (s : State) (q : Nat) (f : Queue → Queue) : (s.modQueue q f).sealing = s.sealing := rfl
@[simp] theorem State.modQueue_fw (s : State) (q : Nat) (f : Queue → Queue) : (s.modQueue q f).fw = s.fw := rfl
@[simp] theorem State.modQueue_clTab (s : State) (q : Nat) (f : Queue → Queue) : (s.modQueue q f).clTab = s.clTab := rfl
@[simp] theorem State.modQueue_parts (s : State) (q : Nat) (f : Queue → Queue) : (s.modQueue q f).parts = s.parts := rfl
@[simp] theorem State.modQueue_intrs (s : State) (q : Nat) (f : Queue → Queue) : (s.modQueue q f).intrs = s.intrs := rfl
@[simp] theorem State.modQueue_hostReads (s : State) (q : Nat) (f : Queue → Queue) : (s.modQueue q f).hostReads = s.hostReads := rfl
@[simp] theorem State.modQueue_spdm (s : State) (q : Nat) (f : Queue → Queue) : (s.modQueue q f).spdm = s.spdm := rfl
@[simp] theorem State.modQueue_sealMsgs (s : State) (q : Nat) (f : Queue → Queue) : (s.modQueue q f).sealMsgs = s.sealMsgs := rfl

/-! ### modLink -/

@[simp] theorem State.modLink_agenda (s : State) (n : Nat) (f : Link → Link) : (s.modLink n f).agenda = s.agenda := rfl
@[simp] theorem State.modLink_focus (s : State) (n : Nat) (f : Link → Link) : (s.modLink n f).focus = s.focus := rfl
@[simp] theorem State.modLink_focusSlot (s : State) (n : Nat) (f : Link → Link) : (s.modLink n f).focusSlot = s.focusSlot := rfl
@[simp] theorem State.modLink_fresh (s : State) (n : Nat) (f : Link → Link) : (s.modLink n f).fresh = s.fresh := rfl
@[simp] theorem State.modLink_nextId (s : State) (n : Nat) (f : Link → Link) : (s.modLink n f).nextId = s.nextId := rfl
@[simp] theorem State.modLink_outstanding (s : State) (n : Nat) (f : Link → Link) : (s.modLink n f).outstanding = s.outstanding := rfl
@[simp] theorem State.modLink_mpos (s : State) (n : Nat) (f : Link → Link) : (s.modLink n f).mpos = s.mpos := rfl
@[simp] theorem State.modLink_hist (s : State) (n : Nat) (f : Link → Link) : (s.modLink n f).hist = s.hist := rfl
@[simp] theorem State.modLink_done (s : State) (n : Nat) (f : Link → Link) : (s.modLink n f).done = s.done := rfl
@[simp] theorem State.modLink_dev (s : State) (n : Nat) (f : Link → Link) : (s.modLink n f).dev = s.dev := rfl
@[simp] theorem State.modLink_dies (s : State) (n : Nat) (f : Link → Link) : (s.modLink n f).dies = s.dies := rfl
@[simp] theorem State.modLink_coreSel (s : State) (n : Nat) (f : Link → Link) : (s.modLink n f).coreSel = s.coreSel := rfl
@[simp] theorem State.modLink_ctxs (s : State) (n : Nat) (f : Link → Link) : (s.modLink n f).ctxs = s.ctxs := rfl
@[simp] theorem State.modLink_regions (s : State) (n : Nat) (f : Link → Link) : (s.modLink n f).regions = s.regions := rfl
@[simp] theorem State.modLink_units (s : State) (n : Nat) (f : Link → Link) : (s.modLink n f).units = s.units := rfl
@[simp] theorem State.modLink_clusters (s : State) (n : Nat) (f : Link → Link) : (s.modLink n f).clusters = s.clusters := rfl
@[simp] theorem State.modLink_pools (s : State) (n : Nat) (f : Link → Link) : (s.modLink n f).pools = s.pools := rfl
@[simp] theorem State.modLink_poolLeft (s : State) (n : Nat) (f : Link → Link) : (s.modLink n f).poolLeft = s.poolLeft := rfl
@[simp] theorem State.modLink_queues (s : State) (n : Nat) (f : Link → Link) : (s.modLink n f).queues = s.queues := rfl
@[simp] theorem State.modLink_served (s : State) (n : Nat) (f : Link → Link) : (s.modLink n f).served = s.served := rfl
@[simp] theorem State.modLink_fns (s : State) (n : Nat) (f : Link → Link) : (s.modLink n f).fns = s.fns := rfl
@[simp] theorem State.modLink_groups (s : State) (n : Nat) (f : Link → Link) : (s.modLink n f).groups = s.groups := rfl
@[simp] theorem State.modLink_launches (s : State) (n : Nat) (f : Link → Link) : (s.modLink n f).launches = s.launches := rfl
@[simp] theorem State.modLink_patches (s : State) (n : Nat) (f : Link → Link) : (s.modLink n f).patches = s.patches := rfl
@[simp] theorem State.modLink_snaps (s : State) (n : Nat) (f : Link → Link) : (s.modLink n f).snaps = s.snaps := rfl
@[simp] theorem State.modLink_tasks (s : State) (n : Nat) (f : Link → Link) : (s.modLink n f).tasks = s.tasks := rfl
@[simp] theorem State.modLink_mem (s : State) (n : Nat) (f : Link → Link) : (s.modLink n f).mem = s.mem := rfl
@[simp] theorem State.modLink_hostMem (s : State) (n : Nat) (f : Link → Link) : (s.modLink n f).hostMem = s.hostMem := rfl
@[simp] theorem State.modLink_poison (s : State) (n : Nat) (f : Link → Link) : (s.modLink n f).poison = s.poison := rfl
@[simp] theorem State.modLink_dirty (s : State) (n : Nat) (f : Link → Link) : (s.modLink n f).dirty = s.dirty := rfl
@[simp] theorem State.modLink_views (s : State) (n : Nat) (f : Link → Link) : (s.modLink n f).views = s.views := rfl
@[simp] theorem State.modLink_holds (s : State) (n : Nat) (f : Link → Link) : (s.modLink n f).holds = s.holds := rfl
@[simp] theorem State.modLink_oaWaits (s : State) (n : Nat) (f : Link → Link) : (s.modLink n f).oaWaits = s.oaWaits := rfl
@[simp] theorem State.modLink_pend (s : State) (n : Nat) (f : Link → Link) : (s.modLink n f).pend = s.pend := rfl
@[simp] theorem State.modLink_flight (s : State) (n : Nat) (f : Link → Link) : (s.modLink n f).flight = s.flight := rfl
@[simp] theorem State.modLink_tlbs (s : State) (n : Nat) (f : Link → Link) : (s.modLink n f).tlbs = s.tlbs := rfl
@[simp] theorem State.modLink_walks (s : State) (n : Nat) (f : Link → Link) : (s.modLink n f).walks = s.walks := rfl
@[simp] theorem State.modLink_invs (s : State) (n : Nat) (f : Link → Link) : (s.modLink n f).invs = s.invs := rfl
@[simp] theorem State.modLink_stages (s : State) (n : Nat) (f : Link → Link) : (s.modLink n f).stages = s.stages := rfl
@[simp] theorem State.modLink_links (s : State) (n : Nat) (f : Link → Link) : (s.modLink n f).links = tabMod s.links n f := rfl
@[simp] theorem State.modLink_flows (s : State) (n : Nat) (f : Link → Link) : (s.modLink n f).flows = s.flows := rfl
@[simp] theorem State.modLink_flowsIn (s : State) (n : Nat) (f : Link → Link) : (s.modLink n f).flowsIn = s.flowsIn := rfl
@[simp] theorem State.modLink_sentPkts (s : State) (n : Nat) (f : Link → Link) : (s.modLink n f).sentPkts = s.sentPkts := rfl
@[simp] theorem State.modLink_shore (s : State) (n : Nat) (f : Link → Link) : (s.modLink n f).shore = s.shore := rfl
@[simp] theorem State.modLink_rx (s : State) (n : Nat) (f : Link → Link) : (s.modLink n f).rx = s.rx := rfl
@[simp] theorem State.modLink_mcAcks (s : State) (n : Nat) (f : Link → Link) : (s.modLink n f).mcAcks = s.mcAcks := rfl
@[simp] theorem State.modLink_linkJobs (s : State) (n : Nat) (f : Link → Link) : (s.modLink n f).linkJobs = s.linkJobs := rfl
@[simp] theorem State.modLink_sealing (s : State) (n : Nat) (f : Link → Link) : (s.modLink n f).sealing = s.sealing := rfl
@[simp] theorem State.modLink_fw (s : State) (n : Nat) (f : Link → Link) : (s.modLink n f).fw = s.fw := rfl
@[simp] theorem State.modLink_clTab (s : State) (n : Nat) (f : Link → Link) : (s.modLink n f).clTab = s.clTab := rfl
@[simp] theorem State.modLink_parts (s : State) (n : Nat) (f : Link → Link) : (s.modLink n f).parts = s.parts := rfl
@[simp] theorem State.modLink_intrs (s : State) (n : Nat) (f : Link → Link) : (s.modLink n f).intrs = s.intrs := rfl
@[simp] theorem State.modLink_hostReads (s : State) (n : Nat) (f : Link → Link) : (s.modLink n f).hostReads = s.hostReads := rfl
@[simp] theorem State.modLink_spdm (s : State) (n : Nat) (f : Link → Link) : (s.modLink n f).spdm = s.spdm := rfl
@[simp] theorem State.modLink_sealMsgs (s : State) (n : Nat) (f : Link → Link) : (s.modLink n f).sealMsgs = s.sealMsgs := rfl

/-! ### setDev -/

@[simp] theorem State.setDev_agenda (s : State) (n : Nat) (v : Word) : (s.setDev n v).agenda = s.agenda := rfl
@[simp] theorem State.setDev_focus (s : State) (n : Nat) (v : Word) : (s.setDev n v).focus = s.focus := rfl
@[simp] theorem State.setDev_focusSlot (s : State) (n : Nat) (v : Word) : (s.setDev n v).focusSlot = s.focusSlot := rfl
@[simp] theorem State.setDev_fresh (s : State) (n : Nat) (v : Word) : (s.setDev n v).fresh = s.fresh := rfl
@[simp] theorem State.setDev_nextId (s : State) (n : Nat) (v : Word) : (s.setDev n v).nextId = s.nextId := rfl
@[simp] theorem State.setDev_outstanding (s : State) (n : Nat) (v : Word) : (s.setDev n v).outstanding = s.outstanding := rfl
@[simp] theorem State.setDev_mpos (s : State) (n : Nat) (v : Word) : (s.setDev n v).mpos = s.mpos := rfl
@[simp] theorem State.setDev_hist (s : State) (n : Nat) (v : Word) : (s.setDev n v).hist = s.hist := rfl
@[simp] theorem State.setDev_done (s : State) (n : Nat) (v : Word) : (s.setDev n v).done = s.done := rfl
@[simp] theorem State.setDev_dev (s : State) (n : Nat) (v : Word) : (s.setDev n v).dev = tabSet s.dev n v := rfl
@[simp] theorem State.setDev_dies (s : State) (n : Nat) (v : Word) : (s.setDev n v).dies = s.dies := rfl
@[simp] theorem State.setDev_coreSel (s : State) (n : Nat) (v : Word) : (s.setDev n v).coreSel = s.coreSel := rfl
@[simp] theorem State.setDev_ctxs (s : State) (n : Nat) (v : Word) : (s.setDev n v).ctxs = s.ctxs := rfl
@[simp] theorem State.setDev_regions (s : State) (n : Nat) (v : Word) : (s.setDev n v).regions = s.regions := rfl
@[simp] theorem State.setDev_units (s : State) (n : Nat) (v : Word) : (s.setDev n v).units = s.units := rfl
@[simp] theorem State.setDev_clusters (s : State) (n : Nat) (v : Word) : (s.setDev n v).clusters = s.clusters := rfl
@[simp] theorem State.setDev_pools (s : State) (n : Nat) (v : Word) : (s.setDev n v).pools = s.pools := rfl
@[simp] theorem State.setDev_poolLeft (s : State) (n : Nat) (v : Word) : (s.setDev n v).poolLeft = s.poolLeft := rfl
@[simp] theorem State.setDev_queues (s : State) (n : Nat) (v : Word) : (s.setDev n v).queues = s.queues := rfl
@[simp] theorem State.setDev_served (s : State) (n : Nat) (v : Word) : (s.setDev n v).served = s.served := rfl
@[simp] theorem State.setDev_fns (s : State) (n : Nat) (v : Word) : (s.setDev n v).fns = s.fns := rfl
@[simp] theorem State.setDev_groups (s : State) (n : Nat) (v : Word) : (s.setDev n v).groups = s.groups := rfl
@[simp] theorem State.setDev_launches (s : State) (n : Nat) (v : Word) : (s.setDev n v).launches = s.launches := rfl
@[simp] theorem State.setDev_patches (s : State) (n : Nat) (v : Word) : (s.setDev n v).patches = s.patches := rfl
@[simp] theorem State.setDev_snaps (s : State) (n : Nat) (v : Word) : (s.setDev n v).snaps = s.snaps := rfl
@[simp] theorem State.setDev_tasks (s : State) (n : Nat) (v : Word) : (s.setDev n v).tasks = s.tasks := rfl
@[simp] theorem State.setDev_mem (s : State) (n : Nat) (v : Word) : (s.setDev n v).mem = s.mem := rfl
@[simp] theorem State.setDev_hostMem (s : State) (n : Nat) (v : Word) : (s.setDev n v).hostMem = s.hostMem := rfl
@[simp] theorem State.setDev_poison (s : State) (n : Nat) (v : Word) : (s.setDev n v).poison = s.poison := rfl
@[simp] theorem State.setDev_dirty (s : State) (n : Nat) (v : Word) : (s.setDev n v).dirty = s.dirty := rfl
@[simp] theorem State.setDev_views (s : State) (n : Nat) (v : Word) : (s.setDev n v).views = s.views := rfl
@[simp] theorem State.setDev_holds (s : State) (n : Nat) (v : Word) : (s.setDev n v).holds = s.holds := rfl
@[simp] theorem State.setDev_oaWaits (s : State) (n : Nat) (v : Word) : (s.setDev n v).oaWaits = s.oaWaits := rfl
@[simp] theorem State.setDev_pend (s : State) (n : Nat) (v : Word) : (s.setDev n v).pend = s.pend := rfl
@[simp] theorem State.setDev_flight (s : State) (n : Nat) (v : Word) : (s.setDev n v).flight = s.flight := rfl
@[simp] theorem State.setDev_tlbs (s : State) (n : Nat) (v : Word) : (s.setDev n v).tlbs = s.tlbs := rfl
@[simp] theorem State.setDev_walks (s : State) (n : Nat) (v : Word) : (s.setDev n v).walks = s.walks := rfl
@[simp] theorem State.setDev_invs (s : State) (n : Nat) (v : Word) : (s.setDev n v).invs = s.invs := rfl
@[simp] theorem State.setDev_stages (s : State) (n : Nat) (v : Word) : (s.setDev n v).stages = s.stages := rfl
@[simp] theorem State.setDev_links (s : State) (n : Nat) (v : Word) : (s.setDev n v).links = s.links := rfl
@[simp] theorem State.setDev_flows (s : State) (n : Nat) (v : Word) : (s.setDev n v).flows = s.flows := rfl
@[simp] theorem State.setDev_flowsIn (s : State) (n : Nat) (v : Word) : (s.setDev n v).flowsIn = s.flowsIn := rfl
@[simp] theorem State.setDev_sentPkts (s : State) (n : Nat) (v : Word) : (s.setDev n v).sentPkts = s.sentPkts := rfl
@[simp] theorem State.setDev_shore (s : State) (n : Nat) (v : Word) : (s.setDev n v).shore = s.shore := rfl
@[simp] theorem State.setDev_rx (s : State) (n : Nat) (v : Word) : (s.setDev n v).rx = s.rx := rfl
@[simp] theorem State.setDev_mcAcks (s : State) (n : Nat) (v : Word) : (s.setDev n v).mcAcks = s.mcAcks := rfl
@[simp] theorem State.setDev_linkJobs (s : State) (n : Nat) (v : Word) : (s.setDev n v).linkJobs = s.linkJobs := rfl
@[simp] theorem State.setDev_sealing (s : State) (n : Nat) (v : Word) : (s.setDev n v).sealing = s.sealing := rfl
@[simp] theorem State.setDev_fw (s : State) (n : Nat) (v : Word) : (s.setDev n v).fw = s.fw := rfl
@[simp] theorem State.setDev_clTab (s : State) (n : Nat) (v : Word) : (s.setDev n v).clTab = s.clTab := rfl
@[simp] theorem State.setDev_parts (s : State) (n : Nat) (v : Word) : (s.setDev n v).parts = s.parts := rfl
@[simp] theorem State.setDev_intrs (s : State) (n : Nat) (v : Word) : (s.setDev n v).intrs = s.intrs := rfl
@[simp] theorem State.setDev_hostReads (s : State) (n : Nat) (v : Word) : (s.setDev n v).hostReads = s.hostReads := rfl
@[simp] theorem State.setDev_spdm (s : State) (n : Nat) (v : Word) : (s.setDev n v).spdm = s.spdm := rfl
@[simp] theorem State.setDev_sealMsgs (s : State) (n : Nat) (v : Word) : (s.setDev n v).sealMsgs = s.sealMsgs := rfl

/-! ### meet -/

@[simp] theorem State.meet_agenda (s : State) (k : Nat) : (s.meet k).agenda = s.agenda := rfl
@[simp] theorem State.meet_focus (s : State) (k : Nat) : (s.meet k).focus = s.focus := rfl
@[simp] theorem State.meet_focusSlot (s : State) (k : Nat) : (s.meet k).focusSlot = s.focusSlot := rfl
@[simp] theorem State.meet_fresh (s : State) (k : Nat) : (s.meet k).fresh = s.fresh := rfl
@[simp] theorem State.meet_nextId (s : State) (k : Nat) : (s.meet k).nextId = s.nextId := rfl
@[simp] theorem State.meet_outstanding (s : State) (k : Nat) : (s.meet k).outstanding = s.outstanding.filter (· ≠ k) := rfl
@[simp] theorem State.meet_mpos (s : State) (k : Nat) : (s.meet k).mpos = s.mpos := rfl
@[simp] theorem State.meet_hist (s : State) (k : Nat) : (s.meet k).hist = s.hist := rfl
@[simp] theorem State.meet_done (s : State) (k : Nat) : (s.meet k).done = (s.follows k s.mpos).done := rfl
@[simp] theorem State.meet_dev (s : State) (k : Nat) : (s.meet k).dev = s.dev := rfl
@[simp] theorem State.meet_dies (s : State) (k : Nat) : (s.meet k).dies = s.dies := rfl
@[simp] theorem State.meet_coreSel (s : State) (k : Nat) : (s.meet k).coreSel = s.coreSel := rfl
@[simp] theorem State.meet_ctxs (s : State) (k : Nat) : (s.meet k).ctxs = s.ctxs := rfl
@[simp] theorem State.meet_regions (s : State) (k : Nat) : (s.meet k).regions = s.regions := rfl
@[simp] theorem State.meet_units (s : State) (k : Nat) : (s.meet k).units = s.units := rfl
@[simp] theorem State.meet_clusters (s : State) (k : Nat) : (s.meet k).clusters = s.clusters := rfl
@[simp] theorem State.meet_pools (s : State) (k : Nat) : (s.meet k).pools = s.pools := rfl
@[simp] theorem State.meet_poolLeft (s : State) (k : Nat) : (s.meet k).poolLeft = s.poolLeft := rfl
@[simp] theorem State.meet_queues (s : State) (k : Nat) : (s.meet k).queues = s.queues := rfl
@[simp] theorem State.meet_served (s : State) (k : Nat) : (s.meet k).served = s.served := rfl
@[simp] theorem State.meet_fns (s : State) (k : Nat) : (s.meet k).fns = s.fns := rfl
@[simp] theorem State.meet_groups (s : State) (k : Nat) : (s.meet k).groups = s.groups := rfl
@[simp] theorem State.meet_launches (s : State) (k : Nat) : (s.meet k).launches = s.launches := rfl
@[simp] theorem State.meet_patches (s : State) (k : Nat) : (s.meet k).patches = s.patches := rfl
@[simp] theorem State.meet_snaps (s : State) (k : Nat) : (s.meet k).snaps = s.snaps := rfl
@[simp] theorem State.meet_tasks (s : State) (k : Nat) : (s.meet k).tasks = s.tasks := rfl
@[simp] theorem State.meet_mem (s : State) (k : Nat) : (s.meet k).mem = s.mem := rfl
@[simp] theorem State.meet_hostMem (s : State) (k : Nat) : (s.meet k).hostMem = s.hostMem := rfl
@[simp] theorem State.meet_poison (s : State) (k : Nat) : (s.meet k).poison = s.poison := rfl
@[simp] theorem State.meet_dirty (s : State) (k : Nat) : (s.meet k).dirty = s.dirty := rfl
@[simp] theorem State.meet_views (s : State) (k : Nat) : (s.meet k).views = s.views := rfl
@[simp] theorem State.meet_holds (s : State) (k : Nat) : (s.meet k).holds = s.holds := rfl
@[simp] theorem State.meet_oaWaits (s : State) (k : Nat) : (s.meet k).oaWaits = s.oaWaits := rfl
@[simp] theorem State.meet_pend (s : State) (k : Nat) : (s.meet k).pend = s.pend := rfl
@[simp] theorem State.meet_flight (s : State) (k : Nat) : (s.meet k).flight = s.flight := rfl
@[simp] theorem State.meet_tlbs (s : State) (k : Nat) : (s.meet k).tlbs = s.tlbs := rfl
@[simp] theorem State.meet_walks (s : State) (k : Nat) : (s.meet k).walks = s.walks := rfl
@[simp] theorem State.meet_invs (s : State) (k : Nat) : (s.meet k).invs = s.invs := rfl
@[simp] theorem State.meet_stages (s : State) (k : Nat) : (s.meet k).stages = s.stages := rfl
@[simp] theorem State.meet_links (s : State) (k : Nat) : (s.meet k).links = s.links := rfl
@[simp] theorem State.meet_flows (s : State) (k : Nat) : (s.meet k).flows = s.flows := rfl
@[simp] theorem State.meet_flowsIn (s : State) (k : Nat) : (s.meet k).flowsIn = s.flowsIn := rfl
@[simp] theorem State.meet_sentPkts (s : State) (k : Nat) : (s.meet k).sentPkts = s.sentPkts := rfl
@[simp] theorem State.meet_shore (s : State) (k : Nat) : (s.meet k).shore = s.shore := rfl
@[simp] theorem State.meet_rx (s : State) (k : Nat) : (s.meet k).rx = s.rx := rfl
@[simp] theorem State.meet_mcAcks (s : State) (k : Nat) : (s.meet k).mcAcks = s.mcAcks := rfl
@[simp] theorem State.meet_linkJobs (s : State) (k : Nat) : (s.meet k).linkJobs = s.linkJobs := rfl
@[simp] theorem State.meet_sealing (s : State) (k : Nat) : (s.meet k).sealing = s.sealing := rfl
@[simp] theorem State.meet_fw (s : State) (k : Nat) : (s.meet k).fw = s.fw := rfl
@[simp] theorem State.meet_clTab (s : State) (k : Nat) : (s.meet k).clTab = s.clTab := rfl
@[simp] theorem State.meet_parts (s : State) (k : Nat) : (s.meet k).parts = s.parts := rfl
@[simp] theorem State.meet_intrs (s : State) (k : Nat) : (s.meet k).intrs = s.intrs := rfl
@[simp] theorem State.meet_hostReads (s : State) (k : Nat) : (s.meet k).hostReads = s.hostReads := rfl
@[simp] theorem State.meet_spdm (s : State) (k : Nat) : (s.meet k).spdm = s.spdm := rfl
@[simp] theorem State.meet_sealMsgs (s : State) (k : Nat) : (s.meet k).sealMsgs = s.sealMsgs := rfl

/-! ### follows -/

@[simp] theorem State.follows_agenda (s : State) (k pos : Nat) : (s.follows k pos).agenda = s.agenda := rfl
@[simp] theorem State.follows_focus (s : State) (k pos : Nat) : (s.follows k pos).focus = s.focus := rfl
@[simp] theorem State.follows_focusSlot (s : State) (k pos : Nat) : (s.follows k pos).focusSlot = s.focusSlot := rfl
@[simp] theorem State.follows_fresh (s : State) (k pos : Nat) : (s.follows k pos).fresh = s.fresh := rfl
@[simp] theorem State.follows_nextId (s : State) (k pos : Nat) : (s.follows k pos).nextId = s.nextId := rfl
@[simp] theorem State.follows_outstanding (s : State) (k pos : Nat) : (s.follows k pos).outstanding = s.outstanding := rfl
@[simp] theorem State.follows_mpos (s : State) (k pos : Nat) : (s.follows k pos).mpos = s.mpos := rfl
@[simp] theorem State.follows_hist (s : State) (k pos : Nat) : (s.follows k pos).hist = s.hist := rfl
@[simp] theorem State.follows_done (s : State) (k pos : Nat) : (s.follows k pos).done = if s.hist.isEmpty then s.done else { id := k, pos := pos, at_ := (s.devReg 0x30A).toNat } :: s.done := rfl
@[simp] theorem State.follows_dev (s : State) (k pos : Nat) : (s.follows k pos).dev = s.dev := rfl
@[simp] theorem State.follows_dies (s : State) (k pos : Nat) : (s.follows k pos).dies = s.dies := rfl
@[simp] theorem State.follows_coreSel (s : State) (k pos : Nat) : (s.follows k pos).coreSel = s.coreSel := rfl
@[simp] theorem State.follows_ctxs (s : State) (k pos : Nat) : (s.follows k pos).ctxs = s.ctxs := rfl
@[simp] theorem State.follows_regions (s : State) (k pos : Nat) : (s.follows k pos).regions = s.regions := rfl
@[simp] theorem State.follows_units (s : State) (k pos : Nat) : (s.follows k pos).units = s.units := rfl
@[simp] theorem State.follows_clusters (s : State) (k pos : Nat) : (s.follows k pos).clusters = s.clusters := rfl
@[simp] theorem State.follows_pools (s : State) (k pos : Nat) : (s.follows k pos).pools = s.pools := rfl
@[simp] theorem State.follows_poolLeft (s : State) (k pos : Nat) : (s.follows k pos).poolLeft = s.poolLeft := rfl
@[simp] theorem State.follows_queues (s : State) (k pos : Nat) : (s.follows k pos).queues = s.queues := rfl
@[simp] theorem State.follows_served (s : State) (k pos : Nat) : (s.follows k pos).served = s.served := rfl
@[simp] theorem State.follows_fns (s : State) (k pos : Nat) : (s.follows k pos).fns = s.fns := rfl
@[simp] theorem State.follows_groups (s : State) (k pos : Nat) : (s.follows k pos).groups = s.groups := rfl
@[simp] theorem State.follows_launches (s : State) (k pos : Nat) : (s.follows k pos).launches = s.launches := rfl
@[simp] theorem State.follows_patches (s : State) (k pos : Nat) : (s.follows k pos).patches = s.patches := rfl
@[simp] theorem State.follows_snaps (s : State) (k pos : Nat) : (s.follows k pos).snaps = s.snaps := rfl
@[simp] theorem State.follows_tasks (s : State) (k pos : Nat) : (s.follows k pos).tasks = s.tasks := rfl
@[simp] theorem State.follows_mem (s : State) (k pos : Nat) : (s.follows k pos).mem = s.mem := rfl
@[simp] theorem State.follows_hostMem (s : State) (k pos : Nat) : (s.follows k pos).hostMem = s.hostMem := rfl
@[simp] theorem State.follows_poison (s : State) (k pos : Nat) : (s.follows k pos).poison = s.poison := rfl
@[simp] theorem State.follows_dirty (s : State) (k pos : Nat) : (s.follows k pos).dirty = s.dirty := rfl
@[simp] theorem State.follows_views (s : State) (k pos : Nat) : (s.follows k pos).views = s.views := rfl
@[simp] theorem State.follows_holds (s : State) (k pos : Nat) : (s.follows k pos).holds = s.holds := rfl
@[simp] theorem State.follows_oaWaits (s : State) (k pos : Nat) : (s.follows k pos).oaWaits = s.oaWaits := rfl
@[simp] theorem State.follows_pend (s : State) (k pos : Nat) : (s.follows k pos).pend = s.pend := rfl
@[simp] theorem State.follows_flight (s : State) (k pos : Nat) : (s.follows k pos).flight = s.flight := rfl
@[simp] theorem State.follows_tlbs (s : State) (k pos : Nat) : (s.follows k pos).tlbs = s.tlbs := rfl
@[simp] theorem State.follows_walks (s : State) (k pos : Nat) : (s.follows k pos).walks = s.walks := rfl
@[simp] theorem State.follows_invs (s : State) (k pos : Nat) : (s.follows k pos).invs = s.invs := rfl
@[simp] theorem State.follows_stages (s : State) (k pos : Nat) : (s.follows k pos).stages = s.stages := rfl
@[simp] theorem State.follows_links (s : State) (k pos : Nat) : (s.follows k pos).links = s.links := rfl
@[simp] theorem State.follows_flows (s : State) (k pos : Nat) : (s.follows k pos).flows = s.flows := rfl
@[simp] theorem State.follows_flowsIn (s : State) (k pos : Nat) : (s.follows k pos).flowsIn = s.flowsIn := rfl
@[simp] theorem State.follows_sentPkts (s : State) (k pos : Nat) : (s.follows k pos).sentPkts = s.sentPkts := rfl
@[simp] theorem State.follows_shore (s : State) (k pos : Nat) : (s.follows k pos).shore = s.shore := rfl
@[simp] theorem State.follows_rx (s : State) (k pos : Nat) : (s.follows k pos).rx = s.rx := rfl
@[simp] theorem State.follows_mcAcks (s : State) (k pos : Nat) : (s.follows k pos).mcAcks = s.mcAcks := rfl
@[simp] theorem State.follows_linkJobs (s : State) (k pos : Nat) : (s.follows k pos).linkJobs = s.linkJobs := rfl
@[simp] theorem State.follows_sealing (s : State) (k pos : Nat) : (s.follows k pos).sealing = s.sealing := rfl
@[simp] theorem State.follows_fw (s : State) (k pos : Nat) : (s.follows k pos).fw = s.fw := rfl
@[simp] theorem State.follows_clTab (s : State) (k pos : Nat) : (s.follows k pos).clTab = s.clTab := rfl
@[simp] theorem State.follows_parts (s : State) (k pos : Nat) : (s.follows k pos).parts = s.parts := rfl
@[simp] theorem State.follows_intrs (s : State) (k pos : Nat) : (s.follows k pos).intrs = s.intrs := rfl
@[simp] theorem State.follows_hostReads (s : State) (k pos : Nat) : (s.follows k pos).hostReads = s.hostReads := rfl
@[simp] theorem State.follows_spdm (s : State) (k pos : Nat) : (s.follows k pos).spdm = s.spdm := rfl
@[simp] theorem State.follows_sealMsgs (s : State) (k pos : Nat) : (s.follows k pos).sealMsgs = s.sealMsgs := rfl

/-! ### modPlane -/

@[simp] theorem State.modPlane_agenda (s : State) (u : Nat) (f : Plane → Plane) : (s.modPlane u f).agenda = s.agenda := rfl
@[simp] theorem State.modPlane_focus (s : State) (u : Nat) (f : Plane → Plane) : (s.modPlane u f).focus = s.focus := rfl
@[simp] theorem State.modPlane_focusSlot (s : State) (u : Nat) (f : Plane → Plane) : (s.modPlane u f).focusSlot = s.focusSlot := rfl
@[simp] theorem State.modPlane_fresh (s : State) (u : Nat) (f : Plane → Plane) : (s.modPlane u f).fresh = s.fresh := rfl
@[simp] theorem State.modPlane_nextId (s : State) (u : Nat) (f : Plane → Plane) : (s.modPlane u f).nextId = s.nextId := rfl
@[simp] theorem State.modPlane_outstanding (s : State) (u : Nat) (f : Plane → Plane) : (s.modPlane u f).outstanding = s.outstanding := rfl
@[simp] theorem State.modPlane_mpos (s : State) (u : Nat) (f : Plane → Plane) : (s.modPlane u f).mpos = s.mpos := rfl
@[simp] theorem State.modPlane_hist (s : State) (u : Nat) (f : Plane → Plane) : (s.modPlane u f).hist = s.hist := rfl
@[simp] theorem State.modPlane_done (s : State) (u : Nat) (f : Plane → Plane) : (s.modPlane u f).done = s.done := rfl
@[simp] theorem State.modPlane_dev (s : State) (u : Nat) (f : Plane → Plane) : (s.modPlane u f).dev = s.dev := rfl
@[simp] theorem State.modPlane_dies (s : State) (u : Nat) (f : Plane → Plane) : (s.modPlane u f).dies = s.dies := rfl
@[simp] theorem State.modPlane_coreSel (s : State) (u : Nat) (f : Plane → Plane) : (s.modPlane u f).coreSel = s.coreSel := rfl
@[simp] theorem State.modPlane_ctxs (s : State) (u : Nat) (f : Plane → Plane) : (s.modPlane u f).ctxs = s.ctxs := rfl
@[simp] theorem State.modPlane_regions (s : State) (u : Nat) (f : Plane → Plane) : (s.modPlane u f).regions = s.regions := rfl
@[simp] theorem State.modPlane_clusters (s : State) (u : Nat) (f : Plane → Plane) : (s.modPlane u f).clusters = s.clusters := rfl
@[simp] theorem State.modPlane_pools (s : State) (u : Nat) (f : Plane → Plane) : (s.modPlane u f).pools = s.pools := rfl
@[simp] theorem State.modPlane_poolLeft (s : State) (u : Nat) (f : Plane → Plane) : (s.modPlane u f).poolLeft = s.poolLeft := rfl
@[simp] theorem State.modPlane_queues (s : State) (u : Nat) (f : Plane → Plane) : (s.modPlane u f).queues = s.queues := rfl
@[simp] theorem State.modPlane_served (s : State) (u : Nat) (f : Plane → Plane) : (s.modPlane u f).served = s.served := rfl
@[simp] theorem State.modPlane_fns (s : State) (u : Nat) (f : Plane → Plane) : (s.modPlane u f).fns = s.fns := rfl
@[simp] theorem State.modPlane_groups (s : State) (u : Nat) (f : Plane → Plane) : (s.modPlane u f).groups = s.groups := rfl
@[simp] theorem State.modPlane_launches (s : State) (u : Nat) (f : Plane → Plane) : (s.modPlane u f).launches = s.launches := rfl
@[simp] theorem State.modPlane_patches (s : State) (u : Nat) (f : Plane → Plane) : (s.modPlane u f).patches = s.patches := rfl
@[simp] theorem State.modPlane_snaps (s : State) (u : Nat) (f : Plane → Plane) : (s.modPlane u f).snaps = s.snaps := rfl
@[simp] theorem State.modPlane_tasks (s : State) (u : Nat) (f : Plane → Plane) : (s.modPlane u f).tasks = s.tasks := rfl
@[simp] theorem State.modPlane_mem (s : State) (u : Nat) (f : Plane → Plane) : (s.modPlane u f).mem = s.mem := rfl
@[simp] theorem State.modPlane_hostMem (s : State) (u : Nat) (f : Plane → Plane) : (s.modPlane u f).hostMem = s.hostMem := rfl
@[simp] theorem State.modPlane_poison (s : State) (u : Nat) (f : Plane → Plane) : (s.modPlane u f).poison = s.poison := rfl
@[simp] theorem State.modPlane_dirty (s : State) (u : Nat) (f : Plane → Plane) : (s.modPlane u f).dirty = s.dirty := rfl
@[simp] theorem State.modPlane_views (s : State) (u : Nat) (f : Plane → Plane) : (s.modPlane u f).views = s.views := rfl
@[simp] theorem State.modPlane_holds (s : State) (u : Nat) (f : Plane → Plane) : (s.modPlane u f).holds = s.holds := rfl
@[simp] theorem State.modPlane_oaWaits (s : State) (u : Nat) (f : Plane → Plane) : (s.modPlane u f).oaWaits = s.oaWaits := rfl
@[simp] theorem State.modPlane_pend (s : State) (u : Nat) (f : Plane → Plane) : (s.modPlane u f).pend = s.pend := rfl
@[simp] theorem State.modPlane_flight (s : State) (u : Nat) (f : Plane → Plane) : (s.modPlane u f).flight = s.flight := rfl
@[simp] theorem State.modPlane_tlbs (s : State) (u : Nat) (f : Plane → Plane) : (s.modPlane u f).tlbs = s.tlbs := rfl
@[simp] theorem State.modPlane_walks (s : State) (u : Nat) (f : Plane → Plane) : (s.modPlane u f).walks = s.walks := rfl
@[simp] theorem State.modPlane_invs (s : State) (u : Nat) (f : Plane → Plane) : (s.modPlane u f).invs = s.invs := rfl
@[simp] theorem State.modPlane_stages (s : State) (u : Nat) (f : Plane → Plane) : (s.modPlane u f).stages = s.stages := rfl
@[simp] theorem State.modPlane_links (s : State) (u : Nat) (f : Plane → Plane) : (s.modPlane u f).links = s.links := rfl
@[simp] theorem State.modPlane_flows (s : State) (u : Nat) (f : Plane → Plane) : (s.modPlane u f).flows = s.flows := rfl
@[simp] theorem State.modPlane_flowsIn (s : State) (u : Nat) (f : Plane → Plane) : (s.modPlane u f).flowsIn = s.flowsIn := rfl
@[simp] theorem State.modPlane_sentPkts (s : State) (u : Nat) (f : Plane → Plane) : (s.modPlane u f).sentPkts = s.sentPkts := rfl
@[simp] theorem State.modPlane_shore (s : State) (u : Nat) (f : Plane → Plane) : (s.modPlane u f).shore = s.shore := rfl
@[simp] theorem State.modPlane_rx (s : State) (u : Nat) (f : Plane → Plane) : (s.modPlane u f).rx = s.rx := rfl
@[simp] theorem State.modPlane_mcAcks (s : State) (u : Nat) (f : Plane → Plane) : (s.modPlane u f).mcAcks = s.mcAcks := rfl
@[simp] theorem State.modPlane_linkJobs (s : State) (u : Nat) (f : Plane → Plane) : (s.modPlane u f).linkJobs = s.linkJobs := rfl
@[simp] theorem State.modPlane_sealing (s : State) (u : Nat) (f : Plane → Plane) : (s.modPlane u f).sealing = s.sealing := rfl
@[simp] theorem State.modPlane_fw (s : State) (u : Nat) (f : Plane → Plane) : (s.modPlane u f).fw = s.fw := rfl
@[simp] theorem State.modPlane_clTab (s : State) (u : Nat) (f : Plane → Plane) : (s.modPlane u f).clTab = s.clTab := rfl
@[simp] theorem State.modPlane_parts (s : State) (u : Nat) (f : Plane → Plane) : (s.modPlane u f).parts = s.parts := rfl
@[simp] theorem State.modPlane_intrs (s : State) (u : Nat) (f : Plane → Plane) : (s.modPlane u f).intrs = s.intrs := rfl
@[simp] theorem State.modPlane_hostReads (s : State) (u : Nat) (f : Plane → Plane) : (s.modPlane u f).hostReads = s.hostReads := rfl
@[simp] theorem State.modPlane_spdm (s : State) (u : Nat) (f : Plane → Plane) : (s.modPlane u f).spdm = s.spdm := rfl
@[simp] theorem State.modPlane_sealMsgs (s : State) (u : Nat) (f : Plane → Plane) : (s.modPlane u f).sealMsgs = s.sealMsgs := rfl

/-! ### modOp -/

@[simp] theorem State.modOp_agenda (s : State) (u o : Nat) (f : OpState → OpState) : (s.modOp u o f).agenda = s.agenda := rfl
@[simp] theorem State.modOp_focus (s : State) (u o : Nat) (f : OpState → OpState) : (s.modOp u o f).focus = s.focus := rfl
@[simp] theorem State.modOp_focusSlot (s : State) (u o : Nat) (f : OpState → OpState) : (s.modOp u o f).focusSlot = s.focusSlot := rfl
@[simp] theorem State.modOp_fresh (s : State) (u o : Nat) (f : OpState → OpState) : (s.modOp u o f).fresh = s.fresh := rfl
@[simp] theorem State.modOp_nextId (s : State) (u o : Nat) (f : OpState → OpState) : (s.modOp u o f).nextId = s.nextId := rfl
@[simp] theorem State.modOp_outstanding (s : State) (u o : Nat) (f : OpState → OpState) : (s.modOp u o f).outstanding = s.outstanding := rfl
@[simp] theorem State.modOp_mpos (s : State) (u o : Nat) (f : OpState → OpState) : (s.modOp u o f).mpos = s.mpos := rfl
@[simp] theorem State.modOp_hist (s : State) (u o : Nat) (f : OpState → OpState) : (s.modOp u o f).hist = s.hist := rfl
@[simp] theorem State.modOp_done (s : State) (u o : Nat) (f : OpState → OpState) : (s.modOp u o f).done = s.done := rfl
@[simp] theorem State.modOp_dev (s : State) (u o : Nat) (f : OpState → OpState) : (s.modOp u o f).dev = s.dev := rfl
@[simp] theorem State.modOp_dies (s : State) (u o : Nat) (f : OpState → OpState) : (s.modOp u o f).dies = s.dies := rfl
@[simp] theorem State.modOp_coreSel (s : State) (u o : Nat) (f : OpState → OpState) : (s.modOp u o f).coreSel = s.coreSel := rfl
@[simp] theorem State.modOp_ctxs (s : State) (u o : Nat) (f : OpState → OpState) : (s.modOp u o f).ctxs = s.ctxs := rfl
@[simp] theorem State.modOp_regions (s : State) (u o : Nat) (f : OpState → OpState) : (s.modOp u o f).regions = s.regions := rfl
@[simp] theorem State.modOp_clusters (s : State) (u o : Nat) (f : OpState → OpState) : (s.modOp u o f).clusters = s.clusters := rfl
@[simp] theorem State.modOp_pools (s : State) (u o : Nat) (f : OpState → OpState) : (s.modOp u o f).pools = s.pools := rfl
@[simp] theorem State.modOp_poolLeft (s : State) (u o : Nat) (f : OpState → OpState) : (s.modOp u o f).poolLeft = s.poolLeft := rfl
@[simp] theorem State.modOp_queues (s : State) (u o : Nat) (f : OpState → OpState) : (s.modOp u o f).queues = s.queues := rfl
@[simp] theorem State.modOp_served (s : State) (u o : Nat) (f : OpState → OpState) : (s.modOp u o f).served = s.served := rfl
@[simp] theorem State.modOp_fns (s : State) (u o : Nat) (f : OpState → OpState) : (s.modOp u o f).fns = s.fns := rfl
@[simp] theorem State.modOp_groups (s : State) (u o : Nat) (f : OpState → OpState) : (s.modOp u o f).groups = s.groups := rfl
@[simp] theorem State.modOp_launches (s : State) (u o : Nat) (f : OpState → OpState) : (s.modOp u o f).launches = s.launches := rfl
@[simp] theorem State.modOp_patches (s : State) (u o : Nat) (f : OpState → OpState) : (s.modOp u o f).patches = s.patches := rfl
@[simp] theorem State.modOp_snaps (s : State) (u o : Nat) (f : OpState → OpState) : (s.modOp u o f).snaps = s.snaps := rfl
@[simp] theorem State.modOp_tasks (s : State) (u o : Nat) (f : OpState → OpState) : (s.modOp u o f).tasks = s.tasks := rfl
@[simp] theorem State.modOp_mem (s : State) (u o : Nat) (f : OpState → OpState) : (s.modOp u o f).mem = s.mem := rfl
@[simp] theorem State.modOp_hostMem (s : State) (u o : Nat) (f : OpState → OpState) : (s.modOp u o f).hostMem = s.hostMem := rfl
@[simp] theorem State.modOp_poison (s : State) (u o : Nat) (f : OpState → OpState) : (s.modOp u o f).poison = s.poison := rfl
@[simp] theorem State.modOp_dirty (s : State) (u o : Nat) (f : OpState → OpState) : (s.modOp u o f).dirty = s.dirty := rfl
@[simp] theorem State.modOp_views (s : State) (u o : Nat) (f : OpState → OpState) : (s.modOp u o f).views = s.views := rfl
@[simp] theorem State.modOp_holds (s : State) (u o : Nat) (f : OpState → OpState) : (s.modOp u o f).holds = s.holds := rfl
@[simp] theorem State.modOp_oaWaits (s : State) (u o : Nat) (f : OpState → OpState) : (s.modOp u o f).oaWaits = s.oaWaits := rfl
@[simp] theorem State.modOp_pend (s : State) (u o : Nat) (f : OpState → OpState) : (s.modOp u o f).pend = s.pend := rfl
@[simp] theorem State.modOp_flight (s : State) (u o : Nat) (f : OpState → OpState) : (s.modOp u o f).flight = s.flight := rfl
@[simp] theorem State.modOp_tlbs (s : State) (u o : Nat) (f : OpState → OpState) : (s.modOp u o f).tlbs = s.tlbs := rfl
@[simp] theorem State.modOp_walks (s : State) (u o : Nat) (f : OpState → OpState) : (s.modOp u o f).walks = s.walks := rfl
@[simp] theorem State.modOp_invs (s : State) (u o : Nat) (f : OpState → OpState) : (s.modOp u o f).invs = s.invs := rfl
@[simp] theorem State.modOp_stages (s : State) (u o : Nat) (f : OpState → OpState) : (s.modOp u o f).stages = s.stages := rfl
@[simp] theorem State.modOp_links (s : State) (u o : Nat) (f : OpState → OpState) : (s.modOp u o f).links = s.links := rfl
@[simp] theorem State.modOp_flows (s : State) (u o : Nat) (f : OpState → OpState) : (s.modOp u o f).flows = s.flows := rfl
@[simp] theorem State.modOp_flowsIn (s : State) (u o : Nat) (f : OpState → OpState) : (s.modOp u o f).flowsIn = s.flowsIn := rfl
@[simp] theorem State.modOp_sentPkts (s : State) (u o : Nat) (f : OpState → OpState) : (s.modOp u o f).sentPkts = s.sentPkts := rfl
@[simp] theorem State.modOp_shore (s : State) (u o : Nat) (f : OpState → OpState) : (s.modOp u o f).shore = s.shore := rfl
@[simp] theorem State.modOp_rx (s : State) (u o : Nat) (f : OpState → OpState) : (s.modOp u o f).rx = s.rx := rfl
@[simp] theorem State.modOp_mcAcks (s : State) (u o : Nat) (f : OpState → OpState) : (s.modOp u o f).mcAcks = s.mcAcks := rfl
@[simp] theorem State.modOp_linkJobs (s : State) (u o : Nat) (f : OpState → OpState) : (s.modOp u o f).linkJobs = s.linkJobs := rfl
@[simp] theorem State.modOp_sealing (s : State) (u o : Nat) (f : OpState → OpState) : (s.modOp u o f).sealing = s.sealing := rfl
@[simp] theorem State.modOp_fw (s : State) (u o : Nat) (f : OpState → OpState) : (s.modOp u o f).fw = s.fw := rfl
@[simp] theorem State.modOp_clTab (s : State) (u o : Nat) (f : OpState → OpState) : (s.modOp u o f).clTab = s.clTab := rfl
@[simp] theorem State.modOp_parts (s : State) (u o : Nat) (f : OpState → OpState) : (s.modOp u o f).parts = s.parts := rfl
@[simp] theorem State.modOp_intrs (s : State) (u o : Nat) (f : OpState → OpState) : (s.modOp u o f).intrs = s.intrs := rfl
@[simp] theorem State.modOp_hostReads (s : State) (u o : Nat) (f : OpState → OpState) : (s.modOp u o f).hostReads = s.hostReads := rfl
@[simp] theorem State.modOp_spdm (s : State) (u o : Nat) (f : OpState → OpState) : (s.modOp u o f).spdm = s.spdm := rfl
@[simp] theorem State.modOp_sealMsgs (s : State) (u o : Nat) (f : OpState → OpState) : (s.modOp u o f).sealMsgs = s.sealMsgs := rfl

/-! ### modFiring -/

@[simp] theorem State.modFiring_agenda (s : State) (r : FireRef) (f : Firing → Firing) : (s.modFiring r f).agenda = s.agenda := rfl
@[simp] theorem State.modFiring_focus (s : State) (r : FireRef) (f : Firing → Firing) : (s.modFiring r f).focus = s.focus := rfl
@[simp] theorem State.modFiring_focusSlot (s : State) (r : FireRef) (f : Firing → Firing) : (s.modFiring r f).focusSlot = s.focusSlot := rfl
@[simp] theorem State.modFiring_fresh (s : State) (r : FireRef) (f : Firing → Firing) : (s.modFiring r f).fresh = s.fresh := rfl
@[simp] theorem State.modFiring_nextId (s : State) (r : FireRef) (f : Firing → Firing) : (s.modFiring r f).nextId = s.nextId := rfl
@[simp] theorem State.modFiring_outstanding (s : State) (r : FireRef) (f : Firing → Firing) : (s.modFiring r f).outstanding = s.outstanding := rfl
@[simp] theorem State.modFiring_mpos (s : State) (r : FireRef) (f : Firing → Firing) : (s.modFiring r f).mpos = s.mpos := rfl
@[simp] theorem State.modFiring_hist (s : State) (r : FireRef) (f : Firing → Firing) : (s.modFiring r f).hist = s.hist := rfl
@[simp] theorem State.modFiring_done (s : State) (r : FireRef) (f : Firing → Firing) : (s.modFiring r f).done = s.done := rfl
@[simp] theorem State.modFiring_dev (s : State) (r : FireRef) (f : Firing → Firing) : (s.modFiring r f).dev = s.dev := rfl
@[simp] theorem State.modFiring_dies (s : State) (r : FireRef) (f : Firing → Firing) : (s.modFiring r f).dies = s.dies := rfl
@[simp] theorem State.modFiring_coreSel (s : State) (r : FireRef) (f : Firing → Firing) : (s.modFiring r f).coreSel = s.coreSel := rfl
@[simp] theorem State.modFiring_ctxs (s : State) (r : FireRef) (f : Firing → Firing) : (s.modFiring r f).ctxs = s.ctxs := rfl
@[simp] theorem State.modFiring_regions (s : State) (r : FireRef) (f : Firing → Firing) : (s.modFiring r f).regions = s.regions := rfl
@[simp] theorem State.modFiring_clusters (s : State) (r : FireRef) (f : Firing → Firing) : (s.modFiring r f).clusters = s.clusters := rfl
@[simp] theorem State.modFiring_pools (s : State) (r : FireRef) (f : Firing → Firing) : (s.modFiring r f).pools = s.pools := rfl
@[simp] theorem State.modFiring_poolLeft (s : State) (r : FireRef) (f : Firing → Firing) : (s.modFiring r f).poolLeft = s.poolLeft := rfl
@[simp] theorem State.modFiring_queues (s : State) (r : FireRef) (f : Firing → Firing) : (s.modFiring r f).queues = s.queues := rfl
@[simp] theorem State.modFiring_served (s : State) (r : FireRef) (f : Firing → Firing) : (s.modFiring r f).served = s.served := rfl
@[simp] theorem State.modFiring_fns (s : State) (r : FireRef) (f : Firing → Firing) : (s.modFiring r f).fns = s.fns := rfl
@[simp] theorem State.modFiring_groups (s : State) (r : FireRef) (f : Firing → Firing) : (s.modFiring r f).groups = s.groups := rfl
@[simp] theorem State.modFiring_launches (s : State) (r : FireRef) (f : Firing → Firing) : (s.modFiring r f).launches = s.launches := rfl
@[simp] theorem State.modFiring_patches (s : State) (r : FireRef) (f : Firing → Firing) : (s.modFiring r f).patches = s.patches := rfl
@[simp] theorem State.modFiring_snaps (s : State) (r : FireRef) (f : Firing → Firing) : (s.modFiring r f).snaps = s.snaps := rfl
@[simp] theorem State.modFiring_tasks (s : State) (r : FireRef) (f : Firing → Firing) : (s.modFiring r f).tasks = s.tasks := rfl
@[simp] theorem State.modFiring_mem (s : State) (r : FireRef) (f : Firing → Firing) : (s.modFiring r f).mem = s.mem := rfl
@[simp] theorem State.modFiring_hostMem (s : State) (r : FireRef) (f : Firing → Firing) : (s.modFiring r f).hostMem = s.hostMem := rfl
@[simp] theorem State.modFiring_poison (s : State) (r : FireRef) (f : Firing → Firing) : (s.modFiring r f).poison = s.poison := rfl
@[simp] theorem State.modFiring_dirty (s : State) (r : FireRef) (f : Firing → Firing) : (s.modFiring r f).dirty = s.dirty := rfl
@[simp] theorem State.modFiring_views (s : State) (r : FireRef) (f : Firing → Firing) : (s.modFiring r f).views = s.views := rfl
@[simp] theorem State.modFiring_holds (s : State) (r : FireRef) (f : Firing → Firing) : (s.modFiring r f).holds = s.holds := rfl
@[simp] theorem State.modFiring_oaWaits (s : State) (r : FireRef) (f : Firing → Firing) : (s.modFiring r f).oaWaits = s.oaWaits := rfl
@[simp] theorem State.modFiring_pend (s : State) (r : FireRef) (f : Firing → Firing) : (s.modFiring r f).pend = s.pend := rfl
@[simp] theorem State.modFiring_flight (s : State) (r : FireRef) (f : Firing → Firing) : (s.modFiring r f).flight = s.flight := rfl
@[simp] theorem State.modFiring_tlbs (s : State) (r : FireRef) (f : Firing → Firing) : (s.modFiring r f).tlbs = s.tlbs := rfl
@[simp] theorem State.modFiring_walks (s : State) (r : FireRef) (f : Firing → Firing) : (s.modFiring r f).walks = s.walks := rfl
@[simp] theorem State.modFiring_invs (s : State) (r : FireRef) (f : Firing → Firing) : (s.modFiring r f).invs = s.invs := rfl
@[simp] theorem State.modFiring_stages (s : State) (r : FireRef) (f : Firing → Firing) : (s.modFiring r f).stages = s.stages := rfl
@[simp] theorem State.modFiring_links (s : State) (r : FireRef) (f : Firing → Firing) : (s.modFiring r f).links = s.links := rfl
@[simp] theorem State.modFiring_flows (s : State) (r : FireRef) (f : Firing → Firing) : (s.modFiring r f).flows = s.flows := rfl
@[simp] theorem State.modFiring_flowsIn (s : State) (r : FireRef) (f : Firing → Firing) : (s.modFiring r f).flowsIn = s.flowsIn := rfl
@[simp] theorem State.modFiring_sentPkts (s : State) (r : FireRef) (f : Firing → Firing) : (s.modFiring r f).sentPkts = s.sentPkts := rfl
@[simp] theorem State.modFiring_shore (s : State) (r : FireRef) (f : Firing → Firing) : (s.modFiring r f).shore = s.shore := rfl
@[simp] theorem State.modFiring_rx (s : State) (r : FireRef) (f : Firing → Firing) : (s.modFiring r f).rx = s.rx := rfl
@[simp] theorem State.modFiring_mcAcks (s : State) (r : FireRef) (f : Firing → Firing) : (s.modFiring r f).mcAcks = s.mcAcks := rfl
@[simp] theorem State.modFiring_linkJobs (s : State) (r : FireRef) (f : Firing → Firing) : (s.modFiring r f).linkJobs = s.linkJobs := rfl
@[simp] theorem State.modFiring_sealing (s : State) (r : FireRef) (f : Firing → Firing) : (s.modFiring r f).sealing = s.sealing := rfl
@[simp] theorem State.modFiring_fw (s : State) (r : FireRef) (f : Firing → Firing) : (s.modFiring r f).fw = s.fw := rfl
@[simp] theorem State.modFiring_clTab (s : State) (r : FireRef) (f : Firing → Firing) : (s.modFiring r f).clTab = s.clTab := rfl
@[simp] theorem State.modFiring_parts (s : State) (r : FireRef) (f : Firing → Firing) : (s.modFiring r f).parts = s.parts := rfl
@[simp] theorem State.modFiring_intrs (s : State) (r : FireRef) (f : Firing → Firing) : (s.modFiring r f).intrs = s.intrs := rfl
@[simp] theorem State.modFiring_hostReads (s : State) (r : FireRef) (f : Firing → Firing) : (s.modFiring r f).hostReads = s.hostReads := rfl
@[simp] theorem State.modFiring_spdm (s : State) (r : FireRef) (f : Firing → Firing) : (s.modFiring r f).spdm = s.spdm := rfl
@[simp] theorem State.modFiring_sealMsgs (s : State) (r : FireRef) (f : Firing → Firing) : (s.modFiring r f).sealMsgs = s.sealMsgs := rfl

/-! ### modNode -/

@[simp] theorem State.modNode_agenda (s : State) (u : Nat) (f : Tiles → Tiles) : (s.modNode u f).agenda = s.agenda := rfl
@[simp] theorem State.modNode_focus (s : State) (u : Nat) (f : Tiles → Tiles) : (s.modNode u f).focus = s.focus := rfl
@[simp] theorem State.modNode_focusSlot (s : State) (u : Nat) (f : Tiles → Tiles) : (s.modNode u f).focusSlot = s.focusSlot := rfl
@[simp] theorem State.modNode_fresh (s : State) (u : Nat) (f : Tiles → Tiles) : (s.modNode u f).fresh = s.fresh := rfl
@[simp] theorem State.modNode_nextId (s : State) (u : Nat) (f : Tiles → Tiles) : (s.modNode u f).nextId = s.nextId := rfl
@[simp] theorem State.modNode_outstanding (s : State) (u : Nat) (f : Tiles → Tiles) : (s.modNode u f).outstanding = s.outstanding := rfl
@[simp] theorem State.modNode_mpos (s : State) (u : Nat) (f : Tiles → Tiles) : (s.modNode u f).mpos = s.mpos := rfl
@[simp] theorem State.modNode_hist (s : State) (u : Nat) (f : Tiles → Tiles) : (s.modNode u f).hist = s.hist := rfl
@[simp] theorem State.modNode_done (s : State) (u : Nat) (f : Tiles → Tiles) : (s.modNode u f).done = s.done := rfl
@[simp] theorem State.modNode_dev (s : State) (u : Nat) (f : Tiles → Tiles) : (s.modNode u f).dev = s.dev := rfl
@[simp] theorem State.modNode_dies (s : State) (u : Nat) (f : Tiles → Tiles) : (s.modNode u f).dies = s.dies := rfl
@[simp] theorem State.modNode_coreSel (s : State) (u : Nat) (f : Tiles → Tiles) : (s.modNode u f).coreSel = s.coreSel := rfl
@[simp] theorem State.modNode_ctxs (s : State) (u : Nat) (f : Tiles → Tiles) : (s.modNode u f).ctxs = s.ctxs := rfl
@[simp] theorem State.modNode_regions (s : State) (u : Nat) (f : Tiles → Tiles) : (s.modNode u f).regions = s.regions := rfl
@[simp] theorem State.modNode_clusters (s : State) (u : Nat) (f : Tiles → Tiles) : (s.modNode u f).clusters = s.clusters := rfl
@[simp] theorem State.modNode_pools (s : State) (u : Nat) (f : Tiles → Tiles) : (s.modNode u f).pools = s.pools := rfl
@[simp] theorem State.modNode_poolLeft (s : State) (u : Nat) (f : Tiles → Tiles) : (s.modNode u f).poolLeft = s.poolLeft := rfl
@[simp] theorem State.modNode_queues (s : State) (u : Nat) (f : Tiles → Tiles) : (s.modNode u f).queues = s.queues := rfl
@[simp] theorem State.modNode_served (s : State) (u : Nat) (f : Tiles → Tiles) : (s.modNode u f).served = s.served := rfl
@[simp] theorem State.modNode_fns (s : State) (u : Nat) (f : Tiles → Tiles) : (s.modNode u f).fns = s.fns := rfl
@[simp] theorem State.modNode_groups (s : State) (u : Nat) (f : Tiles → Tiles) : (s.modNode u f).groups = s.groups := rfl
@[simp] theorem State.modNode_launches (s : State) (u : Nat) (f : Tiles → Tiles) : (s.modNode u f).launches = s.launches := rfl
@[simp] theorem State.modNode_patches (s : State) (u : Nat) (f : Tiles → Tiles) : (s.modNode u f).patches = s.patches := rfl
@[simp] theorem State.modNode_snaps (s : State) (u : Nat) (f : Tiles → Tiles) : (s.modNode u f).snaps = s.snaps := rfl
@[simp] theorem State.modNode_tasks (s : State) (u : Nat) (f : Tiles → Tiles) : (s.modNode u f).tasks = s.tasks := rfl
@[simp] theorem State.modNode_mem (s : State) (u : Nat) (f : Tiles → Tiles) : (s.modNode u f).mem = s.mem := rfl
@[simp] theorem State.modNode_hostMem (s : State) (u : Nat) (f : Tiles → Tiles) : (s.modNode u f).hostMem = s.hostMem := rfl
@[simp] theorem State.modNode_poison (s : State) (u : Nat) (f : Tiles → Tiles) : (s.modNode u f).poison = s.poison := rfl
@[simp] theorem State.modNode_dirty (s : State) (u : Nat) (f : Tiles → Tiles) : (s.modNode u f).dirty = s.dirty := rfl
@[simp] theorem State.modNode_views (s : State) (u : Nat) (f : Tiles → Tiles) : (s.modNode u f).views = s.views := rfl
@[simp] theorem State.modNode_holds (s : State) (u : Nat) (f : Tiles → Tiles) : (s.modNode u f).holds = s.holds := rfl
@[simp] theorem State.modNode_oaWaits (s : State) (u : Nat) (f : Tiles → Tiles) : (s.modNode u f).oaWaits = s.oaWaits := rfl
@[simp] theorem State.modNode_pend (s : State) (u : Nat) (f : Tiles → Tiles) : (s.modNode u f).pend = s.pend := rfl
@[simp] theorem State.modNode_flight (s : State) (u : Nat) (f : Tiles → Tiles) : (s.modNode u f).flight = s.flight := rfl
@[simp] theorem State.modNode_tlbs (s : State) (u : Nat) (f : Tiles → Tiles) : (s.modNode u f).tlbs = s.tlbs := rfl
@[simp] theorem State.modNode_walks (s : State) (u : Nat) (f : Tiles → Tiles) : (s.modNode u f).walks = s.walks := rfl
@[simp] theorem State.modNode_invs (s : State) (u : Nat) (f : Tiles → Tiles) : (s.modNode u f).invs = s.invs := rfl
@[simp] theorem State.modNode_stages (s : State) (u : Nat) (f : Tiles → Tiles) : (s.modNode u f).stages = s.stages := rfl
@[simp] theorem State.modNode_links (s : State) (u : Nat) (f : Tiles → Tiles) : (s.modNode u f).links = s.links := rfl
@[simp] theorem State.modNode_flows (s : State) (u : Nat) (f : Tiles → Tiles) : (s.modNode u f).flows = s.flows := rfl
@[simp] theorem State.modNode_flowsIn (s : State) (u : Nat) (f : Tiles → Tiles) : (s.modNode u f).flowsIn = s.flowsIn := rfl
@[simp] theorem State.modNode_sentPkts (s : State) (u : Nat) (f : Tiles → Tiles) : (s.modNode u f).sentPkts = s.sentPkts := rfl
@[simp] theorem State.modNode_shore (s : State) (u : Nat) (f : Tiles → Tiles) : (s.modNode u f).shore = s.shore := rfl
@[simp] theorem State.modNode_rx (s : State) (u : Nat) (f : Tiles → Tiles) : (s.modNode u f).rx = s.rx := rfl
@[simp] theorem State.modNode_mcAcks (s : State) (u : Nat) (f : Tiles → Tiles) : (s.modNode u f).mcAcks = s.mcAcks := rfl
@[simp] theorem State.modNode_linkJobs (s : State) (u : Nat) (f : Tiles → Tiles) : (s.modNode u f).linkJobs = s.linkJobs := rfl
@[simp] theorem State.modNode_sealing (s : State) (u : Nat) (f : Tiles → Tiles) : (s.modNode u f).sealing = s.sealing := rfl
@[simp] theorem State.modNode_fw (s : State) (u : Nat) (f : Tiles → Tiles) : (s.modNode u f).fw = s.fw := rfl
@[simp] theorem State.modNode_clTab (s : State) (u : Nat) (f : Tiles → Tiles) : (s.modNode u f).clTab = s.clTab := rfl
@[simp] theorem State.modNode_parts (s : State) (u : Nat) (f : Tiles → Tiles) : (s.modNode u f).parts = s.parts := rfl
@[simp] theorem State.modNode_intrs (s : State) (u : Nat) (f : Tiles → Tiles) : (s.modNode u f).intrs = s.intrs := rfl
@[simp] theorem State.modNode_hostReads (s : State) (u : Nat) (f : Tiles → Tiles) : (s.modNode u f).hostReads = s.hostReads := rfl
@[simp] theorem State.modNode_spdm (s : State) (u : Nat) (f : Tiles → Tiles) : (s.modNode u f).spdm = s.spdm := rfl
@[simp] theorem State.modNode_sealMsgs (s : State) (u : Nat) (f : Tiles → Tiles) : (s.modNode u f).sealMsgs = s.sealMsgs := rfl

/-! ### modPort -/

@[simp] theorem State.modPort_agenda (s : State) (d c p : Nat) (f : Port → Port) : (s.modPort d c p f).agenda = s.agenda := rfl
@[simp] theorem State.modPort_focus (s : State) (d c p : Nat) (f : Port → Port) : (s.modPort d c p f).focus = s.focus := rfl
@[simp] theorem State.modPort_focusSlot (s : State) (d c p : Nat) (f : Port → Port) : (s.modPort d c p f).focusSlot = s.focusSlot := rfl
@[simp] theorem State.modPort_fresh (s : State) (d c p : Nat) (f : Port → Port) : (s.modPort d c p f).fresh = s.fresh := rfl
@[simp] theorem State.modPort_nextId (s : State) (d c p : Nat) (f : Port → Port) : (s.modPort d c p f).nextId = s.nextId := rfl
@[simp] theorem State.modPort_outstanding (s : State) (d c p : Nat) (f : Port → Port) : (s.modPort d c p f).outstanding = s.outstanding := rfl
@[simp] theorem State.modPort_mpos (s : State) (d c p : Nat) (f : Port → Port) : (s.modPort d c p f).mpos = s.mpos := rfl
@[simp] theorem State.modPort_hist (s : State) (d c p : Nat) (f : Port → Port) : (s.modPort d c p f).hist = s.hist := rfl
@[simp] theorem State.modPort_done (s : State) (d c p : Nat) (f : Port → Port) : (s.modPort d c p f).done = s.done := rfl
@[simp] theorem State.modPort_dev (s : State) (d c p : Nat) (f : Port → Port) : (s.modPort d c p f).dev = s.dev := rfl
@[simp] theorem State.modPort_dies (s : State) (d c p : Nat) (f : Port → Port) : (s.modPort d c p f).dies = s.dies := rfl
@[simp] theorem State.modPort_coreSel (s : State) (d c p : Nat) (f : Port → Port) : (s.modPort d c p f).coreSel = s.coreSel := rfl
@[simp] theorem State.modPort_ctxs (s : State) (d c p : Nat) (f : Port → Port) : (s.modPort d c p f).ctxs = s.ctxs := rfl
@[simp] theorem State.modPort_regions (s : State) (d c p : Nat) (f : Port → Port) : (s.modPort d c p f).regions = s.regions := rfl
@[simp] theorem State.modPort_clusters (s : State) (d c p : Nat) (f : Port → Port) : (s.modPort d c p f).clusters = s.clusters := rfl
@[simp] theorem State.modPort_pools (s : State) (d c p : Nat) (f : Port → Port) : (s.modPort d c p f).pools = s.pools := rfl
@[simp] theorem State.modPort_poolLeft (s : State) (d c p : Nat) (f : Port → Port) : (s.modPort d c p f).poolLeft = s.poolLeft := rfl
@[simp] theorem State.modPort_queues (s : State) (d c p : Nat) (f : Port → Port) : (s.modPort d c p f).queues = s.queues := rfl
@[simp] theorem State.modPort_served (s : State) (d c p : Nat) (f : Port → Port) : (s.modPort d c p f).served = s.served := rfl
@[simp] theorem State.modPort_fns (s : State) (d c p : Nat) (f : Port → Port) : (s.modPort d c p f).fns = s.fns := rfl
@[simp] theorem State.modPort_groups (s : State) (d c p : Nat) (f : Port → Port) : (s.modPort d c p f).groups = s.groups := rfl
@[simp] theorem State.modPort_launches (s : State) (d c p : Nat) (f : Port → Port) : (s.modPort d c p f).launches = s.launches := rfl
@[simp] theorem State.modPort_patches (s : State) (d c p : Nat) (f : Port → Port) : (s.modPort d c p f).patches = s.patches := rfl
@[simp] theorem State.modPort_snaps (s : State) (d c p : Nat) (f : Port → Port) : (s.modPort d c p f).snaps = s.snaps := rfl
@[simp] theorem State.modPort_tasks (s : State) (d c p : Nat) (f : Port → Port) : (s.modPort d c p f).tasks = s.tasks := rfl
@[simp] theorem State.modPort_mem (s : State) (d c p : Nat) (f : Port → Port) : (s.modPort d c p f).mem = s.mem := rfl
@[simp] theorem State.modPort_hostMem (s : State) (d c p : Nat) (f : Port → Port) : (s.modPort d c p f).hostMem = s.hostMem := rfl
@[simp] theorem State.modPort_poison (s : State) (d c p : Nat) (f : Port → Port) : (s.modPort d c p f).poison = s.poison := rfl
@[simp] theorem State.modPort_dirty (s : State) (d c p : Nat) (f : Port → Port) : (s.modPort d c p f).dirty = s.dirty := rfl
@[simp] theorem State.modPort_views (s : State) (d c p : Nat) (f : Port → Port) : (s.modPort d c p f).views = s.views := rfl
@[simp] theorem State.modPort_holds (s : State) (d c p : Nat) (f : Port → Port) : (s.modPort d c p f).holds = s.holds := rfl
@[simp] theorem State.modPort_oaWaits (s : State) (d c p : Nat) (f : Port → Port) : (s.modPort d c p f).oaWaits = s.oaWaits := rfl
@[simp] theorem State.modPort_pend (s : State) (d c p : Nat) (f : Port → Port) : (s.modPort d c p f).pend = s.pend := rfl
@[simp] theorem State.modPort_flight (s : State) (d c p : Nat) (f : Port → Port) : (s.modPort d c p f).flight = s.flight := rfl
@[simp] theorem State.modPort_tlbs (s : State) (d c p : Nat) (f : Port → Port) : (s.modPort d c p f).tlbs = s.tlbs := rfl
@[simp] theorem State.modPort_walks (s : State) (d c p : Nat) (f : Port → Port) : (s.modPort d c p f).walks = s.walks := rfl
@[simp] theorem State.modPort_invs (s : State) (d c p : Nat) (f : Port → Port) : (s.modPort d c p f).invs = s.invs := rfl
@[simp] theorem State.modPort_stages (s : State) (d c p : Nat) (f : Port → Port) : (s.modPort d c p f).stages = s.stages := rfl
@[simp] theorem State.modPort_links (s : State) (d c p : Nat) (f : Port → Port) : (s.modPort d c p f).links = s.links := rfl
@[simp] theorem State.modPort_flows (s : State) (d c p : Nat) (f : Port → Port) : (s.modPort d c p f).flows = s.flows := rfl
@[simp] theorem State.modPort_flowsIn (s : State) (d c p : Nat) (f : Port → Port) : (s.modPort d c p f).flowsIn = s.flowsIn := rfl
@[simp] theorem State.modPort_sentPkts (s : State) (d c p : Nat) (f : Port → Port) : (s.modPort d c p f).sentPkts = s.sentPkts := rfl
@[simp] theorem State.modPort_shore (s : State) (d c p : Nat) (f : Port → Port) : (s.modPort d c p f).shore = s.shore := rfl
@[simp] theorem State.modPort_rx (s : State) (d c p : Nat) (f : Port → Port) : (s.modPort d c p f).rx = s.rx := rfl
@[simp] theorem State.modPort_mcAcks (s : State) (d c p : Nat) (f : Port → Port) : (s.modPort d c p f).mcAcks = s.mcAcks := rfl
@[simp] theorem State.modPort_linkJobs (s : State) (d c p : Nat) (f : Port → Port) : (s.modPort d c p f).linkJobs = s.linkJobs := rfl
@[simp] theorem State.modPort_sealing (s : State) (d c p : Nat) (f : Port → Port) : (s.modPort d c p f).sealing = s.sealing := rfl
@[simp] theorem State.modPort_fw (s : State) (d c p : Nat) (f : Port → Port) : (s.modPort d c p f).fw = s.fw := rfl
@[simp] theorem State.modPort_clTab (s : State) (d c p : Nat) (f : Port → Port) : (s.modPort d c p f).clTab = s.clTab := rfl
@[simp] theorem State.modPort_parts (s : State) (d c p : Nat) (f : Port → Port) : (s.modPort d c p f).parts = s.parts := rfl
@[simp] theorem State.modPort_intrs (s : State) (d c p : Nat) (f : Port → Port) : (s.modPort d c p f).intrs = s.intrs := rfl
@[simp] theorem State.modPort_hostReads (s : State) (d c p : Nat) (f : Port → Port) : (s.modPort d c p f).hostReads = s.hostReads := rfl
@[simp] theorem State.modPort_spdm (s : State) (d c p : Nat) (f : Port → Port) : (s.modPort d c p f).spdm = s.spdm := rfl
@[simp] theorem State.modPort_sealMsgs (s : State) (d c p : Nat) (f : Port → Port) : (s.modPort d c p f).sealMsgs = s.sealMsgs := rfl

/-! ### setDie -/

@[simp] theorem State.setDie_agenda (s : State) (d n : Nat) (v : Word) : (s.setDie d n v).agenda = s.agenda := rfl
@[simp] theorem State.setDie_focus (s : State) (d n : Nat) (v : Word) : (s.setDie d n v).focus = s.focus := rfl
@[simp] theorem State.setDie_focusSlot (s : State) (d n : Nat) (v : Word) : (s.setDie d n v).focusSlot = s.focusSlot := rfl
@[simp] theorem State.setDie_fresh (s : State) (d n : Nat) (v : Word) : (s.setDie d n v).fresh = s.fresh := rfl
@[simp] theorem State.setDie_nextId (s : State) (d n : Nat) (v : Word) : (s.setDie d n v).nextId = s.nextId := rfl
@[simp] theorem State.setDie_outstanding (s : State) (d n : Nat) (v : Word) : (s.setDie d n v).outstanding = s.outstanding := rfl
@[simp] theorem State.setDie_mpos (s : State) (d n : Nat) (v : Word) : (s.setDie d n v).mpos = s.mpos := rfl
@[simp] theorem State.setDie_hist (s : State) (d n : Nat) (v : Word) : (s.setDie d n v).hist = s.hist := rfl
@[simp] theorem State.setDie_done (s : State) (d n : Nat) (v : Word) : (s.setDie d n v).done = s.done := rfl
@[simp] theorem State.setDie_dev (s : State) (d n : Nat) (v : Word) : (s.setDie d n v).dev = s.dev := rfl
@[simp] theorem State.setDie_coreSel (s : State) (d n : Nat) (v : Word) : (s.setDie d n v).coreSel = s.coreSel := rfl
@[simp] theorem State.setDie_ctxs (s : State) (d n : Nat) (v : Word) : (s.setDie d n v).ctxs = s.ctxs := rfl
@[simp] theorem State.setDie_regions (s : State) (d n : Nat) (v : Word) : (s.setDie d n v).regions = s.regions := rfl
@[simp] theorem State.setDie_units (s : State) (d n : Nat) (v : Word) : (s.setDie d n v).units = s.units := rfl
@[simp] theorem State.setDie_clusters (s : State) (d n : Nat) (v : Word) : (s.setDie d n v).clusters = s.clusters := rfl
@[simp] theorem State.setDie_pools (s : State) (d n : Nat) (v : Word) : (s.setDie d n v).pools = s.pools := rfl
@[simp] theorem State.setDie_poolLeft (s : State) (d n : Nat) (v : Word) : (s.setDie d n v).poolLeft = s.poolLeft := rfl
@[simp] theorem State.setDie_queues (s : State) (d n : Nat) (v : Word) : (s.setDie d n v).queues = s.queues := rfl
@[simp] theorem State.setDie_served (s : State) (d n : Nat) (v : Word) : (s.setDie d n v).served = s.served := rfl
@[simp] theorem State.setDie_fns (s : State) (d n : Nat) (v : Word) : (s.setDie d n v).fns = s.fns := rfl
@[simp] theorem State.setDie_groups (s : State) (d n : Nat) (v : Word) : (s.setDie d n v).groups = s.groups := rfl
@[simp] theorem State.setDie_launches (s : State) (d n : Nat) (v : Word) : (s.setDie d n v).launches = s.launches := rfl
@[simp] theorem State.setDie_patches (s : State) (d n : Nat) (v : Word) : (s.setDie d n v).patches = s.patches := rfl
@[simp] theorem State.setDie_snaps (s : State) (d n : Nat) (v : Word) : (s.setDie d n v).snaps = s.snaps := rfl
@[simp] theorem State.setDie_tasks (s : State) (d n : Nat) (v : Word) : (s.setDie d n v).tasks = s.tasks := rfl
@[simp] theorem State.setDie_mem (s : State) (d n : Nat) (v : Word) : (s.setDie d n v).mem = s.mem := rfl
@[simp] theorem State.setDie_hostMem (s : State) (d n : Nat) (v : Word) : (s.setDie d n v).hostMem = s.hostMem := rfl
@[simp] theorem State.setDie_poison (s : State) (d n : Nat) (v : Word) : (s.setDie d n v).poison = s.poison := rfl
@[simp] theorem State.setDie_dirty (s : State) (d n : Nat) (v : Word) : (s.setDie d n v).dirty = s.dirty := rfl
@[simp] theorem State.setDie_views (s : State) (d n : Nat) (v : Word) : (s.setDie d n v).views = s.views := rfl
@[simp] theorem State.setDie_holds (s : State) (d n : Nat) (v : Word) : (s.setDie d n v).holds = s.holds := rfl
@[simp] theorem State.setDie_oaWaits (s : State) (d n : Nat) (v : Word) : (s.setDie d n v).oaWaits = s.oaWaits := rfl
@[simp] theorem State.setDie_pend (s : State) (d n : Nat) (v : Word) : (s.setDie d n v).pend = s.pend := rfl
@[simp] theorem State.setDie_flight (s : State) (d n : Nat) (v : Word) : (s.setDie d n v).flight = s.flight := rfl
@[simp] theorem State.setDie_tlbs (s : State) (d n : Nat) (v : Word) : (s.setDie d n v).tlbs = s.tlbs := rfl
@[simp] theorem State.setDie_walks (s : State) (d n : Nat) (v : Word) : (s.setDie d n v).walks = s.walks := rfl
@[simp] theorem State.setDie_invs (s : State) (d n : Nat) (v : Word) : (s.setDie d n v).invs = s.invs := rfl
@[simp] theorem State.setDie_stages (s : State) (d n : Nat) (v : Word) : (s.setDie d n v).stages = s.stages := rfl
@[simp] theorem State.setDie_links (s : State) (d n : Nat) (v : Word) : (s.setDie d n v).links = s.links := rfl
@[simp] theorem State.setDie_flows (s : State) (d n : Nat) (v : Word) : (s.setDie d n v).flows = s.flows := rfl
@[simp] theorem State.setDie_flowsIn (s : State) (d n : Nat) (v : Word) : (s.setDie d n v).flowsIn = s.flowsIn := rfl
@[simp] theorem State.setDie_sentPkts (s : State) (d n : Nat) (v : Word) : (s.setDie d n v).sentPkts = s.sentPkts := rfl
@[simp] theorem State.setDie_shore (s : State) (d n : Nat) (v : Word) : (s.setDie d n v).shore = s.shore := rfl
@[simp] theorem State.setDie_rx (s : State) (d n : Nat) (v : Word) : (s.setDie d n v).rx = s.rx := rfl
@[simp] theorem State.setDie_mcAcks (s : State) (d n : Nat) (v : Word) : (s.setDie d n v).mcAcks = s.mcAcks := rfl
@[simp] theorem State.setDie_linkJobs (s : State) (d n : Nat) (v : Word) : (s.setDie d n v).linkJobs = s.linkJobs := rfl
@[simp] theorem State.setDie_sealing (s : State) (d n : Nat) (v : Word) : (s.setDie d n v).sealing = s.sealing := rfl
@[simp] theorem State.setDie_fw (s : State) (d n : Nat) (v : Word) : (s.setDie d n v).fw = s.fw := rfl
@[simp] theorem State.setDie_clTab (s : State) (d n : Nat) (v : Word) : (s.setDie d n v).clTab = s.clTab := rfl
@[simp] theorem State.setDie_parts (s : State) (d n : Nat) (v : Word) : (s.setDie d n v).parts = s.parts := rfl
@[simp] theorem State.setDie_intrs (s : State) (d n : Nat) (v : Word) : (s.setDie d n v).intrs = s.intrs := rfl
@[simp] theorem State.setDie_hostReads (s : State) (d n : Nat) (v : Word) : (s.setDie d n v).hostReads = s.hostReads := rfl
@[simp] theorem State.setDie_spdm (s : State) (d n : Nat) (v : Word) : (s.setDie d n v).spdm = s.spdm := rfl
@[simp] theorem State.setDie_sealMsgs (s : State) (d n : Nat) (v : Word) : (s.setDie d n v).sealMsgs = s.sealMsgs := rfl

/-! ### setCtx -/

@[simp] theorem State.setCtx_agenda (s : State) (x n : Nat) (v : Word) : (s.setCtx x n v).agenda = s.agenda := rfl
@[simp] theorem State.setCtx_focus (s : State) (x n : Nat) (v : Word) : (s.setCtx x n v).focus = s.focus := rfl
@[simp] theorem State.setCtx_focusSlot (s : State) (x n : Nat) (v : Word) : (s.setCtx x n v).focusSlot = s.focusSlot := rfl
@[simp] theorem State.setCtx_fresh (s : State) (x n : Nat) (v : Word) : (s.setCtx x n v).fresh = s.fresh := rfl
@[simp] theorem State.setCtx_nextId (s : State) (x n : Nat) (v : Word) : (s.setCtx x n v).nextId = s.nextId := rfl
@[simp] theorem State.setCtx_outstanding (s : State) (x n : Nat) (v : Word) : (s.setCtx x n v).outstanding = s.outstanding := rfl
@[simp] theorem State.setCtx_mpos (s : State) (x n : Nat) (v : Word) : (s.setCtx x n v).mpos = s.mpos := rfl
@[simp] theorem State.setCtx_hist (s : State) (x n : Nat) (v : Word) : (s.setCtx x n v).hist = s.hist := rfl
@[simp] theorem State.setCtx_done (s : State) (x n : Nat) (v : Word) : (s.setCtx x n v).done = s.done := rfl
@[simp] theorem State.setCtx_dev (s : State) (x n : Nat) (v : Word) : (s.setCtx x n v).dev = s.dev := rfl
@[simp] theorem State.setCtx_dies (s : State) (x n : Nat) (v : Word) : (s.setCtx x n v).dies = s.dies := rfl
@[simp] theorem State.setCtx_coreSel (s : State) (x n : Nat) (v : Word) : (s.setCtx x n v).coreSel = s.coreSel := rfl
@[simp] theorem State.setCtx_regions (s : State) (x n : Nat) (v : Word) : (s.setCtx x n v).regions = s.regions := rfl
@[simp] theorem State.setCtx_units (s : State) (x n : Nat) (v : Word) : (s.setCtx x n v).units = s.units := rfl
@[simp] theorem State.setCtx_clusters (s : State) (x n : Nat) (v : Word) : (s.setCtx x n v).clusters = s.clusters := rfl
@[simp] theorem State.setCtx_pools (s : State) (x n : Nat) (v : Word) : (s.setCtx x n v).pools = s.pools := rfl
@[simp] theorem State.setCtx_poolLeft (s : State) (x n : Nat) (v : Word) : (s.setCtx x n v).poolLeft = s.poolLeft := rfl
@[simp] theorem State.setCtx_queues (s : State) (x n : Nat) (v : Word) : (s.setCtx x n v).queues = s.queues := rfl
@[simp] theorem State.setCtx_served (s : State) (x n : Nat) (v : Word) : (s.setCtx x n v).served = s.served := rfl
@[simp] theorem State.setCtx_fns (s : State) (x n : Nat) (v : Word) : (s.setCtx x n v).fns = s.fns := rfl
@[simp] theorem State.setCtx_groups (s : State) (x n : Nat) (v : Word) : (s.setCtx x n v).groups = s.groups := rfl
@[simp] theorem State.setCtx_launches (s : State) (x n : Nat) (v : Word) : (s.setCtx x n v).launches = s.launches := rfl
@[simp] theorem State.setCtx_patches (s : State) (x n : Nat) (v : Word) : (s.setCtx x n v).patches = s.patches := rfl
@[simp] theorem State.setCtx_snaps (s : State) (x n : Nat) (v : Word) : (s.setCtx x n v).snaps = s.snaps := rfl
@[simp] theorem State.setCtx_tasks (s : State) (x n : Nat) (v : Word) : (s.setCtx x n v).tasks = s.tasks := rfl
@[simp] theorem State.setCtx_mem (s : State) (x n : Nat) (v : Word) : (s.setCtx x n v).mem = s.mem := rfl
@[simp] theorem State.setCtx_hostMem (s : State) (x n : Nat) (v : Word) : (s.setCtx x n v).hostMem = s.hostMem := rfl
@[simp] theorem State.setCtx_poison (s : State) (x n : Nat) (v : Word) : (s.setCtx x n v).poison = s.poison := rfl
@[simp] theorem State.setCtx_dirty (s : State) (x n : Nat) (v : Word) : (s.setCtx x n v).dirty = s.dirty := rfl
@[simp] theorem State.setCtx_views (s : State) (x n : Nat) (v : Word) : (s.setCtx x n v).views = s.views := rfl
@[simp] theorem State.setCtx_holds (s : State) (x n : Nat) (v : Word) : (s.setCtx x n v).holds = s.holds := rfl
@[simp] theorem State.setCtx_oaWaits (s : State) (x n : Nat) (v : Word) : (s.setCtx x n v).oaWaits = s.oaWaits := rfl
@[simp] theorem State.setCtx_pend (s : State) (x n : Nat) (v : Word) : (s.setCtx x n v).pend = s.pend := rfl
@[simp] theorem State.setCtx_flight (s : State) (x n : Nat) (v : Word) : (s.setCtx x n v).flight = s.flight := rfl
@[simp] theorem State.setCtx_tlbs (s : State) (x n : Nat) (v : Word) : (s.setCtx x n v).tlbs = s.tlbs := rfl
@[simp] theorem State.setCtx_walks (s : State) (x n : Nat) (v : Word) : (s.setCtx x n v).walks = s.walks := rfl
@[simp] theorem State.setCtx_invs (s : State) (x n : Nat) (v : Word) : (s.setCtx x n v).invs = s.invs := rfl
@[simp] theorem State.setCtx_stages (s : State) (x n : Nat) (v : Word) : (s.setCtx x n v).stages = s.stages := rfl
@[simp] theorem State.setCtx_links (s : State) (x n : Nat) (v : Word) : (s.setCtx x n v).links = s.links := rfl
@[simp] theorem State.setCtx_flows (s : State) (x n : Nat) (v : Word) : (s.setCtx x n v).flows = s.flows := rfl
@[simp] theorem State.setCtx_flowsIn (s : State) (x n : Nat) (v : Word) : (s.setCtx x n v).flowsIn = s.flowsIn := rfl
@[simp] theorem State.setCtx_sentPkts (s : State) (x n : Nat) (v : Word) : (s.setCtx x n v).sentPkts = s.sentPkts := rfl
@[simp] theorem State.setCtx_shore (s : State) (x n : Nat) (v : Word) : (s.setCtx x n v).shore = s.shore := rfl
@[simp] theorem State.setCtx_rx (s : State) (x n : Nat) (v : Word) : (s.setCtx x n v).rx = s.rx := rfl
@[simp] theorem State.setCtx_mcAcks (s : State) (x n : Nat) (v : Word) : (s.setCtx x n v).mcAcks = s.mcAcks := rfl
@[simp] theorem State.setCtx_linkJobs (s : State) (x n : Nat) (v : Word) : (s.setCtx x n v).linkJobs = s.linkJobs := rfl
@[simp] theorem State.setCtx_sealing (s : State) (x n : Nat) (v : Word) : (s.setCtx x n v).sealing = s.sealing := rfl
@[simp] theorem State.setCtx_fw (s : State) (x n : Nat) (v : Word) : (s.setCtx x n v).fw = s.fw := rfl
@[simp] theorem State.setCtx_clTab (s : State) (x n : Nat) (v : Word) : (s.setCtx x n v).clTab = s.clTab := rfl
@[simp] theorem State.setCtx_parts (s : State) (x n : Nat) (v : Word) : (s.setCtx x n v).parts = s.parts := rfl
@[simp] theorem State.setCtx_intrs (s : State) (x n : Nat) (v : Word) : (s.setCtx x n v).intrs = s.intrs := rfl
@[simp] theorem State.setCtx_hostReads (s : State) (x n : Nat) (v : Word) : (s.setCtx x n v).hostReads = s.hostReads := rfl
@[simp] theorem State.setCtx_spdm (s : State) (x n : Nat) (v : Word) : (s.setCtx x n v).spdm = s.spdm := rfl
@[simp] theorem State.setCtx_sealMsgs (s : State) (x n : Nat) (v : Word) : (s.setCtx x n v).sealMsgs = s.sealMsgs := rfl

end Sys2Proof.Machine
end

