-- ==== Sys2Proof/Laws/Tab.lean ====
section
/-! SUPPORT. Sparse tables and byte memories: a read after a write, and that every operation on a memory keeps its one
canonical form. -/

namespace Sys2Proof.Machine

/-! ### Tables -/

variable {α : Type}

theorem tabGet?_tabSet (t : Tab α) (k j : Nat) (v : α) :
    tabGet? (tabSet t k v) j = if j = k then some v else tabGet? t j := by
  induction t with
  | nil => by_cases h : k = j <;> simp [tabSet, tabGet?, h, eq_comm]
  | cons p r ih =>
    obtain ⟨i, w⟩ := p
    unfold tabSet
    split
    · by_cases h : k = j <;> simp [tabGet?, h, eq_comm]
    · split
      · rename_i _ hk
        subst hk
        by_cases h : j = k
        · simp [tabGet?, h]
        · simp [tabGet?, h, Ne.symm h]
      · rename_i _ hk
        by_cases h : i = j
        · subst h; simp [tabGet?, Ne.symm hk]
        · simp [tabGet?, h, ih]

@[simp] theorem tabGet?_tabSet_same (t : Tab α) (k : Nat) (v : α) : tabGet? (tabSet t k v) k = some v := by
  simp [tabGet?_tabSet]

theorem tabGet?_tabSet_other (t : Tab α) {k j : Nat} (v : α) (h : j ≠ k) : tabGet? (tabSet t k v) j = tabGet? t j := by
  simp [tabGet?_tabSet, h]

@[simp] theorem tabGet_tabSet_same [Inhabited α] (t : Tab α) (k : Nat) (v : α) : tabGet (tabSet t k v) k = v := by
  simp [tabGet]

theorem tabGet_tabSet_other [Inhabited α] (t : Tab α) {k j : Nat} (v : α) (h : j ≠ k) :
    tabGet (tabSet t k v) j = tabGet t j := by
  simp [tabGet, tabGet?_tabSet_other _ _ h]

@[simp] theorem tabGet_tabMod_same [Inhabited α] (t : Tab α) (k : Nat) (f : α → α) :
    tabGet (tabMod t k f) k = f (tabGet t k) := by
  simp [tabMod]

theorem tabGet_tabMod_other [Inhabited α] (t : Tab α) {k j : Nat} (f : α → α) (h : j ≠ k) :
    tabGet (tabMod t k f) j = tabGet t j := by
  simp [tabMod, tabGet_tabSet_other _ _ h]

@[simp] theorem tabGet?_tabMod_same [Inhabited α] (t : Tab α) (k : Nat) (f : α → α) :
    tabGet? (tabMod t k f) k = some (f (tabGet t k)) := by
  simp [tabMod]

theorem tabGet?_tabMod_other [Inhabited α] (t : Tab α) {k j : Nat} (f : α → α) (h : j ≠ k) :
    tabGet? (tabMod t k f) j = tabGet? t j := by
  simp [tabMod, tabGet?_tabSet_other _ _ h]

theorem tabGet?_tabDel (t : Tab α) (k j : Nat) : tabGet? (tabDel t k) j = if j = k then none else tabGet? t j := by
  induction t with
  | nil => simp [tabDel, tabGet?]
  | cons p r ih =>
    obtain ⟨i, w⟩ := p
    simp only [tabDel] at ih
    by_cases hk : i = k
    · subst hk
      by_cases h : i = j
      · subst h; simpa [tabDel, tabGet?] using ih
      · simpa [tabDel, tabGet?, h, Ne.symm h, eq_comm] using ih
    · by_cases h : i = j
      · subst h; simp [tabDel, tabGet?, hk]
      · simp only [tabDel, decide_not, ne_eq] at ih ⊢
        simp [tabGet?, hk, h, ih]

/-- Every key of a table. -/
theorem tabSorted_cons (a : Nat) (v : α) (t : Tab α) :
    tabSorted ((a, v) :: t) = true ↔ (∀ c ∈ t, a < c.1) ∧ tabSorted t = true := by
  induction t generalizing a v with
  | nil => simp [tabSorted]
  | cons p r ih =>
    obtain ⟨b, w⟩ := p
    simp only [tabSorted, Bool.and_eq_true, decide_eq_true_eq]
    constructor
    · rintro ⟨h1, h2⟩
      refine ⟨fun c hc => ?_, h2⟩
      rcases List.mem_cons.mp hc with rfl | hc
      · exact h1
      · exact Nat.lt_trans h1 (((ih b w).mp h2).1 c hc)
    · rintro ⟨h1, h2⟩
      exact ⟨h1 _ (List.mem_cons_self ..), h2⟩

theorem tabSorted_filter (p : Nat × α → Bool) (t : Tab α) (h : tabSorted t = true) : tabSorted (t.filter p) = true := by
  induction t with
  | nil => simp [tabSorted]
  | cons c r ih =>
    obtain ⟨a, v⟩ := c
    rw [tabSorted_cons] at h
    by_cases hp : p (a, v)
    · rw [List.filter_cons_of_pos hp, tabSorted_cons]
      exact ⟨fun c hc => h.1 c ((List.mem_filter.mp hc).1), ih h.2⟩
    · rw [List.filter_cons_of_neg hp]; exact ih h.2

theorem mem_tabSet (t : Tab α) (k : Nat) (v : α) (c : Nat × α) (h : c ∈ tabSet t k v) : c = (k, v) ∨ c ∈ t := by
  induction t with
  | nil => simpa [tabSet] using h
  | cons p r ih =>
    obtain ⟨j, w⟩ := p
    unfold tabSet at h
    split at h
    · simpa using h
    · split at h
      · rcases List.mem_cons.mp h with h | h
        · exact .inl h
        · exact .inr (List.mem_cons_of_mem _ h)
      · rcases List.mem_cons.mp h with h | h
        · exact .inr (by simp [h])
        · exact (ih h).imp id (List.mem_cons_of_mem _)

theorem tabSorted_tabSet (t : Tab α) (k : Nat) (v : α) (h : tabSorted t = true) : tabSorted (tabSet t k v) = true := by
  induction t with
  | nil => simp [tabSet, tabSorted]
  | cons p r ih =>
    obtain ⟨j, w⟩ := p
    have hs := h
    rw [tabSorted_cons] at h
    unfold tabSet
    split
    · rename_i hk
      rw [tabSorted_cons]
      refine ⟨fun c hc => ?_, hs⟩
      rcases List.mem_cons.mp hc with rfl | hc
      · exact hk
      · exact Nat.lt_trans hk (h.1 c hc)
    · split
      · rename_i _ hk
        subst hk
        rw [tabSorted_cons]; exact h
      · rename_i h1 h2
        rw [tabSorted_cons]
        refine ⟨fun c hc => ?_, ih h.2⟩
        rcases mem_tabSet _ _ _ _ hc with rfl | hc
        · simp only at *; omega
        · exact h.1 c hc

/-! ### Byte memories -/

/-- A read after a write of one byte. -/
theorem memGet_memSet (m : Mem) (a c : Nat) (b : Byte) : memGet (memSet m a b) c = if c = a then b else memGet m c := by
  unfold memSet memGet
  by_cases hb : b = 0
  · simp only [hb, if_true, tabGet?_tabDel]
    by_cases h : c = a <;> simp [h]
  · simp only [hb, if_false, tabGet?_tabSet]
    by_cases h : c = a <;> simp [h]

/-- A read after a write of bytes: the byte written there, or what was there. -/
theorem memGet_memPut (m : Mem) (a c : Nat) (bs : List Byte) :
    memGet (memPut m a bs) c = if a ≤ c ∧ c < a + bs.length then bs.getD (c - a) 0 else memGet m c := by
  induction bs generalizing m a with
  | nil => rw [if_neg (by simp only [List.length_nil]; omega)]; rfl
  | cons b r ih =>
    simp only [memPut, ih, memGet_memSet, List.length_cons]
    by_cases h : c = a
    · subst h
      rw [if_neg (by omega), if_pos (by omega)]; simp
    · by_cases h2 : a + 1 ≤ c ∧ c < a + 1 + r.length
      · have h3 : a ≤ c ∧ c < a + (r.length + 1) := by omega
        have h4 : c - a = (c - (a + 1)) + 1 := by omega
        simp [h2, h3, h4]
      · have h3 : ¬ (a ≤ c ∧ c < a + (r.length + 1)) := by omega
        rw [if_neg h2, if_neg h3, if_neg h]

/-- What a clear leaves. -/
theorem memGet_memClear (m : Mem) (lo hi c : Nat) :
    memGet (memClear m lo hi) c = if lo ≤ c ∧ c < hi then 0 else memGet m c := by
  unfold memGet memClear
  induction m with
  | nil => simp [tabGet?]
  | cons p r ih =>
    obtain ⟨i, w⟩ := p
    by_cases hp : i < lo ∨ hi ≤ i
    · have hq : (decide (i < lo) || decide (hi ≤ i)) = true := by simpa using hp
      rw [List.filter_cons_of_pos (by simpa using hq)]
      by_cases h : i = c
      · subst h
        have : ¬ (lo ≤ i ∧ i < hi) := by omega
        simp [tabGet?, this]
      · simp only [tabGet?, h, if_false]; exact ih
    · rw [List.filter_cons_of_neg (by simpa using hp)]
      by_cases h : i = c
      · subst h
        have hc : lo ≤ i ∧ i < hi := by omega
        rw [ih]; simp [hc]
      · simp only [tabGet?, h, if_false]; exact ih

theorem Mem.wf_iff (m : Mem) : m.wf = true ↔ tabSorted m = true ∧ ∀ c ∈ m, c.2 ≠ 0 := by
  simp [Mem.wf, List.all_eq_true]

theorem Mem.wf_filter (m : Mem) (p : Nat × Byte → Bool) (h : m.wf = true) : Mem.wf (m.filter p) = true := by
  rw [Mem.wf_iff] at *
  exact ⟨tabSorted_filter p m h.1, fun c hc => h.2 c ((List.mem_filter.mp hc).1)⟩

theorem Mem.wf_memSet (m : Mem) (a : Nat) (b : Byte) (h : m.wf = true) : (memSet m a b).wf = true := by
  unfold memSet
  split
  · exact Mem.wf_filter _ _ h
  · rename_i hb
    rw [Mem.wf_iff] at *
    refine ⟨tabSorted_tabSet _ _ _ h.1, fun c hc => ?_⟩
    rcases mem_tabSet _ _ _ _ hc with rfl | hc
    · exact hb
    · exact h.2 c hc

@[simp] theorem Mem.wf_nil : Mem.wf [] = true := rfl

theorem Mem.wf_memPut (m : Mem) (a : Nat) (bs : List Byte) (h : m.wf = true) : (memPut m a bs).wf = true := by
  induction bs generalizing m a with
  | nil => exact h
  | cons b r ih => exact ih _ _ (Mem.wf_memSet _ _ _ h)

theorem Mem.wf_memClear (m : Mem) (lo hi : Nat) (h : m.wf = true) : (memClear m lo hi).wf = true := Mem.wf_filter _ _ h

end Sys2Proof.Machine
end

