-- ==== Sys2Proof/Laws/Objects.lean ====
section
/-! SUPPORT. What each update does to each object of the state: the one it reaches, and those it leaves alone. -/

namespace Sys2Proof.Machine

/-! ### Objects of other fields -/

@[simp] theorem State.cluster_modUnit (s : State) (u : Nat) (f : UnitS → UnitS) (e b : Nat) : (s.modUnit u f).cluster e b = s.cluster e b := rfl
@[simp] theorem State.die_modUnit (s : State) (u : Nat) (f : UnitS → UnitS) (e : Nat) : (s.modUnit u f).die e = s.die e := rfl
@[simp] theorem State.ctx_modUnit (s : State) (u : Nat) (f : UnitS → UnitS) (y : Nat) : (s.modUnit u f).ctx y = s.ctx y := rfl
@[simp] theorem State.region_modUnit (s : State) (u : Nat) (f : UnitS → UnitS) (j : Nat) : (s.modUnit u f).region j = s.region j := rfl
@[simp] theorem State.queue_modUnit (s : State) (u : Nat) (f : UnitS → UnitS) (p : Nat) : (s.modUnit u f).queue p = s.queue p := rfl
@[simp] theorem State.link_modUnit (s : State) (u : Nat) (f : UnitS → UnitS) (m : Nat) : (s.modUnit u f).link m = s.link m := rfl
@[simp] theorem State.devReg_modUnit (s : State) (u : Nat) (f : UnitS → UnitS) (m : Nat) : (s.modUnit u f).devReg m = s.devReg m := rfl
@[simp] theorem State.pool_modUnit (s : State) (u : Nat) (f : UnitS → UnitS) (y m : Nat) : (s.modUnit u f).pool? y m = s.pool? y m := rfl
@[simp] theorem State.dieReg_modUnit (s : State) (u : Nat) (f : UnitS → UnitS) (e m : Nat) : (s.modUnit u f).dieReg e m = s.dieReg e m := rfl
@[simp] theorem State.ctxReg_modUnit (s : State) (u : Nat) (f : UnitS → UnitS) (y m : Nat) : (s.modUnit u f).ctxReg y m = s.ctxReg y m := rfl

@[simp] theorem State.unit_modCluster (s : State) (d c : Nat) (f : Cluster → Cluster) (w : Nat) : (s.modCluster d c f).unit w = s.unit w := rfl
@[simp] theorem State.die_modCluster (s : State) (d c : Nat) (f : Cluster → Cluster) (e : Nat) : (s.modCluster d c f).die e = s.die e := rfl
@[simp] theorem State.ctx_modCluster (s : State) (d c : Nat) (f : Cluster → Cluster) (y : Nat) : (s.modCluster d c f).ctx y = s.ctx y := rfl
@[simp] theorem State.region_modCluster (s : State) (d c : Nat) (f : Cluster → Cluster) (j : Nat) : (s.modCluster d c f).region j = s.region j := rfl
@[simp] theorem State.queue_modCluster (s : State) (d c : Nat) (f : Cluster → Cluster) (p : Nat) : (s.modCluster d c f).queue p = s.queue p := rfl
@[simp] theorem State.link_modCluster (s : State) (d c : Nat) (f : Cluster → Cluster) (m : Nat) : (s.modCluster d c f).link m = s.link m := rfl
@[simp] theorem State.devReg_modCluster (s : State) (d c : Nat) (f : Cluster → Cluster) (m : Nat) : (s.modCluster d c f).devReg m = s.devReg m := rfl
@[simp] theorem State.pool_modCluster (s : State) (d c : Nat) (f : Cluster → Cluster) (y m : Nat) : (s.modCluster d c f).pool? y m = s.pool? y m := rfl
@[simp] theorem State.dieReg_modCluster (s : State) (d c : Nat) (f : Cluster → Cluster) (e m : Nat) : (s.modCluster d c f).dieReg e m = s.dieReg e m := rfl
@[simp] theorem State.ctxReg_modCluster (s : State) (d c : Nat) (f : Cluster → Cluster) (y m : Nat) : (s.modCluster d c f).ctxReg y m = s.ctxReg y m := rfl

@[simp] theorem State.unit_modDie (s : State) (d : Nat) (f : Die → Die) (w : Nat) : (s.modDie d f).unit w = s.unit w := rfl
@[simp] theorem State.cluster_modDie (s : State) (d : Nat) (f : Die → Die) (e b : Nat) : (s.modDie d f).cluster e b = s.cluster e b := rfl
@[simp] theorem State.ctx_modDie (s : State) (d : Nat) (f : Die → Die) (y : Nat) : (s.modDie d f).ctx y = s.ctx y := rfl
@[simp] theorem State.region_modDie (s : State) (d : Nat) (f : Die → Die) (j : Nat) : (s.modDie d f).region j = s.region j := rfl
@[simp] theorem State.queue_modDie (s : State) (d : Nat) (f : Die → Die) (p : Nat) : (s.modDie d f).queue p = s.queue p := rfl
@[simp] theorem State.link_modDie (s : State) (d : Nat) (f : Die → Die) (m : Nat) : (s.modDie d f).link m = s.link m := rfl
@[simp] theorem State.devReg_modDie (s : State) (d : Nat) (f : Die → Die) (m : Nat) : (s.modDie d f).devReg m = s.devReg m := rfl
@[simp] theorem State.pool_modDie (s : State) (d : Nat) (f : Die → Die) (y m : Nat) : (s.modDie d f).pool? y m = s.pool? y m := rfl
@[simp] theorem State.ctxReg_modDie (s : State) (d : Nat) (f : Die → Die) (y m : Nat) : (s.modDie d f).ctxReg y m = s.ctxReg y m := rfl

@[simp] theorem State.unit_modCtx (s : State) (x : Nat) (f : Ctx → Ctx) (w : Nat) : (s.modCtx x f).unit w = s.unit w := rfl
@[simp] theorem State.cluster_modCtx (s : State) (x : Nat) (f : Ctx → Ctx) (e b : Nat) : (s.modCtx x f).cluster e b = s.cluster e b := rfl
@[simp] theorem State.die_modCtx (s : State) (x : Nat) (f : Ctx → Ctx) (e : Nat) : (s.modCtx x f).die e = s.die e := rfl
@[simp] theorem State.region_modCtx (s : State) (x : Nat) (f : Ctx → Ctx) (j : Nat) : (s.modCtx x f).region j = s.region j := rfl
@[simp] theorem State.queue_modCtx (s : State) (x : Nat) (f : Ctx → Ctx) (p : Nat) : (s.modCtx x f).queue p = s.queue p := rfl
@[simp] theorem State.link_modCtx (s : State) (x : Nat) (f : Ctx → Ctx) (m : Nat) : (s.modCtx x f).link m = s.link m := rfl
@[simp] theorem State.devReg_modCtx (s : State) (x : Nat) (f : Ctx → Ctx) (m : Nat) : (s.modCtx x f).devReg m = s.devReg m := rfl
@[simp] theorem State.pool_modCtx (s : State) (x : Nat) (f : Ctx → Ctx) (y m : Nat) : (s.modCtx x f).pool? y m = s.pool? y m := rfl
@[simp] theorem State.dieReg_modCtx (s : State) (x : Nat) (f : Ctx → Ctx) (e m : Nat) : (s.modCtx x f).dieReg e m = s.dieReg e m := rfl

@[simp] theorem State.unit_modRegion (s : State) (k : Nat) (f : Region → Region) (w : Nat) : (s.modRegion k f).unit w = s.unit w := rfl
@[simp] theorem State.cluster_modRegion (s : State) (k : Nat) (f : Region → Region) (e b : Nat) : (s.modRegion k f).cluster e b = s.cluster e b := rfl
@[simp] theorem State.die_modRegion (s : State) (k : Nat) (f : Region → Region) (e : Nat) : (s.modRegion k f).die e = s.die e := rfl
@[simp] theorem State.ctx_modRegion (s : State) (k : Nat) (f : Region → Region) (y : Nat) : (s.modRegion k f).ctx y = s.ctx y := rfl
@[simp] theorem State.queue_modRegion (s : State) (k : Nat) (f : Region → Region) (p : Nat) : (s.modRegion k f).queue p = s.queue p := rfl
@[simp] theorem State.link_modRegion (s : State) (k : Nat) (f : Region → Region) (m : Nat) : (s.modRegion k f).link m = s.link m := rfl
@[simp] theorem State.devReg_modRegion (s : State) (k : Nat) (f : Region → Region) (m : Nat) : (s.modRegion k f).devReg m = s.devReg m := rfl
@[simp] theorem State.pool_modRegion (s : State) (k : Nat) (f : Region → Region) (y m : Nat) : (s.modRegion k f).pool? y m = s.pool? y m := rfl
@[simp] theorem State.dieReg_modRegion (s : State) (k : Nat) (f : Region → Region) (e m : Nat) : (s.modRegion k f).dieReg e m = s.dieReg e m := rfl
@[simp] theorem State.ctxReg_modRegion (s : State) (k : Nat) (f : Region → Region) (y m : Nat) : (s.modRegion k f).ctxReg y m = s.ctxReg y m := rfl

@[simp] theorem State.unit_setPool (s : State) (x n : Nat) (q : Pool) (w : Nat) : (s.setPool x n q).unit w = s.unit w := rfl
@[simp] theorem State.cluster_setPool (s : State) (x n : Nat) (q : Pool) (e b : Nat) : (s.setPool x n q).cluster e b = s.cluster e b := rfl
@[simp] theorem State.die_setPool (s : State) (x n : Nat) (q : Pool) (e : Nat) : (s.setPool x n q).die e = s.die e := rfl
@[simp] theorem State.ctx_setPool (s : State) (x n : Nat) (q : Pool) (y : Nat) : (s.setPool x n q).ctx y = s.ctx y := rfl
@[simp] theorem State.region_setPool (s : State) (x n : Nat) (q : Pool) (j : Nat) : (s.setPool x n q).region j = s.region j := rfl
@[simp] theorem State.queue_setPool (s : State) (x n : Nat) (q : Pool) (p : Nat) : (s.setPool x n q).queue p = s.queue p := rfl
@[simp] theorem State.link_setPool (s : State) (x n : Nat) (q : Pool) (m : Nat) : (s.setPool x n q).link m = s.link m := rfl
@[simp] theorem State.devReg_setPool (s : State) (x n : Nat) (q : Pool) (m : Nat) : (s.setPool x n q).devReg m = s.devReg m := rfl
@[simp] theorem State.dieReg_setPool (s : State) (x n : Nat) (q : Pool) (e m : Nat) : (s.setPool x n q).dieReg e m = s.dieReg e m := rfl
@[simp] theorem State.ctxReg_setPool (s : State) (x n : Nat) (q : Pool) (y m : Nat) : (s.setPool x n q).ctxReg y m = s.ctxReg y m := rfl

@[simp] theorem State.unit_modQueue (s : State) (q : Nat) (f : Queue → Queue) (w : Nat) : (s.modQueue q f).unit w = s.unit w := rfl
@[simp] theorem State.cluster_modQueue (s : State) (q : Nat) (f : Queue → Queue) (e b : Nat) : (s.modQueue q f).cluster e b = s.cluster e b := rfl
@[simp] theorem State.die_modQueue (s : State) (q : Nat) (f : Queue → Queue) (e : Nat) : (s.modQueue q f).die e = s.die e := rfl
@[simp] theorem State.ctx_modQueue (s : State) (q : Nat) (f : Queue → Queue) (y : Nat) : (s.modQueue q f).ctx y = s.ctx y := rfl
@[simp] theorem State.region_modQueue (s : State) (q : Nat) (f : Queue → Queue) (j : Nat) : (s.modQueue q f).region j = s.region j := rfl
@[simp] theorem State.link_modQueue (s : State) (q : Nat) (f : Queue → Queue) (m : Nat) : (s.modQueue q f).link m = s.link m := rfl
@[simp] theorem State.devReg_modQueue (s : State) (q : Nat) (f : Queue → Queue) (m : Nat) : (s.modQueue q f).devReg m = s.devReg m := rfl
@[simp] theorem State.pool_modQueue (s : State) (q : Nat) (f : Queue → Queue) (y m : Nat) : (s.modQueue q f).pool? y m = s.pool? y m := rfl
@[simp] theorem State.dieReg_modQueue (s : State) (q : Nat) (f : Queue → Queue) (e m : Nat) : (s.modQueue q f).dieReg e m = s.dieReg e m := rfl
@[simp] theorem State.ctxReg_modQueue (s : State) (q : Nat) (f : Queue → Queue) (y m : Nat) : (s.modQueue q f).ctxReg y m = s.ctxReg y m := rfl

@[simp] theorem State.unit_modLink (s : State) (n : Nat) (f : Link → Link) (w : Nat) : (s.modLink n f).unit w = s.unit w := rfl
@[simp] theorem State.cluster_modLink (s : State) (n : Nat) (f : Link → Link) (e b : Nat) : (s.modLink n f).cluster e b = s.cluster e b := rfl
@[simp] theorem State.die_modLink (s : State) (n : Nat) (f : Link → Link) (e : Nat) : (s.modLink n f).die e = s.die e := rfl
@[simp] theorem State.ctx_modLink (s : State) (n : Nat) (f : Link → Link) (y : Nat) : (s.modLink n f).ctx y = s.ctx y := rfl
@[simp] theorem State.region_modLink (s : State) (n : Nat) (f : Link → Link) (j : Nat) : (s.modLink n f).region j = s.region j := rfl
@[simp] theorem State.queue_modLink (s : State) (n : Nat) (f : Link → Link) (p : Nat) : (s.modLink n f).queue p = s.queue p := rfl
@[simp] theorem State.devReg_modLink (s : State) (n : Nat) (f : Link → Link) (m : Nat) : (s.modLink n f).devReg m = s.devReg m := rfl
@[simp] theorem State.pool_modLink (s : State) (n : Nat) (f : Link → Link) (y m : Nat) : (s.modLink n f).pool? y m = s.pool? y m := rfl
@[simp] theorem State.dieReg_modLink (s : State) (n : Nat) (f : Link → Link) (e m : Nat) : (s.modLink n f).dieReg e m = s.dieReg e m := rfl
@[simp] theorem State.ctxReg_modLink (s : State) (n : Nat) (f : Link → Link) (y m : Nat) : (s.modLink n f).ctxReg y m = s.ctxReg y m := rfl

@[simp] theorem State.unit_setDev (s : State) (n : Nat) (v : Word) (w : Nat) : (s.setDev n v).unit w = s.unit w := rfl
@[simp] theorem State.cluster_setDev (s : State) (n : Nat) (v : Word) (e b : Nat) : (s.setDev n v).cluster e b = s.cluster e b := rfl
@[simp] theorem State.die_setDev (s : State) (n : Nat) (v : Word) (e : Nat) : (s.setDev n v).die e = s.die e := rfl
@[simp] theorem State.ctx_setDev (s : State) (n : Nat) (v : Word) (y : Nat) : (s.setDev n v).ctx y = s.ctx y := rfl
@[simp] theorem State.region_setDev (s : State) (n : Nat) (v : Word) (j : Nat) : (s.setDev n v).region j = s.region j := rfl
@[simp] theorem State.queue_setDev (s : State) (n : Nat) (v : Word) (p : Nat) : (s.setDev n v).queue p = s.queue p := rfl
@[simp] theorem State.link_setDev (s : State) (n : Nat) (v : Word) (m : Nat) : (s.setDev n v).link m = s.link m := rfl
@[simp] theorem State.pool_setDev (s : State) (n : Nat) (v : Word) (y m : Nat) : (s.setDev n v).pool? y m = s.pool? y m := rfl
@[simp] theorem State.dieReg_setDev (s : State) (n : Nat) (v : Word) (e m : Nat) : (s.setDev n v).dieReg e m = s.dieReg e m := rfl
@[simp] theorem State.ctxReg_setDev (s : State) (n : Nat) (v : Word) (y m : Nat) : (s.setDev n v).ctxReg y m = s.ctxReg y m := rfl

@[simp] theorem State.cluster_modPlane (s : State) (u : Nat) (f : Plane → Plane) (e b : Nat) : (s.modPlane u f).cluster e b = s.cluster e b := rfl
@[simp] theorem State.die_modPlane (s : State) (u : Nat) (f : Plane → Plane) (e : Nat) : (s.modPlane u f).die e = s.die e := rfl
@[simp] theorem State.ctx_modPlane (s : State) (u : Nat) (f : Plane → Plane) (y : Nat) : (s.modPlane u f).ctx y = s.ctx y := rfl
@[simp] theorem State.region_modPlane (s : State) (u : Nat) (f : Plane → Plane) (j : Nat) : (s.modPlane u f).region j = s.region j := rfl
@[simp] theorem State.queue_modPlane (s : State) (u : Nat) (f : Plane → Plane) (p : Nat) : (s.modPlane u f).queue p = s.queue p := rfl
@[simp] theorem State.link_modPlane (s : State) (u : Nat) (f : Plane → Plane) (m : Nat) : (s.modPlane u f).link m = s.link m := rfl
@[simp] theorem State.devReg_modPlane (s : State) (u : Nat) (f : Plane → Plane) (m : Nat) : (s.modPlane u f).devReg m = s.devReg m := rfl
@[simp] theorem State.pool_modPlane (s : State) (u : Nat) (f : Plane → Plane) (y m : Nat) : (s.modPlane u f).pool? y m = s.pool? y m := rfl
@[simp] theorem State.dieReg_modPlane (s : State) (u : Nat) (f : Plane → Plane) (e m : Nat) : (s.modPlane u f).dieReg e m = s.dieReg e m := rfl
@[simp] theorem State.ctxReg_modPlane (s : State) (u : Nat) (f : Plane → Plane) (y m : Nat) : (s.modPlane u f).ctxReg y m = s.ctxReg y m := rfl

@[simp] theorem State.cluster_modOp (s : State) (u o : Nat) (f : OpState → OpState) (e b : Nat) : (s.modOp u o f).cluster e b = s.cluster e b := rfl
@[simp] theorem State.die_modOp (s : State) (u o : Nat) (f : OpState → OpState) (e : Nat) : (s.modOp u o f).die e = s.die e := rfl
@[simp] theorem State.ctx_modOp (s : State) (u o : Nat) (f : OpState → OpState) (y : Nat) : (s.modOp u o f).ctx y = s.ctx y := rfl
@[simp] theorem State.region_modOp (s : State) (u o : Nat) (f : OpState → OpState) (j : Nat) : (s.modOp u o f).region j = s.region j := rfl
@[simp] theorem State.queue_modOp (s : State) (u o : Nat) (f : OpState → OpState) (p : Nat) : (s.modOp u o f).queue p = s.queue p := rfl
@[simp] theorem State.link_modOp (s : State) (u o : Nat) (f : OpState → OpState) (m : Nat) : (s.modOp u o f).link m = s.link m := rfl
@[simp] theorem State.devReg_modOp (s : State) (u o : Nat) (f : OpState → OpState) (m : Nat) : (s.modOp u o f).devReg m = s.devReg m := rfl
@[simp] theorem State.pool_modOp (s : State) (u o : Nat) (f : OpState → OpState) (y m : Nat) : (s.modOp u o f).pool? y m = s.pool? y m := rfl
@[simp] theorem State.dieReg_modOp (s : State) (u o : Nat) (f : OpState → OpState) (e m : Nat) : (s.modOp u o f).dieReg e m = s.dieReg e m := rfl
@[simp] theorem State.ctxReg_modOp (s : State) (u o : Nat) (f : OpState → OpState) (y m : Nat) : (s.modOp u o f).ctxReg y m = s.ctxReg y m := rfl

@[simp] theorem State.cluster_modFiring (s : State) (r : FireRef) (f : Firing → Firing) (e b : Nat) : (s.modFiring r f).cluster e b = s.cluster e b := rfl
@[simp] theorem State.die_modFiring (s : State) (r : FireRef) (f : Firing → Firing) (e : Nat) : (s.modFiring r f).die e = s.die e := rfl
@[simp] theorem State.ctx_modFiring (s : State) (r : FireRef) (f : Firing → Firing) (y : Nat) : (s.modFiring r f).ctx y = s.ctx y := rfl
@[simp] theorem State.region_modFiring (s : State) (r : FireRef) (f : Firing → Firing) (j : Nat) : (s.modFiring r f).region j = s.region j := rfl
@[simp] theorem State.queue_modFiring (s : State) (r : FireRef) (f : Firing → Firing) (p : Nat) : (s.modFiring r f).queue p = s.queue p := rfl
@[simp] theorem State.link_modFiring (s : State) (r : FireRef) (f : Firing → Firing) (m : Nat) : (s.modFiring r f).link m = s.link m := rfl
@[simp] theorem State.devReg_modFiring (s : State) (r : FireRef) (f : Firing → Firing) (m : Nat) : (s.modFiring r f).devReg m = s.devReg m := rfl
@[simp] theorem State.pool_modFiring (s : State) (r : FireRef) (f : Firing → Firing) (y m : Nat) : (s.modFiring r f).pool? y m = s.pool? y m := rfl
@[simp] theorem State.dieReg_modFiring (s : State) (r : FireRef) (f : Firing → Firing) (e m : Nat) : (s.modFiring r f).dieReg e m = s.dieReg e m := rfl
@[simp] theorem State.ctxReg_modFiring (s : State) (r : FireRef) (f : Firing → Firing) (y m : Nat) : (s.modFiring r f).ctxReg y m = s.ctxReg y m := rfl

@[simp] theorem State.cluster_modNode (s : State) (u : Nat) (f : Tiles → Tiles) (e b : Nat) : (s.modNode u f).cluster e b = s.cluster e b := rfl
@[simp] theorem State.die_modNode (s : State) (u : Nat) (f : Tiles → Tiles) (e : Nat) : (s.modNode u f).die e = s.die e := rfl
@[simp] theorem State.ctx_modNode (s : State) (u : Nat) (f : Tiles → Tiles) (y : Nat) : (s.modNode u f).ctx y = s.ctx y := rfl
@[simp] theorem State.region_modNode (s : State) (u : Nat) (f : Tiles → Tiles) (j : Nat) : (s.modNode u f).region j = s.region j := rfl
@[simp] theorem State.queue_modNode (s : State) (u : Nat) (f : Tiles → Tiles) (p : Nat) : (s.modNode u f).queue p = s.queue p := rfl
@[simp] theorem State.link_modNode (s : State) (u : Nat) (f : Tiles → Tiles) (m : Nat) : (s.modNode u f).link m = s.link m := rfl
@[simp] theorem State.devReg_modNode (s : State) (u : Nat) (f : Tiles → Tiles) (m : Nat) : (s.modNode u f).devReg m = s.devReg m := rfl
@[simp] theorem State.pool_modNode (s : State) (u : Nat) (f : Tiles → Tiles) (y m : Nat) : (s.modNode u f).pool? y m = s.pool? y m := rfl
@[simp] theorem State.dieReg_modNode (s : State) (u : Nat) (f : Tiles → Tiles) (e m : Nat) : (s.modNode u f).dieReg e m = s.dieReg e m := rfl
@[simp] theorem State.ctxReg_modNode (s : State) (u : Nat) (f : Tiles → Tiles) (y m : Nat) : (s.modNode u f).ctxReg y m = s.ctxReg y m := rfl

@[simp] theorem State.cluster_modPort (s : State) (d c k : Nat) (f : Port → Port) (e b : Nat) : (s.modPort d c k f).cluster e b = s.cluster e b := rfl
@[simp] theorem State.die_modPort (s : State) (d c k : Nat) (f : Port → Port) (e : Nat) : (s.modPort d c k f).die e = s.die e := rfl
@[simp] theorem State.ctx_modPort (s : State) (d c k : Nat) (f : Port → Port) (y : Nat) : (s.modPort d c k f).ctx y = s.ctx y := rfl
@[simp] theorem State.region_modPort (s : State) (d c k : Nat) (f : Port → Port) (j : Nat) : (s.modPort d c k f).region j = s.region j := rfl
@[simp] theorem State.queue_modPort (s : State) (d c k : Nat) (f : Port → Port) (p : Nat) : (s.modPort d c k f).queue p = s.queue p := rfl
@[simp] theorem State.link_modPort (s : State) (d c k : Nat) (f : Port → Port) (m : Nat) : (s.modPort d c k f).link m = s.link m := rfl
@[simp] theorem State.devReg_modPort (s : State) (d c k : Nat) (f : Port → Port) (m : Nat) : (s.modPort d c k f).devReg m = s.devReg m := rfl
@[simp] theorem State.pool_modPort (s : State) (d c k : Nat) (f : Port → Port) (y m : Nat) : (s.modPort d c k f).pool? y m = s.pool? y m := rfl
@[simp] theorem State.dieReg_modPort (s : State) (d c k : Nat) (f : Port → Port) (e m : Nat) : (s.modPort d c k f).dieReg e m = s.dieReg e m := rfl
@[simp] theorem State.ctxReg_modPort (s : State) (d c k : Nat) (f : Port → Port) (y m : Nat) : (s.modPort d c k f).ctxReg y m = s.ctxReg y m := rfl

@[simp] theorem State.unit_setDie (s : State) (d n : Nat) (v : Word) (w : Nat) : (s.setDie d n v).unit w = s.unit w := rfl
@[simp] theorem State.cluster_setDie (s : State) (d n : Nat) (v : Word) (e b : Nat) : (s.setDie d n v).cluster e b = s.cluster e b := rfl
@[simp] theorem State.ctx_setDie (s : State) (d n : Nat) (v : Word) (y : Nat) : (s.setDie d n v).ctx y = s.ctx y := rfl
@[simp] theorem State.region_setDie (s : State) (d n : Nat) (v : Word) (j : Nat) : (s.setDie d n v).region j = s.region j := rfl
@[simp] theorem State.queue_setDie (s : State) (d n : Nat) (v : Word) (p : Nat) : (s.setDie d n v).queue p = s.queue p := rfl
@[simp] theorem State.link_setDie (s : State) (d n : Nat) (v : Word) (m : Nat) : (s.setDie d n v).link m = s.link m := rfl
@[simp] theorem State.devReg_setDie (s : State) (d n : Nat) (v : Word) (m : Nat) : (s.setDie d n v).devReg m = s.devReg m := rfl
@[simp] theorem State.pool_setDie (s : State) (d n : Nat) (v : Word) (y m : Nat) : (s.setDie d n v).pool? y m = s.pool? y m := rfl
@[simp] theorem State.ctxReg_setDie (s : State) (d n : Nat) (v : Word) (y m : Nat) : (s.setDie d n v).ctxReg y m = s.ctxReg y m := rfl

@[simp] theorem State.unit_setCtx (s : State) (x n : Nat) (v : Word) (w : Nat) : (s.setCtx x n v).unit w = s.unit w := rfl
@[simp] theorem State.cluster_setCtx (s : State) (x n : Nat) (v : Word) (e b : Nat) : (s.setCtx x n v).cluster e b = s.cluster e b := rfl
@[simp] theorem State.die_setCtx (s : State) (x n : Nat) (v : Word) (e : Nat) : (s.setCtx x n v).die e = s.die e := rfl
@[simp] theorem State.region_setCtx (s : State) (x n : Nat) (v : Word) (j : Nat) : (s.setCtx x n v).region j = s.region j := rfl
@[simp] theorem State.queue_setCtx (s : State) (x n : Nat) (v : Word) (p : Nat) : (s.setCtx x n v).queue p = s.queue p := rfl
@[simp] theorem State.link_setCtx (s : State) (x n : Nat) (v : Word) (m : Nat) : (s.setCtx x n v).link m = s.link m := rfl
@[simp] theorem State.devReg_setCtx (s : State) (x n : Nat) (v : Word) (m : Nat) : (s.setCtx x n v).devReg m = s.devReg m := rfl
@[simp] theorem State.pool_setCtx (s : State) (x n : Nat) (v : Word) (y m : Nat) : (s.setCtx x n v).pool? y m = s.pool? y m := rfl
@[simp] theorem State.dieReg_setCtx (s : State) (x n : Nat) (v : Word) (e m : Nat) : (s.setCtx x n v).dieReg e m = s.dieReg e m := rfl

@[simp] theorem State.unit_meet (s : State) (k : Nat) (w : Nat) : (s.meet k).unit w = s.unit w := rfl
@[simp] theorem State.cluster_meet (s : State) (k : Nat) (e b : Nat) : (s.meet k).cluster e b = s.cluster e b := rfl
@[simp] theorem State.die_meet (s : State) (k : Nat) (e : Nat) : (s.meet k).die e = s.die e := rfl
@[simp] theorem State.ctx_meet (s : State) (k : Nat) (y : Nat) : (s.meet k).ctx y = s.ctx y := rfl
@[simp] theorem State.region_meet (s : State) (k : Nat) (j : Nat) : (s.meet k).region j = s.region j := rfl
@[simp] theorem State.queue_meet (s : State) (k : Nat) (p : Nat) : (s.meet k).queue p = s.queue p := rfl
@[simp] theorem State.link_meet (s : State) (k : Nat) (m : Nat) : (s.meet k).link m = s.link m := rfl
@[simp] theorem State.devReg_meet (s : State) (k : Nat) (m : Nat) : (s.meet k).devReg m = s.devReg m := rfl
@[simp] theorem State.pool_meet (s : State) (k : Nat) (y m : Nat) : (s.meet k).pool? y m = s.pool? y m := rfl
@[simp] theorem State.dieReg_meet (s : State) (k : Nat) (e m : Nat) : (s.meet k).dieReg e m = s.dieReg e m := rfl
@[simp] theorem State.ctxReg_meet (s : State) (k : Nat) (y m : Nat) : (s.meet k).ctxReg y m = s.ctxReg y m := rfl

/-! ### The object reached -/

@[simp] theorem State.unit_modUnit_same (s : State) (u : Nat) (f : UnitS → UnitS) : (s.modUnit u f).unit u = f (s.unit u) :=
  tabGet_tabMod_same ..
theorem State.unit_modUnit_other (s : State) {u w : Nat} (f : UnitS → UnitS) (h : w ≠ u) : (s.modUnit u f).unit w = s.unit w :=
  tabGet_tabMod_other _ _ h
@[simp] theorem State.ctx_modCtx_same (s : State) (x : Nat) (f : Ctx → Ctx) : (s.modCtx x f).ctx x = f (s.ctx x) :=
  tabGet_tabMod_same ..
theorem State.ctx_modCtx_other (s : State) {x y : Nat} (f : Ctx → Ctx) (h : y ≠ x) : (s.modCtx x f).ctx y = s.ctx y :=
  tabGet_tabMod_other _ _ h
@[simp] theorem State.region_modRegion_same (s : State) (k : Nat) (f : Region → Region) :
    (s.modRegion k f).region k = f (s.region k) := tabGet_tabMod_same ..
theorem State.region_modRegion_other (s : State) {k j : Nat} (f : Region → Region) (h : j ≠ k) :
    (s.modRegion k f).region j = s.region j := tabGet_tabMod_other _ _ h
@[simp] theorem State.die_modDie_same (s : State) (d : Nat) (f : Die → Die) : (s.modDie d f).die d = f (s.die d) :=
  tabGet_tabMod_same ..
theorem State.die_modDie_other (s : State) {d e : Nat} (f : Die → Die) (h : e ≠ d) : (s.modDie d f).die e = s.die e :=
  tabGet_tabMod_other _ _ h
@[simp] theorem State.cluster_modCluster_same (s : State) (d c : Nat) (f : Cluster → Cluster) :
    (s.modCluster d c f).cluster d c = f (s.cluster d c) := tabGet_tabMod_same ..
@[simp] theorem State.queue_modQueue_same (s : State) (q : Nat) (f : Queue → Queue) :
    (s.modQueue q f).queue q = f (s.queue q) := tabGet_tabMod_same ..
@[simp] theorem State.link_modLink_same (s : State) (n : Nat) (f : Link → Link) : (s.modLink n f).link n = f (s.link n) :=
  tabGet_tabMod_same ..
@[simp] theorem State.devReg_setDev_same (s : State) (n : Nat) (v : Word) : (s.setDev n v).devReg n = v := by
  simp [State.setDev, State.devReg]
theorem State.devReg_setDev_other (s : State) {n m : Nat} (v : Word) (h : m ≠ n) : (s.setDev n v).devReg m = s.devReg m := by
  simp [State.setDev, State.devReg, tabGet?_tabSet_other _ _ h]
@[simp] theorem State.dieReg_setDie_same (s : State) (d n : Nat) (v : Word) : (s.setDie d n v).dieReg d n = v := by
  simp [State.setDie, State.dieReg]
@[simp] theorem State.ctxReg_setCtx_same (s : State) (x n : Nat) (v : Word) : (s.setCtx x n v).ctxReg x n = v := by
  simp [State.setCtx, State.ctxReg]
@[simp] theorem State.pool_setPool_same (s : State) (x n : Nat) (p : Pool) : (s.setPool x n p).pool? x n = some p := by
  simp [State.setPool, State.pool?]
@[simp] theorem State.plane_modPlane_same (s : State) (u : Nat) (f : Plane → Plane) :
    ((s.modPlane u f).unit u).plane = f (s.unit u).plane := by simp [State.modPlane]
@[simp] theorem State.op_modOp_same (s : State) (u o : Nat) (f : OpState → OpState) :
    (s.modOp u o f).op? u o = some (f (tabGet (s.unit u).plane.ops o)) := by simp [State.modOp, State.op?]
@[simp] theorem State.port_modPort_same (s : State) (d c p : Nat) (f : Port → Port) :
    (s.modPort d c p f).port d c p = f (s.port d c p) := by simp [State.modPort, State.port]
@[simp] theorem State.node_modNode_same (s : State) (d c : Nat) (f : Tiles → Tiles) :
    (s.modNode (nodeKey d c) f).node d c = f (s.node d c) := by simp [State.modNode, State.node]

theorem find?_listMod {α : Type} (p q : α → Bool) (f : α → α) (l : List α) (hf : ∀ a, p (f a) = p a) (hq : ∀ a, q a = p a) :
    (listMod p f l).find? q = (l.find? q).map f := by
  have : q = p := funext hq
  subst this
  induction l with
  | nil => rfl
  | cons a r ih =>
    unfold listMod
    by_cases h : q a
    · simp [h, hf]
    · simp [h, ih]

/-- A change of a firing that keeps its identity. -/
theorem State.firing_modFiring_same (s : State) (r : FireRef) (f : Firing → Firing) (hf : ∀ g, (f g).id = g.id) :
    (s.modFiring r f).firing? r = (s.firing? r).map f := by
  unfold State.firing? State.modFiring
  rw [State.op_modOp_same]
  have hg : ∀ l : List Firing, (listMod (fun h => h.id == r.fr) f l).find? (fun g => g.id == r.fr)
      = (l.find? fun g => g.id == r.fr).map f :=
    fun l => find?_listMod _ _ f l (fun a => by simp [hf]) (fun _ => rfl)
  cases h : s.op? r.u r.op with
  | none =>
    have : tabGet (s.unit r.u).plane.ops r.op = default := by
      unfold State.op? at h; simp [tabGet, h]
    simp [this, show (default : OpState).firings = [] from rfl, listMod]
  | some o =>
    have : tabGet (s.unit r.u).plane.ops r.op = o := by
      unfold State.op? at h; simp [tabGet, h]
    simp [this, hg]

end Sys2Proof.Machine
end

