-- ==== Sys2Proof/Laws/Issue.lean ====
section
/-! SUPPORT. What the shared shapes of an issue can do, said once: which firing an issue belongs to, the four verdicts of the
gate, what runPlain and runSide answer, and what giving a result or releasing an effect leaves alone. -/

namespace Sys2Proof.Machine

/-- An issue is that of the slot in focus, of a started firing that has not fired it. -/
theorem issueOf_some {s : State} {h : Hdr} {i : Issue} (hi : issueOf s h = some i) :
    i.f = s.focus ∧ i.slot = s.focusSlot ∧ s.firing? s.focus = some i.fi ∧ i.fi.st = .running ∧ i.fi.started = true ∧
      s.focusSlot ∉ i.fi.fired := by
  unfold issueOf at hi
  split at hi
  · cases hi
  · rename_i g hg
    split at hi
    · cases hi
    · rename_i hc
      simp only [ne_eq, decide_not, Bool.or_eq_true, Bool.not_eq_eq_eq_not, Bool.not_true,
        decide_eq_false_iff_not, not_or, Decidable.not_not, Bool.not_eq_false, List.contains_eq_mem, decide_eq_true_eq] at hc
      split at hi
      · cases hi
      · split at hi
        · cases hi; exact ⟨rfl, rfl, hg, hc.1.1, hc.1.2, hc.2⟩
        · obtain ⟨t, -, rfl⟩ := Option.map_eq_some_iff.mp hi
          exact ⟨rfl, rfl, hg, hc.1.1, hc.1.2, hc.2⟩

/-- The verdicts of the gate (R56, R57, R158). -/
theorem gate_cases (s : State) (h : Hdr) (side carries ownN : Bool) :
    (gate s h side carries ownN = .idle ∧ issueOf s h = none) ∨
    ∃ i, issueOf s h = some i ∧
      ((gate s h side carries ownN = .poison i ∧ side = true ∧ (i.g.p = true ∨ i.ps = true)) ∨
       (gate s h side carries ownN = .null i ∧ (guardPasses h.g i.g = false ∨ i.ns = true)) ∨
       (gate s h side carries ownN = .run i ∧ guardPasses h.g i.g = true ∧ (ownN = true ∨ i.ns = false) ∧
         (side = false ∨ carries = true ∨ i.ps = false))) := by
  unfold gate
  split
  · exact .inl ⟨rfl, ‹_›⟩
  · rename_i i hi
    refine .inr ⟨i, hi, ?_⟩
    split
    · rename_i hc; simp at hc; exact .inl ⟨rfl, hc.1.1, .inl hc.2⟩
    · split
      · rename_i hc; simp at hc; exact .inr (.inl ⟨rfl, hc.imp id And.right⟩)
      · split
        · rename_i hc; simp at hc; exact .inl ⟨rfl, hc.1.1, .inr hc.2⟩
        · rename_i h1 h2 h3
          simp at h2 h3
          refine .inr (.inr ⟨rfl, h2.1, ?_, ?_⟩)
          · cases ownN <;> simp_all
          · cases side <;> cases carries <;> simp_all

/-- An instruction without a side effect stalls, is null, or runs: it never consumes poison. -/
theorem runPlain_cases {s t : State} {h : Hdr} {run : Issue → State} (ht : runPlain s h run = .next t) :
    t = s ∨ (∃ i, issueOf s h = some i ∧ t = giveNull s i h) ∨ (∃ i, gate s h false = .run i ∧ t = run i) := by
  unfold runPlain at ht
  rcases gate_cases s h false false false with ⟨hg, -⟩ | ⟨i, hi, ⟨hg, hs, -⟩ | ⟨hg, -⟩ | ⟨hg, -⟩⟩ <;> rw [hg] at ht
  · exact .inl (by simpa using ht.symm)
  · cases hs
  · exact .inr (.inl ⟨i, hi, by simpa using ht.symm⟩)
  · exact .inr (.inr ⟨i, hg, by simpa using ht.symm⟩)

/-- A side effect stalls, is null, raises POISON, or runs. -/
theorem runSide_cases {s t : State} {h : Hdr} {run : Issue → State} {carries : Bool} (ht : runSide s h run carries = .next t) :
    t = s ∨ (∃ i, issueOf s h = some i ∧ t = giveNull s i h) ∨ (∃ i, issueOf s h = some i ∧ t = takePoison s i) ∨
      (∃ i, gate s h true carries = .run i ∧ t = run i) := by
  unfold runSide at ht
  rcases gate_cases s h true carries false with ⟨hg, -⟩ | ⟨i, hi, ⟨hg, -⟩ | ⟨hg, -⟩ | ⟨hg, -⟩⟩ <;> rw [hg] at ht
  · exact .inl (by simpa using ht.symm)
  · exact .inr (.inr (.inl ⟨i, hi, by simpa using ht.symm⟩))
  · exact .inr (.inl ⟨i, hi, by simpa using ht.symm⟩)
  · exact .inr (.inr (.inr ⟨i, hg, by simpa using ht.symm⟩))

/-- A side effect that a mirror region does not perform: the same, and null there (R355). -/
theorem runSideDual_cases {s t : State} {h : Hdr} {run : Issue → State} {carries : Bool}
    (ht : runSideDual s h run carries = .next t) :
    t = s ∨ (∃ i, issueOf s h = some i ∧ t = giveNull s i h) ∨ (∃ i, issueOf s h = some i ∧ t = takePoison s i) ∨
      (∃ i, gate s h true carries = .run i ∧ inMirror s i.f.u = true ∧ t = giveNull s i h) ∨
      (∃ i, gate s h true carries = .run i ∧ inMirror s i.f.u = false ∧ t = run i) := by
  unfold runSideDual at ht
  rcases gate_cases s h true carries false with ⟨hg, -⟩ | ⟨i, hi, ⟨hg, -⟩ | ⟨hg, -⟩ | ⟨hg, -⟩⟩ <;> rw [hg] at ht
  · exact .inl (by simpa using ht.symm)
  · exact .inr (.inr (.inl ⟨i, hi, by simpa using ht.symm⟩))
  · exact .inr (.inl ⟨i, hi, by simpa using ht.symm⟩)
  · refine .inr (.inr (.inr ?_))
    by_cases hm : inMirror s i.f.u = true
    · exact .inl ⟨i, hg, hm, by simpa [hm] using ht.symm⟩
    · exact .inr ⟨i, hg, by simpa using hm, by simpa [hm] using ht.symm⟩

/-! ### What giving a result leaves alone -/

/-- A change of a firing changes the units and nothing else. -/
theorem modFiring_frame (s : State) (f : FireRef) (g : Firing → Firing) :
    s.modFiring f g = { s with units := (s.modFiring f g).units } := rfl

/-- A result changes the units and nothing else. -/
theorem give_frame (s : State) (i : Issue) (h : Hdr) (t : Token) : give s i h t = { s with units := (give s i h t).units } := rfl

theorem giveNull_frame (s : State) (i : Issue) (h : Hdr) : giveNull s i h = { s with units := (giveNull s i h).units } := rfl

theorem fired_frame (s : State) (i : Issue) : fired s i = { s with units := (fired s i).units } := rfl

/-- A released effect takes the next identity, whose obligation is outstanding, and changes the units besides. -/
theorem complete_frame (s : State) (i : Issue) (h : Hdr) (e : Eff) :
    complete s i h e =
      { s with nextId := s.nextId + 1, outstanding := s.outstanding ++ [s.nextId], units := (complete s i h e).units } := rfl

/-- Another unit keeps all it has. -/
theorem give_unit_other (s : State) (i : Issue) (h : Hdr) (t : Token) {u : Nat} (hu : u ≠ i.f.u) :
    (give s i h t).unit u = s.unit u := by
  simp [give, State.modFiring, State.modOp, State.modPlane, State.modUnit, State.unit, tabGet_tabMod_other _ _ hu]

end Sys2Proof.Machine
end

