-- ==== Sys2Proof/Laws/Mapped.lean ====
section
/-! SUPPORT. Reads and writes of virtual ranges that one TLB entry maps: they succeed, whatever the bytes, and a read gives
the bytes of memory. -/

namespace Sys2Proof.Machine

/-- Virtual addresses below 64 MiB of context 0 map to physical 64 MiB and up, through this entry of die 0. -/
def wideTlb : Tlb := { die := 0, ctx := 0, va := 0, size := 0x4000000, leaf := 0x40000E7, lvl := 2 }

/-- What the device's own reads and writes of virtual memory may change in a state. -/
structure Change where
  mem    : Mem
  dirty  : List Nat
  poison : List Nat
  fresh  : Nat
  mpos   : Nat
  hist   : List Past

/-- A state as another one after such a change. -/
def varied (s : State) (c : Change) : State :=
  { s with mem := c.mem, dirty := c.dirty, poison := c.poison, fresh := c.fresh, mpos := c.mpos, hist := c.hist }

/-- What makes the entry usable in a state and every variation of it that keeps the first page. -/
structure Mapped (s : State) : Prop where
  on   : (rootOf s 0).2 = true
  tlb  : s.tlbs = [wideTlb]
  leaf : ∀ c, (∀ a < 4096, memGet c.mem a = memGet s.mem a) → ∀ va k, va < 0x4000000 → k = 0 ∨ k = 1 →
    leafFault (varied s c) 0 0x40000E7 2 va k false false = none
  wins : ∀ n ∈ upFrom 0 16, wbit (winCtl s 0 n) 63 = false
  calm : wbit (s.devReg 0x309) 63 = false
  held : s.holds = []
  undo : (s.die 0).undo = []
  same : ∀ g, s.modDie 0 (fun v => { v with undo := v.undo.map g }) = s

/-- A variation of a state that keeps its first page. -/
def IsVaried (s t : State) : Prop := ∃ c, t = varied s c ∧ ∀ a < 4096, memGet c.mem a = memGet s.mem a

theorem IsVaried.refl (s : State) : IsVaried s s := ⟨⟨s.mem, s.dirty, s.poison, s.fresh, s.mpos, s.hist⟩, rfl, fun _ _ => rfl⟩

theorem homeDie_mapped {pa : Nat} (h : pa < 0x8000000) : homeDie pa = 0 := by
  unfold homeDie inDram
  rw [if_pos (by simp only [decide_eq_true_eq]; omega)]
  exact Nat.div_eq_of_lt (by omega)

/-- No view lies in the mapped range, nor the tail of one. -/
theorem winOf_mapped {s : State} (hm : Mapped s) (c : Change) {pa : Nat} (h : pa < 0x8000000) : winOf (varied s c) pa = none := by
  unfold winOf
  split
  · rfl
  · simp only [homeDie_mapped h, Option.map_eq_none_iff, List.find?_eq_none]
    intro n hn
    have : wbit (winCtl (varied s c) 0 n) 63 = false := hm.wins n hn
    simp [this]

theorem viewTail_mapped {s : State} (hm : Mapped s) (c : Change) {pa : Nat} (h : pa < 0x8000000) : viewTail (varied s c) pa = false := by
  simp only [viewTail, homeDie_mapped h, Bool.and_eq_false_imp, List.any_eq_false]
  intro _ n hn
  have : wbit (winCtl (varied s c) 0 n) 63 = false := hm.wins n hn
  simp [this]

theorem physFault_mapped {s : State} (hm : Mapped s) (c : Change) {pa : Nat} (h : pa < 0x8000000) (k : Nat) :
    physFault (varied s c) pa k = false := by
  simp [physFault, winOf_mapped hm c h, viewTail_mapped hm c h]

theorem xlateNow_mapped {s t : State} (hm : Mapped s) (ht : IsVaried s t) {va k : Nat} (hva : va < 0x4000000) (hk : k = 0 ∨ k = 1) :
    xlateNow t 0 0 va k false = (.ok (0x4000000 + va) 0x40000E7, t) := by
  obtain ⟨c, rfl, hm'⟩ := ht
  have hl := hm.leaf c hm' va k hva hk
  have hx : xlate (varied s c) 0 0 va k false = .ok (0x4000000 + va) 0x40000E7 := by
    have h1 : (rootOf (varied s c) 0).2 = true := hm.on
    have h2 : tlbFind (varied s c) 0 0 va = some wideTlb := by
      have : (varied s c).tlbs = [wideTlb] := hm.tlb
      simp [tlbFind, this, wideTlb, hva]
    have h3 : leafPA 0x40000E7 2 va = 0x4000000 + va := by
      have e1 : ptePA 0x40000E7 = 0x4000000 := by decide
      have e2 : leafSize 2 = 0x4000000 := by decide
      rw [leafPA, e1, e2, Nat.mod_eq_of_lt hva]
    have h4 : wideTlb.leaf.toNat = 0x40000E7 := by decide
    have h5 : wideTlb.lvl = 2 := rfl
    have h6 : pteBit 0x40000E7 5 = true := by decide
    unfold xlate
    rw [if_neg (by simp only [h1, ge_iff_le, Bool.not_true, Bool.or_false, decide_eq_true_eq]; omega), h2]
    simp only [h4, h5, hl, h6, Bool.not_true, Bool.and_false, Bool.false_eq_true, if_false, h3]
  simp [xlateNow, hx]

theorem IsVaried.put {s t : State} (h : IsVaried s t) {pa : Nat} (hp : 4096 ≤ pa) (bs : List Byte) : IsVaried s (physPut t pa bs) := by
  obtain ⟨c, rfl, hm⟩ := h
  refine ⟨⟨memPut c.mem pa bs, _, _, c.fresh, _, _⟩, rfl, fun a ha => ?_⟩
  rw [memGet_memPut, if_neg (by omega), hm a ha]

/-- The pieces of bytes lie where they begin and behind. -/
theorem lineCuts_bound : ∀ (fuel pa : Nat) (bs : List Byte) (p : Nat × List Byte), p ∈ lineCuts fuel pa bs →
    pa ≤ p.1 ∧ p.1 < pa + bs.length
  | 0, _, _, _, h => by simp [lineCuts] at h
  | fuel + 1, pa, bs, p, h => by
    unfold lineCuts at h
    split at h
    · simp at h
    · rename_i hb
      have hb : 0 < bs.length := List.length_pos_iff.mpr (by simpa using hb)
      simp only [List.mem_cons] at h
      rcases h with rfl | h
      · exact ⟨Nat.le_refl _, by simp only; omega⟩
      · have := lineCuts_bound fuel _ _ p h
        rw [List.length_drop] at this
        omega

/-- A write of the device in the mapped range, whose lines no undo entry holds. -/
theorem IsVaried.hostPut {s t : State} (hm : Mapped s) (h : IsVaried s t) {pa : Nat} (hp : 0x4000000 ≤ pa) (bs : List Byte)
    (hb : pa + bs.length ≤ 0x8000000) : IsVaried s (hostPut t pa bs) := by
  unfold Machine.hostPut
  have hl := lineCuts_bound (bs.length + 1) pa bs
  revert hl h
  generalize lineCuts (bs.length + 1) pa bs = l
  intro h hl
  induction l generalizing t with
  | nil => exact h
  | cons p l ih =>
    rw [List.foldl_cons]
    refine ih ?_ fun q hq => hl q (List.mem_cons_of_mem _ hq)
    have hq := hl p (List.mem_cons_self ..)
    have hd : homeDie p.1 = 0 := homeDie_mapped (by omega)
    obtain ⟨c, e, hc⟩ := h.put (pa := p.1) (by omega) p.2
    have hu : (t.die 0).undo = [] := by obtain ⟨c', rfl, -⟩ := h; exact hm.undo
    have hg : ∀ g, (varied s c).modDie 0 (fun v => { v with undo := v.undo.map g }) = varied s c := fun g => by
      have : (varied s c).modDie 0 (fun v => { v with undo := v.undo.map g }) =
        varied (s.modDie 0 fun v => { v with undo := v.undo.map g }) c := rfl
      rw [this, hm.same]
    simp only [hd, hu, List.filter_nil, List.foldl_nil, e, hg]
    exact ⟨c, rfl, hc⟩

/-- The pieces of a range lie in it. -/
theorem vCuts_bound {fuel va n : Nat} {p : Nat × Nat} (hp : p ∈ vCuts fuel va n) : va ≤ p.1 ∧ p.1 + p.2 ≤ va + n := by
  induction fuel generalizing va n with
  | zero => simp [vCuts] at hp
  | succ k ih =>
    simp only [vCuts] at hp
    split at hp
    · cases hp
    · simp only [List.mem_cons] at hp
      rcases hp with rfl | hp
      · exact ⟨Nat.le_refl _, by simp only; omega⟩
      · have := ih hp; omega

/-- One piece of a write. -/
def putPiece (acc : Except (Nat × Nat × Nat) (State × List Byte)) (p : Nat × Nat) : Except (Nat × Nat × Nat) (State × List Byte) :=
  match acc with
  | .error e => .error e
  | .ok (s, rest) =>
    match xlateNow s 0 0 p.1 kWrite false with
    | (.ok pa _, s) =>
      if physFault s pa kWrite then .error (fPERM, p.1, 0)
      else if lineHeld s (.mem pa) 0 then .error (0, p.1, 0)
      else .ok (hostPut s pa (rest.take p.2), rest.drop p.2)
    | (.fault c l, _) => .error (c, p.1, l)
    | (.miss, _) => .error (fXLATE, p.1, 0)

theorem writeBack_eq (s : State) (va : Nat) (bs : List Byte) : writeBack s 0 0 va bs =
    match (vCuts (bs.length / 64 + 2) va bs.length).foldl putPiece (.ok (s, bs)) with
    | .ok (s, _) => .ok s
    | .error e => .error e := rfl

theorem putPieces_mapped {s : State} (hm : Mapped s) : ∀ (l : List (Nat × Nat)), (∀ p ∈ l, p.1 + p.2 < 0x4000000) → ∀ (t : State) (rest : List Byte),
    IsVaried s t → ∃ u r, l.foldl putPiece (.ok (t, rest)) = .ok (u, r) ∧ IsVaried s u
  | [], _, t, rest, ht => ⟨t, rest, rfl, ht⟩
  | p :: l, hl, t, rest, ht => by
    have hx := xlateNow_mapped hm ht (va := p.1) (by have := hl p (List.mem_cons_self ..); omega) (Or.inr (rfl : kWrite = 1))
    have hq := hl p (List.mem_cons_self ..)
    have hf : physFault t (0x4000000 + p.1) kWrite = false := by
      obtain ⟨c, rfl, -⟩ := ht; exact physFault_mapped hm c (by omega) _
    have hh : lineHeld t (.mem (0x4000000 + p.1)) 0 = false := by
      have : t.holds = [] := by obtain ⟨c, rfl, -⟩ := ht; exact hm.held
      simp [lineHeld, this]
    have e : putPiece (.ok (t, rest)) p = .ok (hostPut t (0x4000000 + p.1) (rest.take p.2), rest.drop p.2) := by
      simp only [putPiece, hx, hf, hh, Bool.false_eq_true, if_false]
    rw [List.foldl_cons, e]
    exact putPieces_mapped hm l (fun q hq => hl q (List.mem_cons_of_mem _ hq)) _ _
      (ht.hostPut hm (by omega) _ (by rw [List.length_take]; omega))

/-- A write of any bytes in the mapped range succeeds. -/
theorem writeBack_mapped {s t : State} (hm : Mapped s) (ht : IsVaried s t) {va : Nat} (bs : List Byte) (hb : va + bs.length < 0x4000000) :
    ∃ u, writeBack t 0 0 va bs = .ok u ∧ IsVaried s u := by
  obtain ⟨u, r, hu, hv⟩ := putPieces_mapped hm (vCuts (bs.length / 64 + 2) va bs.length)
    (fun p hp => by have := vCuts_bound hp; omega) t bs ht
  exact ⟨u, by rw [writeBack_eq, hu], hv⟩

/-- A write whose first byte does not translate changes nothing and says why. -/
theorem writeBack_fault {s t : State} {d x va c l : Nat} {bs : List Byte} (hb : bs ≠ [])
    (hx : xlateNow s d x va kWrite false = (.fault c l, t)) : writeBack s d x va bs = .error (c, va, l) := by
  have hn : (bs.length == 0) = false := by simpa using hb
  have hs : ∀ (F : Except (Nat × Nat × Nat) (State × List Byte) → Nat × Nat → Except (Nat × Nat × Nat) (State × List Byte)),
      (∀ e p, F (.error e) p = .error e) → ∀ (l : List (Nat × Nat)) (e : Nat × Nat × Nat), l.foldl F (.error e) = .error e := by
    intro F hF l
    induction l with
    | nil => intro e; rfl
    | cons p l ih => intro e; rw [List.foldl_cons, hF, ih]
  unfold writeBack
  simp only [vCuts, hn, Bool.false_eq_true, if_false, List.foldl_cons, hx]
  rw [hs _ (fun _ _ => rfl)]

theorem upFrom_append (a n m : Nat) : upFrom a (n + m) = upFrom a n ++ upFrom (a + n) m := by
  induction n generalizing a with
  | zero => simp [upFrom]
  | succ n ih => rw [Nat.succ_add, upFrom, upFrom, ih, List.cons_append]; congr 3; omega

theorem length_upFrom (a n : Nat) : (upFrom a n).length = n := by
  induction n generalizing a with
  | zero => rfl
  | succ n ih => simp [upFrom, ih]

theorem mem_upFrom (a n k : Nat) : k ∈ upFrom a n ↔ a ≤ k ∧ k < a + n := by
  induction n generalizing a with
  | zero => simp [upFrom]
  | succ n ih => simp only [upFrom, List.mem_cons, ih]; omega

/-- A map that carries each step of a list to the bytes of its piece carries the list to those of the range. -/
theorem vCuts_fold {σ : Type} (P : σ → Nat → Nat → σ → Prop) (Q : Nat → Nat → Prop)
    (hq : ∀ va n k, Q va n → k ≤ n → Q va k ∧ Q (va + k) (n - k))
    (h0 : ∀ a va, P a va 0 a) (hc : ∀ a va k n b c, k ≤ n → P a va k b → P b (va + k) (n - k) c → P a va n c)
    (F : σ → Nat × Nat → σ) (hF : ∀ a va k, Q va k → 0 < k → P a va k (F a (va, k))) :
    ∀ fuel va n a, (n = 0 ∨ n + va % 64 ≤ 64 * fuel) → Q va n → P a va n ((vCuts fuel va n).foldl F a) := by
  intro fuel
  induction fuel with
  | zero =>
    intro va n a h _
    obtain rfl : n = 0 := by omega
    exact h0 _ _
  | succ f ih =>
    intro va n a h hQ
    simp only [vCuts]
    split
    · rename_i hn
      simp only [beq_iff_eq] at hn
      subst hn; exact h0 _ _
    · rename_i hn
      simp only [beq_iff_eq] at hn
      obtain ⟨k, hk⟩ : ∃ k, k = min n (64 - va % 64) := ⟨_, rfl⟩
      have hlt : va % 64 < 64 := Nat.mod_lt _ (by decide)
      have hk1 : 0 < k := by omega
      have hk2 : k ≤ n := by omega
      have hk3 : n - k = 0 ∨ (n - k) + (va + k) % 64 ≤ 64 * f := by omega
      rw [← hk, List.foldl_cons]
      exact hc _ _ _ _ _ _ hk2 (hF _ _ _ (hq _ _ _ hQ hk2).1 hk1) (ih _ _ _ hk3 (hq _ _ _ hQ hk2).2)

/-- A read in the mapped range gives the bytes of memory, and says whether one is poisoned; it changes nothing. -/
theorem readV_mapped {s t : State} (hm : Mapped s) (ht : IsVaried s t) {va n : Nat} (hb : va + n < 0x4000000) :
    readV t 0 0 false va n =
      (.ok ((upFrom (0x4000000 + va) n).map (memGet t.mem)) ((upFrom (0x4000000 + va) n).any (poisoned t)), t) := by
  have hphys : ∀ pa k, 0x4000000 ≤ pa → 0 < k → pa + k ≤ 0x8000000 →
      physRead t pa k = ((upFrom pa k).map (memGet t.mem), (upFrom pa k).any (poisoned t), t) := by
    obtain ⟨c, rfl, -⟩ := ht
    intro pa k h1 h2 h3
    have hw : ∀ q, 0x4000000 ≤ q → q < 0x8000000 → winOf (varied s c) q = none := fun q _ h => winOf_mapped hm c h
    have hf : ∀ q, 0x4000000 ≤ q → q < 0x8000000 → fillView (varied s c) q = varied s c := by
      intro q a b; simp [fillView, hw q a b]
    have he : einjHits (varied s c) pa k = false := by
      have : wbit ((varied s c).devReg 0x309) 63 = false := hm.calm
      simp [einjHits, this]
    have hb : ∀ q ∈ upFrom pa k, physByte (varied s c) q = memGet (varied s c).mem q := by
      intro q hq; rw [mem_upFrom] at hq; simp [physByte, hw q (by omega) (by omega)]
    have hc : ∀ q ∈ upFrom pa k, physBad (varied s c) q = poisoned (varied s c) q := by
      intro q hq; rw [mem_upFrom] at hq; simp [physBad, hw q (by omega) (by omega)]
    have ha : (upFrom pa k).any (physBad (varied s c)) = (upFrom pa k).any (poisoned (varied s c)) := by
      rw [Bool.eq_iff_iff, List.any_eq_true, List.any_eq_true]
      exact ⟨fun ⟨q, h1, h2⟩ => ⟨q, h1, by rwa [hc q h1] at h2⟩, fun ⟨q, h1, h2⟩ => ⟨q, h1, by rwa [hc q h1]⟩⟩
    simp only [physRead, hf pa h1 (by omega), hf (pa + (k - 1)) (by omega) (by omega), he, physBytes, List.map_congr_left hb, ha,
      Bool.false_or, Bool.false_eq_true, if_false]
  unfold readV
  refine (vCuts_fold (σ := VRead × State)
    (fun a va k b => ∀ bs bad, a = (.ok bs bad, t) → b = (.ok (bs ++ (upFrom (0x4000000 + va) k).map (memGet t.mem))
      (bad || (upFrom (0x4000000 + va) k).any (poisoned t)), t))
    (fun va k => va + k < 0x4000000) (fun va n k h1 h2 => ⟨by omega, by omega⟩)
    (fun a va bs bad h => by rw [h]; simp [upFrom])
    (fun a va k n b c hk h1 h2 bs bad h => ?_) _ (fun a va k hQ hk bs bad h => ?_) (n / 64 + 2) va n (.ok [] false, t) (.inr (by omega)) hb
    [] false rfl).trans (by simp)
  · rw [h2 _ _ (h1 _ _ h)]
    have e : upFrom (0x4000000 + va) n = upFrom (0x4000000 + va) k ++ upFrom (0x4000000 + (va + k)) (n - k) := by
      rw [show 0x4000000 + (va + k) = 0x4000000 + va + k by omega, ← upFrom_append]; congr 1; omega
    rw [e]; simp [Bool.or_assoc]
  · subst h
    have hx := xlateNow_mapped hm ht (va := va) (by omega) (Or.inl (rfl : kLoad = 0))
    have hp := hphys (0x4000000 + va) k (by omega) hk (by omega)
    have hf : physFault t (0x4000000 + va) kLoad = false := by
      obtain ⟨c, rfl, -⟩ := ht; exact physFault_mapped hm c (by omega) _
    simp only [Bool.false_eq_true, if_false, hx, hf, hp]

theorem length_bytesOf (n v : Nat) : (bytesOf n v).length = n := by
  induction n generalizing v with
  | zero => rfl
  | succ n ih => simp [bytesOf, ih]

theorem length_memBytes (m : Mem) (a n : Nat) : (memBytes m a n).length = n := by
  induction n generalizing a with
  | zero => rfl
  | succ n ih => simp [memBytes, ih]

theorem length_zeroBytes (n : Nat) : (zeroBytes n).length = n := List.length_replicate ..

theorem length_flatMap_le {α β : Type} (f : α → List β) (n : Nat) (l : List α) (h : ∀ a ∈ l, (f a).length ≤ n) :
    (l.flatMap f).length ≤ n * l.length := by
  induction l with
  | nil => simp
  | cons a l ih =>
    have h1 := h a (List.mem_cons_self ..)
    have h2 := ih fun b hb => h b (List.mem_cons_of_mem _ hb)
    rw [List.flatMap_cons, List.length_append, List.length_cons, Nat.mul_succ]; omega

theorem IsVaried.free {s t : State} (h : IsVaried s t) (n : Nat) : IsVaried s (freeBytes t n).2 := by
  obtain ⟨c, rfl, hm⟩ := h
  exact ⟨{ c with fresh := c.fresh + n }, rfl, hm⟩

theorem length_freeBytes (s : State) (n : Nat) : (freeBytes s n).1.length = n := by simp [freeBytes, length_upFrom]

theorem saveTarn_spec {s t : State} (h : IsVaried s t) (u : Nat) :
    (saveTarn t u).1.length = 98304 ∧ IsVaried s (saveTarn t u).2 := by
  refine ⟨?_, h.free _⟩
  simp only [saveTarn, List.length_append, length_memBytes, length_freeBytes, length_zeroBytes]

/-- A fold that appends at most n bytes at each step. -/
theorem fold_bytes {s : State} {α : Type} (n : Nat) (F : List Byte × State → α → List Byte × State)
    (hF : ∀ a x, IsVaried s a.2 → (F a x).1.length ≤ a.1.length + n ∧ IsVaried s (F a x).2) (l : List α) (a : List Byte × State)
    (ha : IsVaried s a.2) : (l.foldl F a).1.length ≤ a.1.length + n * l.length ∧ IsVaried s (l.foldl F a).2 := by
  induction l generalizing a with
  | nil => exact ⟨by simp, ha⟩
  | cons x l ih =>
    obtain ⟨h1, h2⟩ := hF a x ha
    obtain ⟨h3, h4⟩ := ih _ h2
    rw [List.foldl_cons]
    refine ⟨?_, h4⟩
    rw [List.length_cons, Nat.mul_succ]; omega

theorem saveSection_spec {s t : State} (h : IsVaried s t) (x i c : Nat) :
    (saveSection t x i c).1.length ≤ 3000000 ∧ IsVaried s (saveSection t x i c).2 := by
  obtain ⟨h1, h2⟩ := fold_bytes 98304 (fun (a : List Byte × State) k =>
    (a.1 ++ (saveTarn a.2 (unitKey (t.region (regKey x i)).die ((t.region (regKey x i)).cluster c) k)).1,
      (saveTarn a.2 (unitKey (t.region (regKey x i)).die ((t.region (regKey x i)).cluster c) k)).2))
    (fun a k ha => by
      obtain ⟨e1, e2⟩ := saveTarn_spec ha (unitKey (t.region (regKey x i)).die ((t.region (regKey x i)).cluster c) k)
      exact ⟨by simp only [List.length_append]; omega, e2⟩) (upFrom 0 16) ([], t) h
  rw [length_upFrom] at h1
  simp only [List.length_nil] at h1
  unfold saveSection
  simp only
  generalize List.foldl _ _ _ = q at h1 h2 ⊢
  split <;> split <;>
    (refine ⟨?_, ?_⟩
     · simp only [List.length_append, length_freeBytes, length_zeroBytes]; omega
     · repeat' (first | exact h2 | refine IsVaried.free ?_ _))

theorem saveRegs_length (s : State) (x : Nat) : (saveRegs s x).length ≤ 2048 := by
  have := length_flatMap_le (fun n => bytesOf 8 (if n == 0xFF then x else (readCtxReg s x n).toNat)) 8 (upFrom 0 256)
    (fun a _ => by rw [length_bytesOf])
  rw [length_upFrom] at this; simpa [saveRegs] using this

theorem saveFixed_spec {s t : State} (h : IsVaried s t) (x : Nat) :
    (saveFixed t x).1.length ≤ 2000000 ∧ IsVaried s (saveFixed t x).2 := by
  refine ⟨?_, by unfold saveFixed; repeat' (first | exact h | refine IsVaried.free ?_ _)⟩
  have h1 : ∀ s, (saveRegs s x).length ≤ 2048 := fun s => saveRegs_length s x
  have h2 : ∀ s, ((upFrom 0 64).flatMap (saveRegionRow s x)).length ≤ 64 * 64 := fun s => by
    have := length_flatMap_le (saveRegionRow s x) 64 (upFrom 0 64) (fun a _ => by
      unfold saveRegionRow; split <;> simp only [List.length_append, length_bytesOf, length_zeroBytes, Nat.reduceAdd, Nat.le_refl])
    rwa [length_upFrom] at this
  have h3 : ∀ s, ((upFrom 0 512).flatMap (savePoolRow s x)).length ≤ 64 * 512 := fun s => by
    have := length_flatMap_le (savePoolRow s x) 64 (upFrom 0 512) (fun a _ => by
      unfold savePoolRow; split <;> simp only [List.length_append, length_bytesOf, length_zeroBytes, Nat.reduceAdd, Nat.le_refl])
    rwa [length_upFrom] at this
  have h4 : ∀ s, ((upFrom 0 512).flatMap (saveMask s x)).length ≤ 512 * 512 := fun s => by
    have := length_flatMap_le (saveMask s x) 512 (upFrom 0 512) (fun a _ => by
      unfold saveMask; split <;> simp only [List.length_map, length_upFrom, length_zeroBytes, Nat.le_refl])
    rwa [length_upFrom] at this
  simp only [saveFixed, List.length_append, length_freeBytes, length_zeroBytes]
  refine Nat.le_trans (Nat.add_le_add (Nat.add_le_add (Nat.add_le_add (Nat.add_le_add (Nat.add_le_add (Nat.add_le_add (Nat.add_le_add
    (Nat.add_le_add (Nat.add_le_add (h1 _) (Nat.le_refl _)) (h2 _)) (h3 _)) (Nat.le_refl _)) (Nat.le_refl _)) (h4 _)) (Nat.le_refl _))
    (Nat.le_refl _)) (Nat.le_refl _)) (by decide)

/-- The save area of a context of one region of one cluster. -/
theorem saveArea_spec {s : State} (x : Nat) (hn : (s.ctx x).nreg = 1)
    (hr : (s.region (regKey x 0)).width * (s.region (regKey x 0)).height = 1) :
    (saveArea s x).1.length ≤ 10000000 ∧ IsVaried s (saveArea s x).2 := by
  obtain ⟨f1, f2⟩ := saveFixed_spec (IsVaried.refl s) x
  have hc : ∀ {u}, IsVaried s u → (u.ctx x).nreg = 1 := by rintro u ⟨c, rfl, -⟩; exact hn
  have hg : ∀ {u}, IsVaried s u → (u.region (regKey x 0)).width * (u.region (regKey x 0)).height = 1 := by
    rintro u ⟨c, rfl, -⟩; exact hr
  obtain ⟨g1, g2⟩ := saveSection_spec f2 x 0 0
  unfold saveArea
  simp only [hc f2, upFrom, List.foldl_cons, List.foldl_nil, hg f2, List.nil_append]
  refine ⟨?_, g2⟩
  simp only [List.length_append, saveHeader, length_bytesOf, length_zeroBytes]
  omega

end Sys2Proof.Machine
end

