-- ==== Sys2Proof/Laws/Memory.lean ====
section
/-! SUPPORT. The operations that store bytes keep both memories in their one canonical form, and say what else they leave
alone. -/

namespace Sys2Proof.Machine

open Safety

/-- Both memories are canonical exactly when each is. -/
theorem memoriesOk_iff (s : State) : memoriesOk s = true ↔ s.mem.wf = true ∧ s.hostMem.wf = true := by
  simp [memoriesOk]

/-- What leaves both memories alone keeps them canonical. -/
theorem memoriesOk_of_eq {s t : State} (hm : t.mem = s.mem) (hh : t.hostMem = s.hostMem) (h : memoriesOk s = true) :
    memoriesOk t = true := by
  simpa [memoriesOk, hm, hh] using h

theorem reset_memoriesOk : memoriesOk State.reset = true := by decide

@[simp] theorem physPut_mem (s : State) (pa : Nat) (bs : List Byte) : (physPut s pa bs).mem = memPut s.mem pa bs := rfl
@[simp] theorem physPut_hostMem (s : State) (pa : Nat) (bs : List Byte) : (physPut s pa bs).hostMem = s.hostMem := rfl

theorem physPut_memoriesOk (s : State) (pa : Nat) (bs : List Byte) (h : memoriesOk s = true) :
    memoriesOk (physPut s pa bs) = true := by
  rw [memoriesOk_iff] at h ⊢
  exact ⟨Mem.wf_memPut _ _ _ h.1, h.2⟩

/-- An invariant of every step of a fold is one of the fold. -/
theorem foldl_keeps {α β : Type} (P : α → Prop) (f : α → β → α) (hf : ∀ a b, P a → P (f a b)) (l : List β) (a : α) (ha : P a) :
    P (l.foldl f a) := by
  induction l generalizing a with
  | nil => exact ha
  | cons b l ih => exact ih _ (hf _ _ ha)

@[simp] theorem captureUndo_hostMem (s : State) (pa iv cls : Nat) : (captureUndo s pa iv cls).hostMem = s.hostMem := by
  unfold captureUndo; split <;> rfl

/-- The entry that a store leaves in the log keeps the memories canonical. -/
theorem captureUndo_memoriesOk (s : State) (pa iv cls : Nat) (h : memoriesOk s = true) :
    memoriesOk (captureUndo s pa iv cls) = true := by
  unfold captureUndo; split
  · rw [memoriesOk_iff] at h ⊢
    exact ⟨Mem.wf_memPut _ _ _ h.1, h.2⟩
  · exact h

/-- A store at its home bank: logged, held or performed, the memories stay canonical. -/
theorem physStore_memoriesOk (s : State) (pa : Nat) (bs : List Byte) (own : Owner) (cls : Nat) (h : memoriesOk s = true) :
    memoriesOk (physStore s pa bs own cls) = true := by
  refine foldl_keeps (fun s => memoriesOk s = true) _ (fun s c hs => ?_) _ _ h
  split
  · exact hs
  · exact physPut_memoriesOk _ _ _ (captureUndo_memoriesOk _ _ _ _ hs)

/-- A write that is never undone keeps the memories canonical. -/
theorem hostPut_memoriesOk (s : State) (pa : Nat) (bs : List Byte) (h : memoriesOk s = true) :
    memoriesOk (hostPut s pa bs) = true := by
  refine foldl_keeps (fun s => memoriesOk s = true) _ (fun s c hs => ?_) _ _ h
  have hp := (memoriesOk_iff _).mp (physPut_memoriesOk s c.1 c.2 hs)
  exact (memoriesOk_iff _).mpr ⟨foldl_keeps (fun m => Mem.wf m = true) _ (fun m e hm => Mem.wf_memPut _ _ _ hm) _ _ hp.1, hp.2⟩

/-- Filling a line of a view changes no byte. -/
@[simp] theorem fillView_mem (s : State) (pa : Nat) : (fillView s pa).mem = s.mem := by
  unfold fillView
  split
  · rfl
  · dsimp only
    split
    · rfl
    · dsimp only; split <;> rfl
@[simp] theorem fillView_hostMem (s : State) (pa : Nat) : (fillView s pa).hostMem = s.hostMem := by
  unfold fillView
  split
  · rfl
  · dsimp only
    split
    · rfl
    · dsimp only; split <;> rfl

/-- A read at the home bank changes no byte: it may fill a line of a view and deliver an injection. -/
theorem physRead_mem (s : State) (pa n : Nat) : (physRead s pa n).2.2.mem = s.mem ∧ (physRead s pa n).2.2.hostMem = s.hostMem := by
  unfold physRead
  dsimp only
  split <;> simp [disarm, State.setDev]

theorem physRead_memoriesOk (s : State) (pa n : Nat) (h : memoriesOk s = true) : memoriesOk (physRead s pa n).2.2 = true :=
  memoriesOk_of_eq (physRead_mem s pa n).1 (physRead_mem s pa n).2 h

/-- A read takes the newest place, or one before a store of the last 4,096 cycles, or of the time since its stream began,
that nothing it depends on follows (R252, R254). -/
theorem mem_readPlaces {s : State} {floor since p : Nat} (h : p ∈ readPlaces s floor since) :
    p = s.mpos ∨ ∃ r ∈ s.hist, floor < r.pos ∧ (s.clk < r.at_ + 4096 ∨ since ≤ r.at_) ∧ p = r.pos - 1 := by
  simp only [readPlaces, List.mem_cons, List.mem_map, List.mem_filter, Bool.and_eq_true, Bool.or_eq_true, decide_eq_true_eq] at h
  rcases h with h | ⟨r, ⟨hr, hf, hc⟩, rfl⟩
  · exact .inl h
  · exact .inr ⟨r, hr, hf, hc, rfl⟩

/-- Choosing the place of a read costs at most one free value. -/
theorem readPlace_state (s : State) (floor since : Nat) :
    (readPlace s floor since).2 = s ∨ (readPlace s floor since).2 = { s with fresh := s.fresh + 1 } := by
  unfold readPlace
  split
  · exact .inl rfl
  · exact .inr rfl

/-- A read with a place in M changes no byte of either memory. -/
theorem loadAt_mem (s : State) (floor since pa n : Nat) :
    (loadAt s floor since pa n).2.2.2.mem = s.mem ∧ (loadAt s floor since pa n).2.2.2.hostMem = s.hostMem := by
  obtain ⟨hm, hh⟩ := physRead_mem s pa n
  unfold loadAt
  dsimp only
  split
  · exact ⟨hm, hh⟩
  · rcases readPlace_state (physRead s pa n).2.2 floor since with h | h <;> simp [h, State.newKey, hm, hh]

theorem loadAt_memoriesOk (s : State) (floor since pa n : Nat) (h : memoriesOk s = true) :
    memoriesOk (loadAt s floor since pa n).2.2.2 = true :=
  memoriesOk_of_eq (loadAt_mem s floor since pa n).1 (loadAt_mem s floor since pa n).2 h

end Sys2Proof.Machine
end

