-- ==== Sys2Proof/Laws/PerInstr.lean ====
section
/-! SUPPORT. The family WordParts, one lemma for each constructor: an instruction word is its opcode, its header and the bits of
its form, and the opcode map reads it back from them (R58, R65); a step of the device is no word. -/

namespace Sys2Proof.Laws.WordParts

/-- What an instruction's opcode, header and low bits say of it. -/
def Statement (i : Instr) : Prop :=
  ∀ (op : Nat) (h : Hdr) (lo : BitVec 28), wordParts i = some (op, h, lo) →
    op < 256 ∧ ofOpcode op h lo = some i ∧ ∀ (g : Hdr) (b : BitVec 28), (ofOpcode op g b).isSome = true

/-- A word's parts are read back. -/
theorem of_parts {i : Instr} {op : Nat} {h : Hdr} {lo : BitVec 28} (hi : wordParts i = some (op, h, lo)) (ho : op < 256)
    (hr : ofOpcode op h lo = some i) (hs : ∀ (g : Hdr) (b : BitVec 28), (ofOpcode op g b).isSome = true) : Statement i := by
  intro op' h' lo' h2
  rw [hi] at h2
  cases h2
  exact ⟨ho, hr, hs⟩

/-- A step of the device has no parts. -/
theorem of_none {i : Instr} (hi : wordParts i = none) : Statement i := by
  intro op h lo h2
  rw [hi] at h2
  cases h2

theorem mov (h : Hdr) (f : FormA) : Statement (.mov h f) :=
  of_parts rfl (by decide) (congrArg (fun g => some (Instr.mov h g)) (formA_round f)) (fun _ _ => rfl)
theorem movi (h : Hdr) (f : FormA) : Statement (.movi h f) :=
  of_parts rfl (by decide) (congrArg (fun g => some (Instr.movi h g)) (formA_round f)) (fun _ _ => rfl)
theorem movk (h : Hdr) (f : FormA) : Statement (.movk h f) :=
  of_parts rfl (by decide) (congrArg (fun g => some (Instr.movk h g)) (formA_round f)) (fun _ _ => rfl)
theorem inTok (h : Hdr) (f : FormC) : Statement (.inTok h f) :=
  of_parts rfl (by decide) (congrArg (fun g => some (Instr.inTok h g)) (formC_round f)) (fun _ _ => rfl)
theorem outTok (h : Hdr) (f : FormC) : Statement (.outTok h f) :=
  of_parts rfl (by decide) (congrArg (fun g => some (Instr.outTok h g)) (formC_round f)) (fun _ _ => rfl)
theorem rd (h : Hdr) (f : FormS) : Statement (.rd h f) :=
  of_parts rfl (by decide) (congrArg (fun g => some (Instr.rd h g)) (formS_round f)) (fun _ _ => rfl)
theorem wr (h : Hdr) (f : FormS) : Statement (.wr h f) :=
  of_parts rfl (by decide) (congrArg (fun g => some (Instr.wr h g)) (formS_round f)) (fun _ _ => rfl)
theorem sel (h : Hdr) (f : FormA) : Statement (.sel h f) :=
  of_parts rfl (by decide) (congrArg (fun g => some (Instr.sel h g)) (formA_round f)) (fun _ _ => rfl)
theorem br (h : Hdr) (f : FormA) : Statement (.br h f) :=
  of_parts rfl (by decide) (congrArg (fun g => some (Instr.br h g)) (formA_round f)) (fun _ _ => rfl)
theorem brc (h : Hdr) (f : FormA) : Statement (.brc h f) :=
  of_parts rfl (by decide) (congrArg (fun g => some (Instr.brc h g)) (formA_round f)) (fun _ _ => rfl)
theorem null (h : Hdr) (f : FormA) : Statement (.null h f) :=
  of_parts rfl (by decide) (congrArg (fun g => some (Instr.null h g)) (formA_round f)) (fun _ _ => rfl)
theorem tagnew (h : Hdr) (f : FormC) : Statement (.tagnew h f) :=
  of_parts rfl (by decide) (congrArg (fun g => some (Instr.tagnew h g)) (formC_round f)) (fun _ _ => rfl)
theorem tagfree (h : Hdr) (f : FormC) : Statement (.tagfree h f) :=
  of_parts rfl (by decide) (congrArg (fun g => some (Instr.tagfree h g)) (formC_round f)) (fun _ _ => rfl)
theorem tagset (h : Hdr) (f : FormC) : Statement (.tagset h f) :=
  of_parts rfl (by decide) (congrArg (fun g => some (Instr.tagset h g)) (formC_round f)) (fun _ _ => rfl)
theorem gettag (h : Hdr) (f : FormC) : Statement (.gettag h f) :=
  of_parts rfl (by decide) (congrArg (fun g => some (Instr.gettag h g)) (formC_round f)) (fun _ _ => rfl)
theorem count (h : Hdr) (f : FormA) : Statement (.count h f) :=
  of_parts rfl (by decide) (congrArg (fun g => some (Instr.count h g)) (formA_round f)) (fun _ _ => rfl)
theorem rix (h : Hdr) (f : FormA) : Statement (.rix h f) :=
  of_parts rfl (by decide) (congrArg (fun g => some (Instr.rix h g)) (formA_round f)) (fun _ _ => rfl)
theorem add (h : Hdr) (f : FormA) : Statement (.add h f) :=
  of_parts rfl (by decide) (congrArg (fun g => some (Instr.add h g)) (formA_round f)) (fun _ _ => rfl)
theorem sub (h : Hdr) (f : FormA) : Statement (.sub h f) :=
  of_parts rfl (by decide) (congrArg (fun g => some (Instr.sub h g)) (formA_round f)) (fun _ _ => rfl)
theorem mul (h : Hdr) (f : FormA) : Statement (.mul h f) :=
  of_parts rfl (by decide) (congrArg (fun g => some (Instr.mul h g)) (formA_round f)) (fun _ _ => rfl)
theorem mulh (h : Hdr) (f : FormA) : Statement (.mulh h f) :=
  of_parts rfl (by decide) (congrArg (fun g => some (Instr.mulh h g)) (formA_round f)) (fun _ _ => rfl)
theorem div (h : Hdr) (f : FormA) : Statement (.div h f) :=
  of_parts rfl (by decide) (congrArg (fun g => some (Instr.div h g)) (formA_round f)) (fun _ _ => rfl)
theorem rem (h : Hdr) (f : FormA) : Statement (.rem h f) :=
  of_parts rfl (by decide) (congrArg (fun g => some (Instr.rem h g)) (formA_round f)) (fun _ _ => rfl)
theorem min (h : Hdr) (f : FormA) : Statement (.min h f) :=
  of_parts rfl (by decide) (congrArg (fun g => some (Instr.min h g)) (formA_round f)) (fun _ _ => rfl)
theorem max (h : Hdr) (f : FormA) : Statement (.max h f) :=
  of_parts rfl (by decide) (congrArg (fun g => some (Instr.max h g)) (formA_round f)) (fun _ _ => rfl)
theorem abs (h : Hdr) (f : FormA) : Statement (.abs h f) :=
  of_parts rfl (by decide) (congrArg (fun g => some (Instr.abs h g)) (formA_round f)) (fun _ _ => rfl)
theorem neg (h : Hdr) (f : FormA) : Statement (.neg h f) :=
  of_parts rfl (by decide) (congrArg (fun g => some (Instr.neg h g)) (formA_round f)) (fun _ _ => rfl)
theorem adds (h : Hdr) (f : FormA) : Statement (.adds h f) :=
  of_parts rfl (by decide) (congrArg (fun g => some (Instr.adds h g)) (formA_round f)) (fun _ _ => rfl)
theorem subs (h : Hdr) (f : FormA) : Statement (.subs h f) :=
  of_parts rfl (by decide) (congrArg (fun g => some (Instr.subs h g)) (formA_round f)) (fun _ _ => rfl)
theorem and (h : Hdr) (f : FormA) : Statement (.and h f) :=
  of_parts rfl (by decide) (congrArg (fun g => some (Instr.and h g)) (formA_round f)) (fun _ _ => rfl)
theorem or (h : Hdr) (f : FormA) : Statement (.or h f) :=
  of_parts rfl (by decide) (congrArg (fun g => some (Instr.or h g)) (formA_round f)) (fun _ _ => rfl)
theorem xor (h : Hdr) (f : FormA) : Statement (.xor h f) :=
  of_parts rfl (by decide) (congrArg (fun g => some (Instr.xor h g)) (formA_round f)) (fun _ _ => rfl)
theorem andn (h : Hdr) (f : FormA) : Statement (.andn h f) :=
  of_parts rfl (by decide) (congrArg (fun g => some (Instr.andn h g)) (formA_round f)) (fun _ _ => rfl)
theorem shl (h : Hdr) (f : FormA) : Statement (.shl h f) :=
  of_parts rfl (by decide) (congrArg (fun g => some (Instr.shl h g)) (formA_round f)) (fun _ _ => rfl)
theorem shr (h : Hdr) (f : FormA) : Statement (.shr h f) :=
  of_parts rfl (by decide) (congrArg (fun g => some (Instr.shr h g)) (formA_round f)) (fun _ _ => rfl)
theorem rot (h : Hdr) (f : FormA) : Statement (.rot h f) :=
  of_parts rfl (by decide) (congrArg (fun g => some (Instr.rot h g)) (formA_round f)) (fun _ _ => rfl)
theorem clz (h : Hdr) (f : FormA) : Statement (.clz h f) :=
  of_parts rfl (by decide) (congrArg (fun g => some (Instr.clz h g)) (formA_round f)) (fun _ _ => rfl)
theorem popc (h : Hdr) (f : FormA) : Statement (.popc h f) :=
  of_parts rfl (by decide) (congrArg (fun g => some (Instr.popc h g)) (formA_round f)) (fun _ _ => rfl)
theorem bfx (h : Hdr) (f : FormA) : Statement (.bfx h f) :=
  of_parts rfl (by decide) (congrArg (fun g => some (Instr.bfx h g)) (formA_round f)) (fun _ _ => rfl)
theorem bfi (h : Hdr) (f : FormA) : Statement (.bfi h f) :=
  of_parts rfl (by decide) (congrArg (fun g => some (Instr.bfi h g)) (formA_round f)) (fun _ _ => rfl)
theorem cmp (h : Hdr) (f : FormA) : Statement (.cmp h f) :=
  of_parts rfl (by decide) (congrArg (fun g => some (Instr.cmp h g)) (formA_round f)) (fun _ _ => rfl)
theorem cvti (h : Hdr) (f : FormA) : Statement (.cvti h f) :=
  of_parts rfl (by decide) (congrArg (fun g => some (Instr.cvti h g)) (formA_round f)) (fun _ _ => rfl)
theorem mad (h : Hdr) (f : FormA) : Statement (.mad h f) :=
  of_parts rfl (by decide) (congrArg (fun g => some (Instr.mad h g)) (formA_round f)) (fun _ _ => rfl)
theorem fadd (h : Hdr) (f : FormA) : Statement (.fadd h f) :=
  of_parts rfl (by decide) (congrArg (fun g => some (Instr.fadd h g)) (formA_round f)) (fun _ _ => rfl)
theorem fsub (h : Hdr) (f : FormA) : Statement (.fsub h f) :=
  of_parts rfl (by decide) (congrArg (fun g => some (Instr.fsub h g)) (formA_round f)) (fun _ _ => rfl)
theorem fmul (h : Hdr) (f : FormA) : Statement (.fmul h f) :=
  of_parts rfl (by decide) (congrArg (fun g => some (Instr.fmul h g)) (formA_round f)) (fun _ _ => rfl)
theorem fma (h : Hdr) (f : FormA) : Statement (.fma h f) :=
  of_parts rfl (by decide) (congrArg (fun g => some (Instr.fma h g)) (formA_round f)) (fun _ _ => rfl)
theorem fmin (h : Hdr) (f : FormA) : Statement (.fmin h f) :=
  of_parts rfl (by decide) (congrArg (fun g => some (Instr.fmin h g)) (formA_round f)) (fun _ _ => rfl)
theorem fmax (h : Hdr) (f : FormA) : Statement (.fmax h f) :=
  of_parts rfl (by decide) (congrArg (fun g => some (Instr.fmax h g)) (formA_round f)) (fun _ _ => rfl)
theorem fabs (h : Hdr) (f : FormA) : Statement (.fabs h f) :=
  of_parts rfl (by decide) (congrArg (fun g => some (Instr.fabs h g)) (formA_round f)) (fun _ _ => rfl)
theorem fneg (h : Hdr) (f : FormA) : Statement (.fneg h f) :=
  of_parts rfl (by decide) (congrArg (fun g => some (Instr.fneg h g)) (formA_round f)) (fun _ _ => rfl)
theorem fcmp (h : Hdr) (f : FormA) : Statement (.fcmp h f) :=
  of_parts rfl (by decide) (congrArg (fun g => some (Instr.fcmp h g)) (formA_round f)) (fun _ _ => rfl)
theorem fclass (h : Hdr) (f : FormA) : Statement (.fclass h f) :=
  of_parts rfl (by decide) (congrArg (fun g => some (Instr.fclass h g)) (formA_round f)) (fun _ _ => rfl)
theorem fdiv (h : Hdr) (f : FormA) : Statement (.fdiv h f) :=
  of_parts rfl (by decide) (congrArg (fun g => some (Instr.fdiv h g)) (formA_round f)) (fun _ _ => rfl)
theorem sqrt (h : Hdr) (f : FormA) : Statement (.sqrt h f) :=
  of_parts rfl (by decide) (congrArg (fun g => some (Instr.sqrt h g)) (formA_round f)) (fun _ _ => rfl)
theorem rcp (h : Hdr) (f : FormA) : Statement (.rcp h f) :=
  of_parts rfl (by decide) (congrArg (fun g => some (Instr.rcp h g)) (formA_round f)) (fun _ _ => rfl)
theorem rsq (h : Hdr) (f : FormA) : Statement (.rsq h f) :=
  of_parts rfl (by decide) (congrArg (fun g => some (Instr.rsq h g)) (formA_round f)) (fun _ _ => rfl)
theorem ex2 (h : Hdr) (f : FormA) : Statement (.ex2 h f) :=
  of_parts rfl (by decide) (congrArg (fun g => some (Instr.ex2 h g)) (formA_round f)) (fun _ _ => rfl)
theorem lg2 (h : Hdr) (f : FormA) : Statement (.lg2 h f) :=
  of_parts rfl (by decide) (congrArg (fun g => some (Instr.lg2 h g)) (formA_round f)) (fun _ _ => rfl)
theorem cvtf (h : Hdr) (f : FormA) : Statement (.cvtf h f) :=
  of_parts rfl (by decide) (congrArg (fun g => some (Instr.cvtf h g)) (formA_round f)) (fun _ _ => rfl)
theorem cvtfi (h : Hdr) (f : FormA) : Statement (.cvtfi h f) :=
  of_parts rfl (by decide) (congrArg (fun g => some (Instr.cvtfi h g)) (formA_round f)) (fun _ _ => rfl)
theorem cvtif (h : Hdr) (f : FormA) : Statement (.cvtif h f) :=
  of_parts rfl (by decide) (congrArg (fun g => some (Instr.cvtif h g)) (formA_round f)) (fun _ _ => rfl)
theorem fscale (h : Hdr) (f : FormA) : Statement (.fscale h f) :=
  of_parts rfl (by decide) (congrArg (fun g => some (Instr.fscale h g)) (formA_round f)) (fun _ _ => rfl)
theorem ld (h : Hdr) (f : FormM) : Statement (.ld h f) :=
  of_parts rfl (by decide) (congrArg (fun g => some (Instr.ld h g)) (formM_round f)) (fun _ _ => rfl)
theorem st (h : Hdr) (f : FormM) : Statement (.st h f) :=
  of_parts rfl (by decide) (congrArg (fun g => some (Instr.st h g)) (formM_round f)) (fun _ _ => rfl)
theorem ldl (h : Hdr) (f : FormM) : Statement (.ldl h f) :=
  of_parts rfl (by decide) (congrArg (fun g => some (Instr.ldl h g)) (formM_round f)) (fun _ _ => rfl)
theorem amo (h : Hdr) (f : FormM) : Statement (.amo h f) :=
  of_parts rfl (by decide) (congrArg (fun g => some (Instr.amo h g)) (formM_round f)) (fun _ _ => rfl)
theorem cas (h : Hdr) (f : FormM) : Statement (.cas h f) :=
  of_parts rfl (by decide) (congrArg (fun g => some (Instr.cas h g)) (formM_round f)) (fun _ _ => rfl)
theorem oamo (h : Hdr) (f : FormM) : Statement (.oamo h f) :=
  of_parts rfl (by decide) (congrArg (fun g => some (Instr.oamo h g)) (formM_round f)) (fun _ _ => rfl)
theorem pref (h : Hdr) (f : FormM) : Statement (.pref h f) :=
  of_parts rfl (by decide) (congrArg (fun g => some (Instr.pref h g)) (formM_round f)) (fun _ _ => rfl)
theorem cwb (h : Hdr) (f : FormM) : Statement (.cwb h f) :=
  of_parts rfl (by decide) (congrArg (fun g => some (Instr.cwb h g)) (formM_round f)) (fun _ _ => rfl)
theorem cinv (h : Hdr) (f : FormM) : Statement (.cinv h f) :=
  of_parts rfl (by decide) (congrArg (fun g => some (Instr.cinv h g)) (formM_round f)) (fun _ _ => rfl)
theorem ojoin (h : Hdr) (f : FormM) : Statement (.ojoin h f) :=
  of_parts rfl (by decide) (congrArg (fun g => some (Instr.ojoin h g)) (formM_round f)) (fun _ _ => rfl)
theorem falloc (h : Hdr) (f : FormM) : Statement (.falloc h f) :=
  of_parts rfl (by decide) (congrArg (fun g => some (Instr.falloc h g)) (formM_round f)) (fun _ _ => rfl)
theorem ffree (h : Hdr) (f : FormM) : Statement (.ffree h f) :=
  of_parts rfl (by decide) (congrArg (fun g => some (Instr.ffree h g)) (formM_round f)) (fun _ _ => rfl)
theorem tcfg (h : Hdr) (f : FormT) : Statement (.tcfg h f) :=
  of_parts rfl (by decide) (congrArg (fun g => some (Instr.tcfg h g)) (formT_round f)) (fun _ _ => rfl)
theorem tld (h : Hdr) (f : FormT) : Statement (.tld h f) :=
  of_parts rfl (by decide) (congrArg (fun g => some (Instr.tld h g)) (formT_round f)) (fun _ _ => rfl)
theorem tst (h : Hdr) (f : FormT) : Statement (.tst h f) :=
  of_parts rfl (by decide) (congrArg (fun g => some (Instr.tst h g)) (formT_round f)) (fun _ _ => rfl)
theorem tzero (h : Hdr) (f : FormT) : Statement (.tzero h f) :=
  of_parts rfl (by decide) (congrArg (fun g => some (Instr.tzero h g)) (formT_round f)) (fun _ _ => rfl)
theorem mma (h : Hdr) (f : FormT) : Statement (.mma h f) :=
  of_parts rfl (by decide) (congrArg (fun g => some (Instr.mma h g)) (formT_round f)) (fun _ _ => rfl)
theorem mmasp (h : Hdr) (f : FormT) : Statement (.mmasp h f) :=
  of_parts rfl (by decide) (congrArg (fun g => some (Instr.mmasp h g)) (formT_round f)) (fun _ _ => rfl)
theorem tbind (h : Hdr) (f : FormT) : Statement (.tbind h f) :=
  of_parts rfl (by decide) (congrArg (fun g => some (Instr.tbind h g)) (formT_round f)) (fun _ _ => rfl)
theorem tfree (h : Hdr) (f : FormT) : Statement (.tfree h f) :=
  of_parts rfl (by decide) (congrArg (fun g => some (Instr.tfree h g)) (formT_round f)) (fun _ _ => rfl)
theorem tread (h : Hdr) (f : FormT) : Statement (.tread h f) :=
  of_parts rfl (by decide) (congrArg (fun g => some (Instr.tread h g)) (formT_round f)) (fun _ _ => rfl)
theorem twrite (h : Hdr) (f : FormT) : Statement (.twrite h f) :=
  of_parts rfl (by decide) (congrArg (fun g => some (Instr.twrite h g)) (formT_round f)) (fun _ _ => rfl)
theorem tscal (h : Hdr) (f : FormT) : Statement (.tscal h f) :=
  of_parts rfl (by decide) (congrArg (fun g => some (Instr.tscal h g)) (formT_round f)) (fun _ _ => rfl)
theorem tcvt (h : Hdr) (f : FormT) : Statement (.tcvt h f) :=
  of_parts rfl (by decide) (congrArg (fun g => some (Instr.tcvt h g)) (formT_round f)) (fun _ _ => rfl)
theorem tamax (h : Hdr) (f : FormT) : Statement (.tamax h f) :=
  of_parts rfl (by decide) (congrArg (fun g => some (Instr.tamax h g)) (formT_round f)) (fun _ _ => rfl)
theorem ttrans (h : Hdr) (f : FormT) : Statement (.ttrans h f) :=
  of_parts rfl (by decide) (congrArg (fun g => some (Instr.ttrans h g)) (formT_round f)) (fun _ _ => rfl)
theorem acon (h : Hdr) (f : FormT) : Statement (.acon h f) :=
  of_parts rfl (by decide) (congrArg (fun g => some (Instr.acon h g)) (formT_round f)) (fun _ _ => rfl)
theorem pdecl (h : Hdr) (f : FormS) : Statement (.pdecl h f) :=
  of_parts rfl (by decide) (congrArg (fun g => some (Instr.pdecl h g)) (formS_round f)) (fun _ _ => rfl)
theorem pcon (h : Hdr) (f : FormS) : Statement (.pcon h f) :=
  of_parts rfl (by decide) (congrArg (fun g => some (Instr.pcon h g)) (formS_round f)) (fun _ _ => rfl)
theorem prd (h : Hdr) (f : FormS) : Statement (.prd h f) :=
  of_parts rfl (by decide) (congrArg (fun g => some (Instr.prd h g)) (formS_round f)) (fun _ _ => rfl)
theorem pset (h : Hdr) (f : FormS) : Statement (.pset h f) :=
  of_parts rfl (by decide) (congrArg (fun g => some (Instr.pset h g)) (formS_round f)) (fun _ _ => rfl)
theorem pswap (h : Hdr) (f : FormS) : Statement (.pswap h f) :=
  of_parts rfl (by decide) (congrArg (fun g => some (Instr.pswap h g)) (formS_round f)) (fun _ _ => rfl)
theorem pexp (h : Hdr) (f : FormS) : Statement (.pexp h f) :=
  of_parts rfl (by decide) (congrArg (fun g => some (Instr.pexp h g)) (formS_round f)) (fun _ _ => rfl)
theorem pstat (h : Hdr) (f : FormS) : Statement (.pstat h f) :=
  of_parts rfl (by decide) (congrArg (fun g => some (Instr.pstat h g)) (formS_round f)) (fun _ _ => rfl)
theorem pdrop (h : Hdr) (f : FormS) : Statement (.pdrop h f) :=
  of_parts rfl (by decide) (congrArg (fun g => some (Instr.pdrop h g)) (formS_round f)) (fun _ _ => rfl)
theorem strm (h : Hdr) (f : FormS) : Statement (.strm h f) :=
  of_parts rfl (by decide) (congrArg (fun g => some (Instr.strm h g)) (formS_round f)) (fun _ _ => rfl)
theorem strmi (h : Hdr) (f : FormS) : Statement (.strmi h f) :=
  of_parts rfl (by decide) (congrArg (fun g => some (Instr.strmi h g)) (formS_round f)) (fun _ _ => rfl)
theorem sstop (h : Hdr) (f : FormS) : Statement (.sstop h f) :=
  of_parts rfl (by decide) (congrArg (fun g => some (Instr.sstop h g)) (formS_round f)) (fun _ _ => rfl)
theorem cpy (h : Hdr) (f : FormS) : Statement (.cpy h f) :=
  of_parts rfl (by decide) (congrArg (fun g => some (Instr.cpy h g)) (formS_round f)) (fun _ _ => rfl)
theorem tlw (h : Hdr) (f : FormS) : Statement (.tlw h f) :=
  of_parts rfl (by decide) (congrArg (fun g => some (Instr.tlw h g)) (formS_round f)) (fun _ _ => rfl)
theorem tlrd (h : Hdr) (f : FormS) : Statement (.tlrd h f) :=
  of_parts rfl (by decide) (congrArg (fun g => some (Instr.tlrd h g)) (formS_round f)) (fun _ _ => rfl)
theorem ringaw (h : Hdr) (f : FormS) : Statement (.ringaw h f) :=
  of_parts rfl (by decide) (congrArg (fun g => some (Instr.ringaw h g)) (formS_round f)) (fun _ _ => rfl)
theorem ringrel (h : Hdr) (f : FormS) : Statement (.ringrel h f) :=
  of_parts rfl (by decide) (congrArg (fun g => some (Instr.ringrel h g)) (formS_round f)) (fun _ _ => rfl)
theorem pbinv (h : Hdr) (f : FormS) : Statement (.pbinv h f) :=
  of_parts rfl (by decide) (congrArg (fun g => some (Instr.pbinv h g)) (formS_round f)) (fun _ _ => rfl)
theorem sbar (h : Hdr) (f : FormS) : Statement (.sbar h f) :=
  of_parts rfl (by decide) (congrArg (fun g => some (Instr.sbar h g)) (formS_round f)) (fun _ _ => rfl)
theorem call (h : Hdr) (f : FormS) : Statement (.call h f) :=
  of_parts rfl (by decide) (congrArg (fun g => some (Instr.call h g)) (formS_round f)) (fun _ _ => rfl)
theorem ret (h : Hdr) (f : FormS) : Statement (.ret h f) :=
  of_parts rfl (by decide) (congrArg (fun g => some (Instr.ret h g)) (formS_round f)) (fun _ _ => rfl)
theorem tcall (h : Hdr) (f : FormS) : Statement (.tcall h f) :=
  of_parts rfl (by decide) (congrArg (fun g => some (Instr.tcall h g)) (formS_round f)) (fun _ _ => rfl)
theorem kload (h : Hdr) (f : FormS) : Statement (.kload h f) :=
  of_parts rfl (by decide) (congrArg (fun g => some (Instr.kload h g)) (formS_round f)) (fun _ _ => rfl)
theorem kdrop (h : Hdr) (f : FormS) : Statement (.kdrop h f) :=
  of_parts rfl (by decide) (congrArg (fun g => some (Instr.kdrop h g)) (formS_round f)) (fun _ _ => rfl)
theorem launch (h : Hdr) (f : FormS) : Statement (.launch h f) :=
  of_parts rfl (by decide) (congrArg (fun g => some (Instr.launch h g)) (formS_round f)) (fun _ _ => rfl)
theorem gpatch (h : Hdr) (f : FormS) : Statement (.gpatch h f) :=
  of_parts rfl (by decide) (congrArg (fun g => some (Instr.gpatch h g)) (formS_round f)) (fun _ _ => rfl)
theorem doneI (h : Hdr) (f : FormS) : Statement (.doneI h f) :=
  of_parts rfl (by decide) (congrArg (fun g => some (Instr.doneI h g)) (formS_round f)) (fun _ _ => rfl)
theorem bar (h : Hdr) (f : FormS) : Statement (.bar h f) :=
  of_parts rfl (by decide) (congrArg (fun g => some (Instr.bar h g)) (formS_round f)) (fun _ _ => rfl)
theorem barw (h : Hdr) (f : FormS) : Statement (.barw h f) :=
  of_parts rfl (by decide) (congrArg (fun g => some (Instr.barw h g)) (formS_round f)) (fun _ _ => rfl)
theorem sealI (h : Hdr) (f : FormS) : Statement (.sealI h f) :=
  of_parts rfl (by decide) (congrArg (fun g => some (Instr.sealI h g)) (formS_round f)) (fun _ _ => rfl)
theorem sealw (h : Hdr) (f : FormS) : Statement (.sealw h f) :=
  of_parts rfl (by decide) (congrArg (fun g => some (Instr.sealw h g)) (formS_round f)) (fun _ _ => rfl)
theorem irrev (h : Hdr) (f : FormS) : Statement (.irrev h f) :=
  of_parts rfl (by decide) (congrArg (fun g => some (Instr.irrev h g)) (formS_round f)) (fun _ _ => rfl)
theorem ivrd (h : Hdr) (f : FormS) : Statement (.ivrd h f) :=
  of_parts rfl (by decide) (congrArg (fun g => some (Instr.ivrd h g)) (formS_round f)) (fun _ _ => rfl)
theorem srd (h : Hdr) (f : FormS) : Statement (.srd h f) :=
  of_parts rfl (by decide) (congrArg (fun g => some (Instr.srd h g)) (formS_round f)) (fun _ _ => rfl)
theorem swr (h : Hdr) (f : FormS) : Statement (.swr h f) :=
  of_parts rfl (by decide) (congrArg (fun g => some (Instr.swr h g)) (formS_round f)) (fun _ _ => rfl)
theorem trap (h : Hdr) (f : FormS) : Statement (.trap h f) :=
  of_parts rfl (by decide) (congrArg (fun g => some (Instr.trap h g)) (formS_round f)) (fun _ _ => rfl)
theorem leave (h : Hdr) (f : FormS) : Statement (.leave h f) :=
  of_parts rfl (by decide) (congrArg (fun g => some (Instr.leave h g)) (formS_round f)) (fun _ _ => rfl)
theorem yield (h : Hdr) (f : FormS) : Statement (.yield h f) :=
  of_parts rfl (by decide) (congrArg (fun g => some (Instr.yield h g)) (formS_round f)) (fun _ _ => rfl)
theorem halt (h : Hdr) (f : FormS) : Statement (.halt h f) :=
  of_parts rfl (by decide) (congrArg (fun g => some (Instr.halt h g)) (formS_round f)) (fun _ _ => rfl)
theorem crypt (h : Hdr) (f : FormS) : Statement (.crypt h f) :=
  of_parts rfl (by decide) (congrArg (fun g => some (Instr.crypt h g)) (formS_round f)) (fun _ _ => rfl)
theorem meas (h : Hdr) (f : FormS) : Statement (.meas h f) :=
  of_parts rfl (by decide) (congrArg (fun g => some (Instr.meas h g)) (formS_round f)) (fun _ _ => rfl)
theorem wdog (h : Hdr) (f : FormS) : Statement (.wdog h f) :=
  of_parts rfl (by decide) (congrArg (fun g => some (Instr.wdog h g)) (formS_round f)) (fun _ _ => rfl)
theorem tokenArrival (k : Nat) : Statement (.tokenArrival k) := of_none rfl
theorem firingSelection (u : Nat) (stalled : Bool) : Statement (.firingSelection u stalled) := of_none rfl
theorem gatherHoldExpiry (u op : Nat) : Statement (.gatherHoldExpiry u op) := of_none rfl
theorem blockCommit (f : FireRef) : Statement (.blockCommit f) := of_none rfl
theorem causeClears (f : FireRef) : Statement (.causeClears f) := of_none rfl
theorem backgroundScrub (u : Nat) (site : ErrSite) : Statement (.backgroundScrub u site) := of_none rfl
theorem shareReweight (u : Nat) : Statement (.shareReweight u) := of_none rfl
theorem tarnWidthClear (w : RegWrite) : Statement (.tarnWidthClear w) := of_none rfl
theorem tagGrant (ctx reg lreg : Nat) : Statement (.tagGrant ctx reg lreg) := of_none rfl
theorem xstatOvfClear (w : RegWrite) : Statement (.xstatOvfClear w) := of_none rfl
theorem fwWindowEnable (w : RegWrite) : Statement (.fwWindowEnable w) := of_none rfl
theorem fwWindowDisable (w : RegWrite) : Statement (.fwWindowDisable w) := of_none rfl
theorem memoryOpPerform (k : Nat) : Statement (.memoryOpPerform k) := of_none rfl
theorem mscEvict (line : Nat) : Statement (.mscEvict line) := of_none rfl
theorem atomicHoldRevoke (k : Nat) : Statement (.atomicHoldRevoke k) := of_none rfl
theorem oamoRetry (f : FireRef) (slot : Nat) : Statement (.oamoRetry f slot) := of_none rfl
theorem poolContribRegister (k : Nat) : Statement (.poolContribRegister k) := of_none rfl
theorem poolDeadlineExpiry (ctx pool wait : Nat) : Statement (.poolDeadlineExpiry ctx pool wait) := of_none rfl
theorem tileSpringClaim (die cl port : Nat) : Statement (.tileSpringClaim die cl port) := of_none rfl
theorem tileSpringDeliver (die cl port : Nat) : Statement (.tileSpringDeliver die cl port) := of_none rfl
theorem tileOutletStore (die cl : Nat) : Statement (.tileOutletStore die cl) := of_none rfl
theorem kstepEnd (die cl : Nat) : Statement (.kstepEnd die cl) := of_none rfl
theorem governorPeriod (die cl : Nat) : Statement (.governorPeriod die cl) := of_none rfl
theorem leaveGrant (die : Nat) : Statement (.leaveGrant die) := of_none rfl
theorem leaveClear (w : RegWrite) : Statement (.leaveClear w) := of_none rfl
theorem streamCmdAccept (k : Nat) : Statement (.streamCmdAccept k) := of_none rfl
theorem streamStart (die cl k : Nat) : Statement (.streamStart die cl k) := of_none rfl
theorem springElement (die cl port : Nat) : Statement (.springElement die cl port) := of_none rfl
theorem outletStore (die cl port : Nat) : Statement (.outletStore die cl port) := of_none rfl
theorem copyJobAccept (k : Nat) : Statement (.copyJobAccept k) := of_none rfl
theorem copyElement (die eng : Nat) : Statement (.copyElement die eng) := of_none rfl
theorem ringConfigWrite (w : RegWrite) : Statement (.ringConfigWrite w) := of_none rfl
theorem hostMemoryAccess (fn addr len : Nat) (write : Bool) (bytes : List Byte) : Statement (.hostMemoryAccess fn addr len write bytes) := of_none rfl
theorem imageStage (k : Nat) : Statement (.imageStage k) := of_none rfl
theorem callTake (ctx reg : Nat) : Statement (.callTake ctx reg) := of_none rfl
theorem planeFreezeCopy (ctx reg : Nat) : Statement (.planeFreezeCopy ctx reg) := of_none rfl
theorem activationTeardown (ctx reg : Nat) : Statement (.activationTeardown ctx reg) := of_none rfl
theorem ctxPreempt (w : RegWrite) : Statement (.ctxPreempt w) := of_none rfl
theorem checkpointComplete (ctx : Nat) : Statement (.checkpointComplete ctx) := of_none rfl
theorem ctxResume (w : RegWrite) : Statement (.ctxResume w) := of_none rfl
theorem resumeRestore (ctx : Nat) : Statement (.resumeRestore ctx) := of_none rfl
theorem fqstOvfClear (w : RegWrite) : Statement (.fqstOvfClear w) := of_none rfl
theorem queueEnable (w : QueueWrite) : Statement (.queueEnable w) := of_none rfl
theorem queueQuiesce (w : QueueWrite) : Statement (.queueQuiesce w) := of_none rfl
theorem queueResume (w : QueueWrite) : Statement (.queueResume w) := of_none rfl
theorem queueDisable (w : QueueWrite) : Statement (.queueDisable w) := of_none rfl
theorem queueClear (w : QueueWrite) : Statement (.queueClear w) := of_none rfl
theorem queueDoorbell (w : QueueWrite) : Statement (.queueDoorbell w) := of_none rfl
theorem launchGroup (q : Nat) : Statement (.launchGroup q) := of_none rfl
theorem replayPkt (q : Nat) : Statement (.replayPkt q) := of_none rfl
theorem patchPkt (q : Nat) : Statement (.patchPkt q) := of_none rfl
theorem signalPkt (q : Nat) : Statement (.signalPkt q) := of_none rfl
theorem waitPkt (q : Nat) : Statement (.waitPkt q) := of_none rfl
theorem sealReqPkt (q : Nat) : Statement (.sealReqPkt q) := of_none rfl
theorem nopPkt (q : Nat) : Statement (.nopPkt q) := of_none rfl
theorem packetComplete (q : Nat) : Statement (.packetComplete q) := of_none rfl
theorem watchReread (isQueue : Bool) (k : Nat) : Statement (.watchReread isQueue k) := of_none rfl
theorem nodeDispatch (die kind : Nat) : Statement (.nodeDispatch die kind) := of_none rfl
theorem nodeAging (die k : Nat) : Statement (.nodeAging die k) := of_none rfl
theorem taskComplete (k : Nat) : Statement (.taskComplete k) := of_none rfl
theorem stuckTimeout (ctx reg : Nat) : Statement (.stuckTimeout ctx reg) := of_none rfl
theorem patchApply (k : Nat) : Statement (.patchApply k) := of_none rfl
theorem barrierMarkerSend (die cl k : Nat) : Statement (.barrierMarkerSend die cl k) := of_none rfl
theorem barrierForward (u op : Nat) : Statement (.barrierForward u op) := of_none rfl
theorem sealctlClose (w : RegWrite) : Statement (.sealctlClose w) := of_none rfl
theorem sealRequest (p : Packet) : Statement (.sealRequest p) := of_none rfl
theorem sealClose (p : Packet) : Statement (.sealClose p) := of_none rfl
theorem sealConditionMet (iv : Nat) : Statement (.sealConditionMet iv) := of_none rfl
theorem sealDone (p : Packet) : Statement (.sealDone p) := of_none rfl
theorem sealSealed (p : Packet) : Statement (.sealSealed p) := of_none rfl
theorem sealTimeout : Statement (.sealTimeout) := of_none rfl
theorem sealRollback (p : Packet) : Statement (.sealRollback p) := of_none rfl
theorem rbctlRollback (w : RegWrite) : Statement (.rbctlRollback w) := of_none rfl
theorem rbctlRetire (w : RegWrite) : Statement (.rbctlRetire w) := of_none rfl
theorem tqstOvfClear (w : RegWrite) : Statement (.tqstOvfClear w) := of_none rfl
theorem regionReplay (ctx reg code : Nat) : Statement (.regionReplay ctx reg code) := of_none rfl
theorem clusterRetirement (die cl : Nat) : Statement (.clusterRetirement die cl) := of_none rfl
theorem einjWrite (w : RegWrite) : Statement (.einjWrite w) := of_none rfl
theorem tableWalkDone (k : Nat) : Statement (.tableWalkDone k) := of_none rfl
theorem tlbiAll (w : RegWrite) : Statement (.tlbiAll w) := of_none rfl
theorem tlbiVa (w : RegWrite) : Statement (.tlbiVa w) := of_none rfl
theorem tlbiRetry (w : RegWrite) : Statement (.tlbiRetry w) := of_none rfl
theorem tlbiComplete (k : Nat) : Statement (.tlbiComplete k) := of_none rfl
theorem linkEnable (w : RegWrite) : Statement (.linkEnable w) := of_none rfl
theorem linkDisable (w : RegWrite) : Statement (.linkDisable w) := of_none rfl
theorem linkRelease (w : RegWrite) : Statement (.linkRelease w) := of_none rfl
theorem linkRetrain (w : RegWrite) : Statement (.linkRetrain w) := of_none rfl
theorem linkTrained (n lanes peer peerLink rtt : Nat) : Statement (.linkTrained n lanes peer peerLink rtt) := of_none rfl
theorem laneLost (n lanes : Nat) : Statement (.laneLost n lanes) := of_none rfl
theorem linkQuarantine (n : Nat) : Statement (.linkQuarantine n) := of_none rfl
theorem peerSilentTimeout (n : Nat) : Statement (.peerSilentTimeout n) := of_none rfl
theorem flitRetransmit (n : Nat) : Statement (.flitRetransmit n) := of_none rfl
theorem linkFlowTimeout (k : Nat) : Statement (.linkFlowTimeout k) := of_none rfl
theorem tokenPkt (n : Nat) (p : Packet) : Statement (.tokenPkt n p) := of_none rfl
theorem writePkt (n : Nat) (p : Packet) : Statement (.writePkt n p) := of_none rfl
theorem partPkt (n : Nat) (p : Packet) : Statement (.partPkt n p) := of_none rfl
theorem poolopPkt (n : Nat) (p : Packet) : Statement (.poolopPkt n p) := of_none rfl
theorem ackPkt (n : Nat) (p : Packet) : Statement (.ackPkt n p) := of_none rfl
theorem valuePkt (n : Nat) (p : Packet) : Statement (.valuePkt n p) := of_none rfl
theorem ctlPkt (n : Nat) (p : Packet) : Statement (.ctlPkt n p) := of_none rfl
theorem pctlActivate (w : RegWrite) : Statement (.pctlActivate w) := of_none rfl
theorem pctlResize (w : RegWrite) : Statement (.pctlResize w) := of_none rfl
theorem pctlRelease (w : RegWrite) : Statement (.pctlRelease w) := of_none rfl
theorem fnReqCreate (fn : Nat) (val : Word) : Statement (.fnReqCreate fn val) := of_none rfl
theorem fnReqDestroy (fn : Nat) (val : Word) : Statement (.fnReqDestroy fn val) := of_none rfl
theorem dramOvertemp (die layer temp : Nat) : Statement (.dramOvertemp die layer temp) := of_none rfl
theorem fwSwitch (w : RegWrite) : Statement (.fwSwitch w) := of_none rfl
theorem watchdogExpiry : Statement (.watchdogExpiry) := of_none rfl
theorem deviceReset : Statement (.deviceReset) := of_none rfl
theorem dutyWrite (w : RegWrite) : Statement (.dutyWrite w) := of_none rfl
theorem dutySwitchPoint (fn : Nat) : Statement (.dutySwitchPoint fn) := of_none rfl
theorem getVersion (pf : Nat) : Statement (.getVersion pf) := of_none rfl
theorem getCapabilities (pf : Nat) : Statement (.getCapabilities pf) := of_none rfl
theorem negotiateAlgorithms (pf hashAlgs signAlgs : Nat) : Statement (.negotiateAlgorithms pf hashAlgs signAlgs) := of_none rfl
theorem getDigests (pf : Nat) : Statement (.getDigests pf) := of_none rfl
theorem getCertificate (pf slot offset len : Nat) : Statement (.getCertificate pf slot offset len) := of_none rfl
theorem challenge (pf slot : Nat) (nonce : List Byte) : Statement (.challenge pf slot nonce) := of_none rfl
theorem getMeasurements (pf op : Nat) : Statement (.getMeasurements pf op) := of_none rfl
theorem sysregWrite (w : RegWrite) : Statement (.sysregWrite w) := of_none rfl
theorem otherTypePacket (n : Nat) (p : Packet) : Statement (.otherTypePacket n p) := of_none rfl
theorem mcopyWriteSend (n : Nat) : Statement (.mcopyWriteSend n) := of_none rfl

end Sys2Proof.Laws.WordParts
end

