-- ==== Sys2Proof/Tests/Slice0.lean ====
section
/-! SUPPORT. Tests of the model: ill-formed words, a word for each instruction from the encoding tables, single steps with
results from the spec's worked cases, and for every statement with hypotheses a state that meets them. -/

namespace Sys2Proof.Tests

open Sys2Proof.Machine Sys2Proof.Claims

set_option maxRecDepth 20000

/-- Every word of the list decodes to the instruction beside it (R53-R66). -/
def decodes (l : List (Word × Instr)) : Bool := l.all fun p => decide (decode p.1 = .instr p.2)

/-- The words of the moves and tags family. -/
theorem test_decode_moves_and_tags : decodes [
    (0x019180e840000000, .mov ⟨.bf16, .always, 1, some ⟨.l, 3⟩, some ⟨.r, 4⟩⟩ ⟨false, 0, 0⟩),
    (0x02208040087fff6a, .movi ⟨.i32, .always, 0, some ⟨.l, 1⟩, none⟩ ⟨true, 0, -150⟩),
    (0x0331808009804b80, .movk ⟨.i64, .always, 1, some ⟨.l, 2⟩, none⟩ ⟨true, 3, 19328⟩),
    (0x04f0808000000000, .inTok ⟨.none, .always, 0, some ⟨.l, 2⟩, none⟩ ⟨0, 0, 0⟩),
    (0x0420808005200fff, .inTok ⟨.i32, .always, 0, some ⟨.l, 2⟩, none⟩ ⟨5, 2, 4095⟩),
    (0x05a50000033000ff, .outTok ⟨.f32, .ifTrue, 1, none, none⟩ ⟨3, 3, 255⟩),
    (0x062080c000040000, .rd ⟨.i32, .always, 0, some ⟨.l, 3⟩, none⟩ ⟨4, 0⟩),
    (0x0721000000040000, .wr ⟨.i32, .always, 1, none, none⟩ ⟨4, 0⟩),
    (0x08a381c000000000, .sel ⟨.f32, .always, 3, some ⟨.l, 7⟩, none⟩ ⟨false, 0, 0⟩),
    (0x09f000000800003f, .br ⟨.none, .always, 0, none, none⟩ ⟨true, 0, 63⟩),
    (0x0af1000008000fc1, .brc ⟨.none, .always, 1, none, none⟩ ⟨true, 0, 4033⟩),
    (0x0b41c18000000000, .null ⟨.n8, .always, 1, some ⟨.x, 6⟩, none⟩ ⟨false, 0, 0⟩),
    (0x0cf0804000000003, .tagnew ⟨.none, .always, 0, some ⟨.l, 1⟩, none⟩ ⟨0, 0, 3⟩),
    (0x0df1000000000000, .tagfree ⟨.none, .always, 1, none, none⟩ ⟨0, 0, 0⟩),
    (0x0ea180c000200005, .tagset ⟨.f32, .always, 1, some ⟨.l, 3⟩, none⟩ ⟨0, 2, 5⟩),
    (0x0e32a20000000000, .tagset ⟨.i64, .always, 2, some ⟨.r, 8⟩, none⟩ ⟨0, 0, 0⟩),
    (0x0ff1808000000000, .gettag ⟨.none, .always, 1, some ⟨.l, 2⟩, none⟩ ⟨0, 0, 0⟩),
    (0x10f08100083fffff, .count ⟨.none, .always, 0, some ⟨.l, 4⟩, none⟩ ⟨true, 0, 4194303⟩),
    (0x11f0e14000000000, .rix ⟨.none, .always, 0, some ⟨.g, 5⟩, none⟩ ⟨false, 0, 0⟩)] = true := by decide

/-- The words of the integer family. -/
theorem test_decode_integer : decodes [
    (0x2001852a887ffff9, .add ⟨.i8, .always, 1, some ⟨.l, 20⟩, some ⟨.r, 40⟩⟩ ⟨true, 0, -7⟩),
    (0x2112c54000000000, .sub ⟨.i16, .always, 2, some ⟨.x, 21⟩, none⟩ ⟨false, 0, 0⟩),
    (0x222185aaa87ffffb, .mul ⟨.i32, .always, 1, some ⟨.l, 22⟩, some ⟨.r, 42⟩⟩ ⟨true, 0, -5⟩),
    (0x2332c5c000000000, .mulh ⟨.i64, .always, 2, some ⟨.x, 23⟩, none⟩ ⟨false, 0, 0⟩),
    (0x2441862ac87ffffd, .div ⟨.n8, .always, 1, some ⟨.l, 24⟩, some ⟨.r, 44⟩⟩ ⟨true, 0, -3⟩),
    (0x2552c64000000000, .rem ⟨.n16, .always, 2, some ⟨.x, 25⟩, none⟩ ⟨false, 0, 0⟩),
    (0x266186aae87fffff, .min ⟨.n32, .always, 1, some ⟨.l, 26⟩, some ⟨.r, 46⟩⟩ ⟨true, 0, -1⟩),
    (0x2772c6c000000000, .max ⟨.n64, .always, 2, some ⟨.x, 27⟩, none⟩ ⟨false, 0, 0⟩),
    (0x2a01872b08000001, .adds ⟨.i8, .always, 1, some ⟨.l, 28⟩, some ⟨.r, 48⟩⟩ ⟨true, 0, 1⟩),
    (0x2b12c74000000000, .subs ⟨.i16, .always, 2, some ⟨.x, 29⟩, none⟩ ⟨false, 0, 0⟩),
    (0x2c2187ab28000003, .and ⟨.i32, .always, 1, some ⟨.l, 30⟩, some ⟨.r, 50⟩⟩ ⟨true, 0, 3⟩),
    (0x2d32c7c000000000, .or ⟨.i64, .always, 2, some ⟨.x, 31⟩, none⟩ ⟨false, 0, 0⟩),
    (0x2e41882b48000005, .xor ⟨.n8, .always, 1, some ⟨.l, 32⟩, some ⟨.r, 52⟩⟩ ⟨true, 0, 5⟩),
    (0x2f52c84000000000, .andn ⟨.n16, .always, 2, some ⟨.x, 33⟩, none⟩ ⟨false, 0, 0⟩),
    (0x306188ab68000007, .shl ⟨.n32, .always, 1, some ⟨.l, 34⟩, some ⟨.r, 54⟩⟩ ⟨true, 0, 7⟩),
    (0x3172c8c000000000, .shr ⟨.n64, .always, 2, some ⟨.x, 35⟩, none⟩ ⟨false, 0, 0⟩),
    (0x3201892b88000009, .rot ⟨.i8, .always, 1, some ⟨.l, 36⟩, some ⟨.r, 56⟩⟩ ⟨true, 0, 9⟩),
    (0x3512c94000000000, .bfx ⟨.i16, .always, 2, some ⟨.x, 37⟩, none⟩ ⟨false, 0, 0⟩),
    (0x202181e8c87ffffb, .add ⟨.i32, .always, 1, some ⟨.l, 7⟩, some ⟨.r, 12⟩⟩ ⟨true, 0, -5⟩),
    (0x2811824000000000, .abs ⟨.i16, .always, 1, some ⟨.l, 9⟩, none⟩ ⟨false, 0, 0⟩),
    (0x2960824008400000, .neg ⟨.n32, .always, 0, some ⟨.l, 9⟩, none⟩ ⟨true, 0, -4194304⟩),
    (0x3331a2c000000000, .clz ⟨.i64, .always, 1, some ⟨.r, 11⟩, none⟩ ⟨false, 0, 0⟩),
    (0x3441ef4000000000, .popc ⟨.n8, .always, 1, some ⟨.g, 61⟩, none⟩ ⟨false, 0, 0⟩),
    (0x3561810008000804, .bfx ⟨.n32, .always, 1, some ⟨.l, 4⟩, none⟩ ⟨true, 0, 2052⟩),
    (0x3653824000000000, .bfi ⟨.n16, .always, 3, some ⟨.l, 9⟩, none⟩ ⟨false, 0, 0⟩),
    (0x376280c001000000, .cmp ⟨.n32, .always, 2, some ⟨.l, 3⟩, none⟩ ⟨false, 2, 0⟩),
    (0x370180c00a800009, .cmp ⟨.i8, .always, 1, some ⟨.l, 3⟩, none⟩ ⟨true, 5, 9⟩),
    (0x3801814005000000, .cvti ⟨.i8, .always, 1, some ⟨.l, 5⟩, none⟩ ⟨false, 10, 0⟩),
    (0x3922810008000007, .mad ⟨.i32, .always, 2, some ⟨.l, 4⟩, none⟩ ⟨true, 0, 7⟩)] = true := by decide

/-- The words of the floating family. -/
theorem test_decode_floating : decodes [
    (0x40818780097ffffd, .fadd ⟨.f16, .always, 1, some ⟨.l, 30⟩, none⟩ ⟨true, 2, -3⟩),
    (0x419187c009fffffd, .fsub ⟨.bf16, .always, 1, some ⟨.l, 31⟩, none⟩ ⟨true, 3, -3⟩),
    (0x42a188000a7ffffd, .fmul ⟨.f32, .always, 1, some ⟨.l, 32⟩, none⟩ ⟨true, 4, -3⟩),
    (0x43a3824000800000, .fma ⟨.f32, .always, 3, some ⟨.l, 9⟩, none⟩ ⟨false, 1, 0⟩),
    (0x44b2824004000000, .fmin ⟨.e4m3, .always, 2, some ⟨.l, 9⟩, none⟩ ⟨false, 8, 0⟩),
    (0x45c2824000000000, .fmax ⟨.e5m2, .always, 2, some ⟨.l, 9⟩, none⟩ ⟨false, 0, 0⟩),
    (0x4681824000000000, .fabs ⟨.f16, .always, 1, some ⟨.l, 9⟩, none⟩ ⟨false, 0, 0⟩),
    (0x4791824000000000, .fneg ⟨.bf16, .always, 1, some ⟨.l, 9⟩, none⟩ ⟨false, 0, 0⟩),
    (0x48a2824003800000, .fcmp ⟨.f32, .always, 2, some ⟨.l, 9⟩, none⟩ ⟨false, 7, 0⟩),
    (0x49b1824000000000, .fclass ⟨.e4m3, .always, 1, some ⟨.l, 9⟩, none⟩ ⟨false, 0, 0⟩),
    (0x4aa2824002000000, .fdiv ⟨.f32, .always, 2, some ⟨.l, 9⟩, none⟩ ⟨false, 4, 0⟩),
    (0x4ba1a44001800000, .sqrt ⟨.f32, .always, 1, some ⟨.r, 17⟩, none⟩ ⟨false, 3, 0⟩),
    (0x4ca1a44001800000, .rcp ⟨.f32, .always, 1, some ⟨.r, 17⟩, none⟩ ⟨false, 3, 0⟩),
    (0x4da1a44001800000, .rsq ⟨.f32, .always, 1, some ⟨.r, 17⟩, none⟩ ⟨false, 3, 0⟩),
    (0x4ea1a44001800000, .ex2 ⟨.f32, .always, 1, some ⟨.r, 17⟩, none⟩ ⟨false, 3, 0⟩),
    (0x4fa1a44001800000, .lg2 ⟨.f32, .always, 1, some ⟨.r, 17⟩, none⟩ ⟨false, 3, 0⟩),
    (0x50c182400600000a, .cvtf ⟨.e5m2, .always, 1, some ⟨.l, 9⟩, none⟩ ⟨false, 12, 10⟩),
    (0x515182400400000c, .cvtfi ⟨.n16, .always, 1, some ⟨.l, 9⟩, none⟩ ⟨false, 8, 12⟩),
    (0x5291824002000007, .cvtif ⟨.bf16, .always, 1, some ⟨.l, 9⟩, none⟩ ⟨false, 4, 7⟩),
    (0x5382824000000000, .fscale ⟨.f16, .always, 2, some ⟨.l, 9⟩, none⟩ ⟨false, 0, 0⟩)] = true := by decide

/-- The words of the memory family. -/
theorem test_decode_memory : decodes [
    (0x603c808002000008, .ld ⟨.i64, .order, 0, some ⟨.l, 2⟩, none⟩ ⟨1, 0, 0, 8⟩),
    (0x60a280c00107fff0, .ld ⟨.f32, .always, 2, some ⟨.l, 3⟩, none⟩ ⟨0, 4, 1, -16⟩),
    (0x615a00000743fffe, .st ⟨.n16, .ifFalse, 2, none, none⟩ ⟨3, 5, 0, -2⟩),
    (0x622681f08088000c, .ldl ⟨.i32, .ifTrue, 2, some ⟨.l, 7⟩, some ⟨.x, 8⟩⟩ ⟨0, 2, 2, 12⟩),
    (0x63a2814002180004, .amo ⟨.f32, .always, 2, some ⟨.l, 5⟩, none⟩ ⟨1, 0, 6, 4⟩),
    (0x64f3818000400008, .cas ⟨.none, .always, 3, some ⟨.l, 6⟩, none⟩ ⟨0, 1, 0, 8⟩),
    (0x657f81c000d40000, .oamo ⟨.n64, .order, 3, some ⟨.l, 7⟩, none⟩ ⟨0, 3, 5, 0⟩),
    (0x66f1000000000040, .pref ⟨.none, .always, 1, none, none⟩ ⟨0, 0, 0, 64⟩),
    (0x67f1e24006800000, .cwb ⟨.none, .always, 1, some ⟨.g, 9⟩, none⟩ ⟨3, 2, 0, 0⟩),
    (0x68fd0000014fffff, .cinv ⟨.none, .order, 1, none, none⟩ ⟨0, 5, 3, -1⟩),
    (0x69f3e10000800000, .ojoin ⟨.none, .always, 3, some ⟨.g, 4⟩, none⟩ ⟨0, 2, 0, 0⟩),
    (0x6af080800401ffff, .falloc ⟨.none, .always, 0, some ⟨.l, 2⟩, none⟩ ⟨2, 0, 0, 0x1ffff⟩),
    (0x6bf1000004000000, .ffree ⟨.none, .always, 1, none, none⟩ ⟨2, 0, 0, 0⟩)] = true := by decide

/-- The words of the tile family. -/
theorem test_decode_tile : decodes [
    (0x80f0000000b003f7, .tcfg ⟨.none, .always, 0, none, none⟩ ⟨0, 11, 0, false, false, false, 0x3f7⟩),
    (0x81fee14004000003, .tld ⟨.none, .order, 2, some ⟨.g, 5⟩, none⟩ ⟨4, 0, 0, false, false, false, 0x3⟩),
    (0x82f500000f000005, .tst ⟨.none, .ifTrue, 1, none, none⟩ ⟨15, 0, 0, false, false, false, 0x5⟩),
    (0x83f00000000e0002, .tzero ⟨.none, .always, 0, none, none⟩ ⟨0, 0, 7, false, false, false, 0x2⟩),
    (0x84f3810000148000, .mma ⟨.none, .always, 3, some ⟨.l, 4⟩, none⟩ ⟨0, 1, 2, false, true, false, 0x0⟩),
    (0x84f28100093b0003, .mma ⟨.none, .always, 2, some ⟨.l, 4⟩, none⟩ ⟨9, 3, 5, true, false, false, 0x3⟩),
    (0x85f281c002425401, .mmasp ⟨.none, .always, 2, some ⟨.l, 7⟩, none⟩ ⟨2, 4, 1, false, false, true, 0x1401⟩),
    (0x86f180c0000c00a5, .tbind ⟨.none, .always, 1, some ⟨.l, 3⟩, none⟩ ⟨0, 0, 6, false, false, false, 0xa5⟩),
    (0x87f000000d000000, .tfree ⟨.none, .always, 0, none, none⟩ ⟨13, 0, 0, false, false, false, 0x0⟩),
    (0x88a080c000022084, .tread ⟨.f32, .always, 0, some ⟨.l, 3⟩, none⟩ ⟨0, 0, 1, false, false, false, 0x2084⟩),
    (0x8902000007001000, .twrite ⟨.i8, .always, 2, none, none⟩ ⟨7, 0, 0, false, false, false, 0x1000⟩),
    (0x8aa1000000060004, .tscal ⟨.f32, .always, 1, none, none⟩ ⟨0, 0, 3, false, false, false, 0x4⟩),
    (0x8b90818006040000, .tcvt ⟨.bf16, .always, 0, some ⟨.l, 6⟩, none⟩ ⟨6, 0, 2, false, false, false, 0x0⟩),
    (0x8be0818005020020, .tcvt ⟨.mx, .always, 0, some ⟨.l, 6⟩, none⟩ ⟨5, 0, 1, false, false, false, 0x20⟩),
    (0x8cf080800b000000, .tamax ⟨.none, .always, 0, some ⟨.l, 2⟩, none⟩ ⟨11, 0, 0, false, false, false, 0x0⟩),
    (0x8df0808003c00000, .ttrans ⟨.none, .always, 0, some ⟨.l, 2⟩, none⟩ ⟨3, 12, 0, false, false, false, 0x0⟩),
    (0x8efc000000001002, .acon ⟨.none, .order, 0, none, none⟩ ⟨0, 0, 0, false, false, false, 0x1002⟩)] = true := by decide

/-- The words of the pool family. -/
theorem test_decode_pool : decodes [
    (0x90a1e04000070000, .pdecl ⟨.f32, .always, 1, some ⟨.g, 1⟩, none⟩ ⟨7, 0⟩),
    (0x91ae80c000008000, .pcon ⟨.f32, .order, 2, some ⟨.l, 3⟩, none⟩ ⟨0, 0x8000⟩),
    (0x92a0808000050000, .prd ⟨.f32, .always, 0, some ⟨.l, 2⟩, none⟩ ⟨5, 0⟩),
    (0x93f8820001ff000c, .pset ⟨.none, .ifFalse, 0, some ⟨.l, 8⟩, none⟩ ⟨511, 12⟩),
    (0x94a0814000010004, .pswap ⟨.f32, .always, 0, some ⟨.l, 5⟩, none⟩ ⟨1, 4⟩),
    (0x95f1818000020004, .pexp ⟨.none, .always, 1, some ⟨.l, 6⟩, none⟩ ⟨2, 4⟩),
    (0x96f4a0c000090000, .pstat ⟨.none, .ifTrue, 0, some ⟨.r, 3⟩, none⟩ ⟨9, 0⟩),
    (0x97fc000000030000, .pdrop ⟨.none, .order, 0, none, none⟩ ⟨3, 0⟩)] = true := by decide

/-- The words of the stream family. -/
theorem test_decode_stream : decodes [
    (0xa0f1808007f20000, .strm ⟨.none, .always, 1, some ⟨.l, 2⟩, none⟩ ⟨2034, 0⟩),
    (0xa1f380c0002f6022, .strmi ⟨.none, .always, 3, some ⟨.l, 3⟩, none⟩ ⟨47, 0x6022⟩),
    (0xa2fc810000410001, .sstop ⟨.none, .order, 0, some ⟨.l, 4⟩, none⟩ ⟨65, 1⟩),
    (0xa3f18140000f0000, .cpy ⟨.none, .always, 1, some ⟨.l, 5⟩, none⟩ ⟨15, 0⟩),
    (0xa4f18180003f0100, .tlw ⟨.none, .always, 1, some ⟨.l, 6⟩, none⟩ ⟨63, 256⟩),
    (0xa5f081c000210000, .tlrd ⟨.none, .always, 0, some ⟨.l, 7⟩, none⟩ ⟨33, 0⟩),
    (0xa6f0820000070005, .ringaw ⟨.none, .always, 0, some ⟨.l, 8⟩, none⟩ ⟨7, 5⟩),
    (0xa7f98240000e0009, .ringrel ⟨.none, .ifFalse, 1, some ⟨.l, 9⟩, none⟩ ⟨14, 9⟩),
    (0xa8f0000007e00000, .pbinv ⟨.none, .always, 0, none, none⟩ ⟨2016, 0⟩),
    (0xa9f080c001000000, .sbar ⟨.none, .always, 0, some ⟨.l, 3⟩, none⟩ ⟨256, 0⟩)] = true := by decide

/-- The words of the kernel group interval family. -/
theorem test_decode_kernel_group_interval : decodes [
    (0xb0f1810008000000, .call ⟨.none, .always, 1, some ⟨.l, 4⟩, none⟩ ⟨2048, 0⟩),
    (0xb0f2810000e30008, .call ⟨.none, .always, 2, some ⟨.l, 4⟩, none⟩ ⟨227, 8⟩),
    (0xb1f1000000000005, .ret ⟨.none, .always, 1, none, none⟩ ⟨0, 5⟩),
    (0xb2fe000000000001, .tcall ⟨.none, .order, 2, none, none⟩ ⟨0, 1⟩),
    (0xb3f180c000000001, .kload ⟨.none, .always, 1, some ⟨.l, 3⟩, none⟩ ⟨0, 1⟩),
    (0xb4f180c000000000, .kdrop ⟨.none, .always, 1, some ⟨.l, 3⟩, none⟩ ⟨0, 0⟩),
    (0xb5f1808000000001, .launch ⟨.none, .always, 1, some ⟨.l, 2⟩, none⟩ ⟨0, 1⟩),
    (0xb6f3818000000000, .gpatch ⟨.none, .always, 3, some ⟨.l, 6⟩, none⟩ ⟨0, 0⟩),
    (0xb7fc000000000000, .doneI ⟨.none, .order, 0, none, none⟩ ⟨0, 0⟩),
    (0xb8f18100000f03ff, .bar ⟨.none, .always, 1, some ⟨.l, 4⟩, none⟩ ⟨15, 1023⟩),
    (0xb9f0808000090000, .barw ⟨.none, .always, 0, some ⟨.l, 2⟩, none⟩ ⟨9, 0⟩),
    (0xbafc000000000000, .sealI ⟨.none, .order, 0, none, none⟩ ⟨0, 0⟩),
    (0xbafce10000000000, .sealI ⟨.none, .order, 0, some ⟨.g, 4⟩, none⟩ ⟨0, 0⟩),
    (0xbbf080c000000000, .sealw ⟨.none, .always, 0, some ⟨.l, 3⟩, none⟩ ⟨0, 0⟩),
    (0xbcfe000000000001, .irrev ⟨.none, .order, 2, none, none⟩ ⟨0, 1⟩),
    (0xbdf0808000000002, .ivrd ⟨.none, .always, 0, some ⟨.l, 2⟩, none⟩ ⟨0, 2⟩)] = true := by decide

/-- The words of the system family. -/
theorem test_decode_system : decodes [
    (0xc0f0808003ff0000, .srd ⟨.none, .always, 0, some ⟨.l, 2⟩, none⟩ ⟨1023, 0⟩),
    (0xc1f580c003510000, .swr ⟨.none, .ifTrue, 1, some ⟨.l, 3⟩, none⟩ ⟨849, 0⟩),
    (0xc2f100000000beef, .trap ⟨.none, .always, 1, none, none⟩ ⟨0, 0xbeef⟩),
    (0xc3f080800000004d, .leave ⟨.none, .always, 0, some ⟨.l, 2⟩, none⟩ ⟨0, 77⟩),
    (0xc4fc000000000000, .yield ⟨.none, .order, 0, none, none⟩ ⟨0, 0⟩),
    (0xc5f8000000000000, .halt ⟨.none, .ifFalse, 0, none, none⟩ ⟨0, 0⟩),
    (0xc6f3824000010000, .crypt ⟨.none, .always, 3, some ⟨.l, 9⟩, none⟩ ⟨1, 0⟩),
    (0xc7f18100000f0000, .meas ⟨.none, .always, 1, some ⟨.l, 4⟩, none⟩ ⟨15, 0⟩),
    (0xc8fc00000000c0de, .wdog ⟨.none, .order, 0, none, none⟩ ⟨0, 0xc0de⟩)] = true := by decide

/-- Every instruction of the list is ill formed and refused with the code beside it (R67). -/
def refusesAs (l : List (Instr × Nat)) : Bool :=
  l.all fun p => !wellFormed p.1 && decide (Machine.Instr.check p.1 = some p.2)

/-- Each of these headers breaks one condition of the word and is refused by its code. -/
theorem test_illformed_headers : refusesAs [
    (.add ⟨.i32, .ifTrue, 2, some ⟨.l, 1⟩, none⟩ ⟨false, 0, 0⟩, 2),
    (.add ⟨.i32, .always, 2, none, some ⟨.l, 1⟩⟩ ⟨false, 0, 0⟩, 2),
    (.add ⟨.i32, .always, 2, some ⟨.l, 1⟩, none⟩ ⟨true, 0, 0⟩, 2),
    (.add ⟨.i32, .always, 1, some ⟨.l, 1⟩, none⟩ ⟨false, 0, 0⟩, 2),
    (.add ⟨.i32, .always, 2, some ⟨.l, 1⟩, none⟩ ⟨false, 0, 1⟩, 2),
    (.add ⟨.i32, .always, 2, some ⟨.l, 1⟩, none⟩ ⟨false, 1, 0⟩, 2),
    (.mov ⟨.i32, .always, 1, some ⟨.l, 1⟩, none⟩ ⟨false, 1, 0⟩, 2),
    (.mov ⟨.f16, .always, 0, some ⟨.l, 1⟩, none⟩ ⟨true, 0, 2049⟩, 2),
    (.mov ⟨.f16, .always, 0, some ⟨.l, 1⟩, none⟩ ⟨true, 0, 65536⟩, 2),
    (.mov ⟨.bf16, .always, 0, some ⟨.l, 1⟩, none⟩ ⟨true, 0, 257⟩, 2),
    (.mov ⟨.e4m3, .always, 0, some ⟨.l, 1⟩, none⟩ ⟨true, 0, 17⟩, 2),
    (.mov ⟨.e5m2, .always, 0, some ⟨.l, 1⟩, none⟩ ⟨true, 0, 9⟩, 2),
    (.movi ⟨.i32, .always, 1, some ⟨.l, 1⟩, none⟩ ⟨true, 0, 0⟩, 2),
    (.movk ⟨.i16, .always, 1, some ⟨.l, 1⟩, none⟩ ⟨true, 1, 0⟩, 2),
    (.movk ⟨.i64, .always, 1, some ⟨.l, 1⟩, none⟩ ⟨true, 0, 65536⟩, 2),
    (.inTok ⟨.i32, .always, 0, some ⟨.l, 1⟩, none⟩ ⟨0, 6, 0⟩, 2),
    (.inTok ⟨.i32, .always, 0, some ⟨.l, 1⟩, none⟩ ⟨0, 2, 0x1000⟩, 2),
    (.outTok ⟨.i32, .always, 1, none, none⟩ ⟨0, 3, 256⟩, 2),
    (.outTok ⟨.i32, .always, 1, none, none⟩ ⟨0, 1, 1⟩, 2),
    (.rd ⟨.i32, .always, 0, some ⟨.l, 1⟩, none⟩ ⟨32, 0⟩, 2),
    (.wr ⟨.i32, .always, 1, none, none⟩ ⟨0, 1⟩, 2),
    (.sel ⟨.i32, .always, 1, some ⟨.l, 1⟩, none⟩ ⟨true, 0, 0⟩, 2),
    (.br ⟨.none, .always, 0, none, none⟩ ⟨true, 0, 64⟩, 2),
    (.br ⟨.none, .always, 0, none, none⟩ ⟨false, 0, 0⟩, 2),
    (.brc ⟨.none, .always, 1, none, none⟩ ⟨true, 0, 4096⟩, 2),
    (.null ⟨.i32, .always, 2, some ⟨.l, 1⟩, none⟩ ⟨false, 0, 0⟩, 2),
    (.tagnew ⟨.none, .always, 0, some ⟨.l, 1⟩, none⟩ ⟨0, 0, 16⟩, 2),
    (.tagfree ⟨.none, .always, 1, none, none⟩ ⟨1, 0, 0⟩, 2),
    (.tagset ⟨.none, .always, 2, some ⟨.l, 1⟩, none⟩ ⟨0, 1, 0⟩, 2),
    (.gettag ⟨.none, .always, 1, some ⟨.l, 1⟩, none⟩ ⟨0, 1, 0⟩, 2),
    (.count ⟨.none, .always, 0, some ⟨.l, 1⟩, none⟩ ⟨true, 0, 0⟩, 2),
    (.count ⟨.none, .always, 0, some ⟨.l, 1⟩, none⟩ ⟨true, 0, -1⟩, 2),
    (.rix ⟨.none, .always, 0, some ⟨.l, 1⟩, none⟩ ⟨false, 1, 0⟩, 2)] = true := by decide

/-- Each of these numbers breaks one condition of the word and is refused by its code. -/
theorem test_illformed_numbers : refusesAs [
    (.cmp ⟨.i32, .always, 2, some ⟨.l, 1⟩, none⟩ ⟨false, 6, 0⟩, 2),
    (.cvti ⟨.i32, .always, 0, some ⟨.l, 1⟩, none⟩ ⟨true, 0, 1⟩, 2),
    (.cvti ⟨.i32, .always, 1, some ⟨.l, 1⟩, none⟩ ⟨false, 0, 1⟩, 2),
    (.mad ⟨.i32, .always, 2, some ⟨.l, 1⟩, none⟩ ⟨false, 0, 0⟩, 2),
    (.abs ⟨.i32, .always, 2, some ⟨.l, 1⟩, none⟩ ⟨false, 0, 0⟩, 2),
    (.fadd ⟨.f32, .always, 2, some ⟨.l, 1⟩, none⟩ ⟨false, 5, 0⟩, 2),
    (.fmul ⟨.f16, .always, 1, some ⟨.l, 1⟩, none⟩ ⟨true, 0, 4097⟩, 2),
    (.fmin ⟨.f32, .always, 2, some ⟨.l, 1⟩, none⟩ ⟨false, 1, 0⟩, 2),
    (.fabs ⟨.f32, .always, 1, some ⟨.l, 1⟩, none⟩ ⟨false, 8, 0⟩, 2),
    (.fcmp ⟨.f32, .always, 2, some ⟨.l, 1⟩, none⟩ ⟨false, 8, 0⟩, 2),
    (.fclass ⟨.f32, .always, 0, some ⟨.l, 1⟩, none⟩ ⟨true, 0, 1⟩, 2),
    (.sqrt ⟨.f32, .always, 1, some ⟨.l, 1⟩, none⟩ ⟨false, 5, 0⟩, 2),
    (.ex2 ⟨.f32, .always, 0, some ⟨.l, 1⟩, none⟩ ⟨true, 0, 1⟩, 2),
    (.cvtf ⟨.f32, .always, 1, some ⟨.l, 1⟩, none⟩ ⟨false, 0, 7⟩, 2),
    (.cvtf ⟨.f32, .always, 1, some ⟨.l, 1⟩, none⟩ ⟨false, 5, 8⟩, 2),
    (.cvtfi ⟨.i32, .always, 1, some ⟨.l, 1⟩, none⟩ ⟨false, 0, 13⟩, 2),
    (.cvtif ⟨.f32, .always, 1, some ⟨.l, 1⟩, none⟩ ⟨false, 0, 8⟩, 2),
    (.fscale ⟨.f32, .always, 1, some ⟨.l, 1⟩, none⟩ ⟨true, 0, 1⟩, 2)] = true := by decide

/-- Each of these types breaks one condition of the word and is refused by its code. -/
theorem test_illformed_types : refusesAs [
    (.add ⟨.f32, .always, 2, some ⟨.l, 1⟩, none⟩ ⟨false, 0, 0⟩, 5),
    (.movi ⟨.f32, .always, 0, some ⟨.l, 1⟩, none⟩ ⟨true, 0, 1⟩, 5),
    (.br ⟨.i32, .always, 0, none, none⟩ ⟨true, 0, 0⟩, 5),
    (.mov ⟨.q4n, .always, 1, some ⟨.l, 1⟩, none⟩ ⟨false, 0, 0⟩, 5),
    (.fadd ⟨.e4m3, .always, 2, some ⟨.l, 1⟩, none⟩ ⟨false, 0, 0⟩, 5),
    (.fmin ⟨.i32, .always, 2, some ⟨.l, 1⟩, none⟩ ⟨false, 0, 0⟩, 5),
    (.fdiv ⟨.f16, .always, 2, some ⟨.l, 1⟩, none⟩ ⟨false, 0, 0⟩, 5),
    (.rcp ⟨.bf16, .always, 1, some ⟨.l, 1⟩, none⟩ ⟨false, 0, 0⟩, 5),
    (.cvtfi ⟨.f32, .always, 1, some ⟨.l, 1⟩, none⟩ ⟨false, 0, 8⟩, 5),
    (.cvtif ⟨.i32, .always, 1, some ⟨.l, 1⟩, none⟩ ⟨false, 0, 0⟩, 5),
    (.ld ⟨.mx, .always, 1, some ⟨.l, 1⟩, none⟩ ⟨0, 0, 0, 0⟩, 5),
    (.amo ⟨.i8, .always, 2, some ⟨.l, 1⟩, none⟩ ⟨0, 0, 0, 0⟩, 5),
    (.amo ⟨.f32, .always, 2, some ⟨.l, 1⟩, none⟩ ⟨0, 0, 3, 0⟩, 5),
    (.cas ⟨.f32, .always, 3, some ⟨.l, 1⟩, none⟩ ⟨0, 0, 0, 0⟩, 5),
    (.pref ⟨.i8, .always, 1, some ⟨.l, 1⟩, none⟩ ⟨0, 0, 0, 0⟩, 5),
    (.tread ⟨.none, .always, 0, some ⟨.l, 1⟩, none⟩ ⟨0, 0, 0, false, false, false, 0x2000⟩, 5),
    (.tscal ⟨.f16, .always, 1, some ⟨.l, 1⟩, none⟩ ⟨0, 0, 0, false, false, false, 0x0⟩, 5),
    (.tcvt ⟨.q4n, .always, 0, some ⟨.l, 1⟩, none⟩ ⟨0, 0, 0, false, false, false, 0x0⟩, 5),
    (.tcfg ⟨.i8, .always, 0, some ⟨.l, 1⟩, none⟩ ⟨0, 0, 0, false, false, false, 0x0⟩, 5),
    (.pdecl ⟨.i8, .always, 1, some ⟨.l, 1⟩, none⟩ ⟨0, 0⟩, 5),
    (.pset ⟨.f32, .always, 0, some ⟨.l, 1⟩, none⟩ ⟨0, 0⟩, 5),
    (.strm ⟨.i8, .always, 1, some ⟨.l, 1⟩, none⟩ ⟨0, 0⟩, 5),
    (.call ⟨.i8, .always, 1, some ⟨.l, 1⟩, none⟩ ⟨2048, 0⟩, 5),
    (.srd ⟨.i64, .always, 0, some ⟨.l, 1⟩, none⟩ ⟨0, 0⟩, 5),
    (.halt ⟨.i8, .always, 0, some ⟨.l, 1⟩, none⟩ ⟨0, 0⟩, 5)] = true := by decide

/-- Each of these memory breaks one condition of the word and is refused by its code. -/
theorem test_illformed_memory : refusesAs [
    (.ld ⟨.i32, .always, 1, some ⟨.l, 1⟩, none⟩ ⟨4, 0, 0, 0⟩, 2),
    (.ld ⟨.i32, .always, 1, some ⟨.l, 1⟩, none⟩ ⟨0, 6, 0, 0⟩, 2),
    (.ld ⟨.i32, .always, 1, some ⟨.l, 1⟩, none⟩ ⟨1, 1, 0, 0⟩, 2),
    (.ld ⟨.i32, .always, 1, some ⟨.l, 1⟩, none⟩ ⟨0, 0, 2, 0⟩, 2),
    (.ld ⟨.i32, .always, 0, some ⟨.l, 1⟩, none⟩ ⟨0, 0, 0, 0⟩, 2),
    (.ld ⟨.i32, .always, 1, some ⟨.l, 1⟩, none⟩ ⟨0, 0, 1, 0⟩, 2),
    (.st ⟨.i32, .always, 2, some ⟨.l, 1⟩, none⟩ ⟨0, 0, 1, 0⟩, 2),
    (.st ⟨.i32, .always, 1, some ⟨.l, 1⟩, none⟩ ⟨3, 0, 0, 0⟩, 2),
    (.ldl ⟨.i32, .always, 1, some ⟨.l, 1⟩, none⟩ ⟨1, 0, 0, 8⟩, 2),
    (.ldl ⟨.i32, .always, 1, some ⟨.l, 1⟩, none⟩ ⟨0, 0, 0, 4⟩, 2),
    (.ldl ⟨.i32, .always, 1, some ⟨.l, 1⟩, none⟩ ⟨0, 0, 0, 64⟩, 2),
    (.ldl ⟨.i32, .always, 1, some ⟨.l, 1⟩, none⟩ ⟨0, 0, 0, 10⟩, 2),
    (.amo ⟨.i32, .always, 2, some ⟨.l, 1⟩, none⟩ ⟨3, 0, 0, 0⟩, 2),
    (.amo ⟨.i32, .always, 2, some ⟨.l, 1⟩, none⟩ ⟨0, 0, 7, 0⟩, 2),
    (.cas ⟨.i32, .always, 3, some ⟨.l, 1⟩, none⟩ ⟨0, 0, 1, 0⟩, 2),
    (.oamo ⟨.i32, .always, 3, some ⟨.l, 1⟩, none⟩ ⟨1, 0, 0, 0⟩, 2),
    (.pref ⟨.none, .always, 1, some ⟨.l, 1⟩, none⟩ ⟨1, 0, 0, 0⟩, 2),
    (.ojoin ⟨.none, .always, 0, some ⟨.l, 1⟩, none⟩ ⟨0, 0, 0, 0⟩, 2),
    (.ojoin ⟨.none, .always, 1, some ⟨.l, 1⟩, none⟩ ⟨0, 0, 0, 8⟩, 2),
    (.falloc ⟨.none, .always, 0, some ⟨.l, 1⟩, none⟩ ⟨2, 0, 0, 0⟩, 2),
    (.falloc ⟨.none, .always, 1, some ⟨.l, 1⟩, none⟩ ⟨2, 0, 0, 1⟩, 2),
    (.falloc ⟨.none, .always, 0, some ⟨.l, 1⟩, none⟩ ⟨0, 0, 0, 8⟩, 2),
    (.ffree ⟨.none, .always, 0, some ⟨.l, 1⟩, none⟩ ⟨2, 0, 0, 0⟩, 2)] = true := by decide

/-- Each of these tile breaks one condition of the word and is refused by its code. -/
theorem test_illformed_tile : refusesAs [
    (.tcfg ⟨.none, .always, 0, some ⟨.l, 1⟩, none⟩ ⟨0, 1, 0, false, false, false, 0x3f7⟩, 2),
    (.tcfg ⟨.none, .always, 0, some ⟨.l, 1⟩, none⟩ ⟨0, 15, 0, false, false, false, 0x3f7⟩, 2),
    (.tcfg ⟨.none, .always, 0, some ⟨.l, 1⟩, none⟩ ⟨0, 14, 0, false, false, false, 0xff7⟩, 2),
    (.tcfg ⟨.none, .always, 0, some ⟨.l, 1⟩, none⟩ ⟨0, 0, 0, false, false, false, 0x7f7⟩, 2),
    (.tcfg ⟨.none, .always, 0, some ⟨.l, 1⟩, none⟩ ⟨0, 13, 0, false, false, false, 0x3e0⟩, 2),
    (.tcfg ⟨.none, .always, 0, some ⟨.l, 1⟩, none⟩ ⟨0, 14, 0, false, false, false, 0xbe1⟩, 2),
    (.tcfg ⟨.none, .always, 1, some ⟨.l, 1⟩, none⟩ ⟨0, 1, 0, false, false, false, 0x0⟩, 2),
    (.tld ⟨.none, .always, 2, some ⟨.l, 1⟩, none⟩ ⟨0, 0, 0, false, false, false, 0x6⟩, 2),
    (.tst ⟨.none, .always, 0, some ⟨.l, 1⟩, none⟩ ⟨0, 0, 0, false, false, false, 0x0⟩, 2),
    (.tzero ⟨.none, .always, 0, some ⟨.l, 1⟩, none⟩ ⟨0, 0, 0, false, false, false, 0x3⟩, 2),
    (.mma ⟨.none, .always, 1, some ⟨.l, 1⟩, none⟩ ⟨0, 0, 0, true, true, false, 0x0⟩, 2),
    (.mma ⟨.none, .always, 0, some ⟨.l, 1⟩, none⟩ ⟨0, 0, 0, false, true, false, 0x0⟩, 2),
    (.mma ⟨.none, .always, 0, some ⟨.l, 1⟩, none⟩ ⟨0, 0, 0, false, false, false, 0x4⟩, 2),
    (.mmasp ⟨.none, .always, 0, some ⟨.l, 1⟩, none⟩ ⟨0, 0, 0, false, false, false, 0x0⟩, 2),
    (.mmasp ⟨.none, .always, 0, some ⟨.l, 1⟩, none⟩ ⟨0, 1, 0, false, false, true, 0x0⟩, 2),
    (.mmasp ⟨.none, .always, 0, some ⟨.l, 1⟩, none⟩ ⟨0, 0, 0, false, false, true, 0x2⟩, 2),
    (.tbind ⟨.none, .always, 0, some ⟨.l, 1⟩, none⟩ ⟨0, 0, 0, false, false, false, 0x100⟩, 2),
    (.tfree ⟨.none, .always, 0, some ⟨.l, 1⟩, none⟩ ⟨1, 0, 0, false, false, false, 0x1⟩, 2),
    (.tread ⟨.f32, .always, 0, some ⟨.l, 1⟩, none⟩ ⟨1, 0, 0, false, false, false, 0x2000⟩, 2),
    (.tread ⟨.f32, .always, 0, some ⟨.l, 1⟩, none⟩ ⟨0, 0, 1, false, false, false, 0x0⟩, 2),
    (.twrite ⟨.f32, .always, 0, some ⟨.l, 1⟩, none⟩ ⟨0, 0, 0, false, false, false, 0x0⟩, 2),
    (.tscal ⟨.f32, .always, 1, some ⟨.l, 1⟩, none⟩ ⟨0, 0, 0, false, false, false, 0x5⟩, 2),
    (.tcvt ⟨.f32, .always, 0, some ⟨.l, 1⟩, none⟩ ⟨0, 0, 0, false, false, false, 0x5⟩, 2),
    (.tcvt ⟨.mx, .always, 0, some ⟨.l, 1⟩, none⟩ ⟨0, 0, 0, false, false, false, 0x30⟩, 2),
    (.tamax ⟨.none, .always, 0, some ⟨.l, 1⟩, none⟩ ⟨1, 0, 1, false, false, false, 0x0⟩, 2),
    (.ttrans ⟨.none, .always, 0, some ⟨.l, 1⟩, none⟩ ⟨0, 0, 0, false, false, false, 0x1⟩, 2),
    (.acon ⟨.none, .always, 1, some ⟨.l, 1⟩, none⟩ ⟨1, 0, 0, false, false, false, 0x0⟩, 2)] = true := by decide

/-- Each of these resources breaks one condition of the word and is refused by its code. -/
theorem test_illformed_resources : refusesAs [
    (.pdecl ⟨.f32, .always, 1, none, none⟩ ⟨512, 0⟩, 2),
    (.pcon ⟨.f32, .always, 2, none, none⟩ ⟨0, 0xc001⟩, 2),
    (.prd ⟨.f32, .always, 1, none, none⟩ ⟨0, 16⟩, 2),
    (.pset ⟨.none, .always, 0, none, none⟩ ⟨0, 16⟩, 2),
    (.pexp ⟨.none, .always, 0, none, none⟩ ⟨0, 0⟩, 2),
    (.pstat ⟨.none, .always, 0, none, none⟩ ⟨0, 1⟩, 2),
    (.strm ⟨.none, .always, 1, none, none⟩ ⟨19, 0⟩, 2),
    (.strm ⟨.none, .always, 1, none, none⟩ ⟨2048, 0⟩, 2),
    (.strmi ⟨.none, .always, 3, none, none⟩ ⟨16, 0⟩, 2),
    (.strmi ⟨.none, .always, 3, none, none⟩ ⟨0, 0xd000⟩, 2),
    (.strmi ⟨.none, .always, 3, none, none⟩ ⟨0, 14⟩, 2),
    (.strmi ⟨.none, .always, 3, none, none⟩ ⟨0, 32⟩, 2),
    (.sstop ⟨.none, .always, 0, none, none⟩ ⟨0, 2⟩, 2),
    (.cpy ⟨.none, .always, 1, none, none⟩ ⟨16, 0⟩, 2),
    (.tlw ⟨.none, .always, 0, none, none⟩ ⟨64, 0⟩, 2),
    (.ringaw ⟨.none, .always, 0, none, none⟩ ⟨16, 0⟩, 2),
    (.pbinv ⟨.none, .always, 0, none, none⟩ ⟨1, 0⟩, 2),
    (.call ⟨.none, .always, 1, none, none⟩ ⟨2049, 0⟩, 2),
    (.call ⟨.none, .always, 2, none, none⟩ ⟨2048, 9⟩, 2),
    (.ret ⟨.none, .always, 0, none, none⟩ ⟨0, 1⟩, 2),
    (.kload ⟨.none, .always, 1, none, none⟩ ⟨0, 2⟩, 2),
    (.launch ⟨.none, .always, 1, none, none⟩ ⟨0, 2⟩, 2),
    (.gpatch ⟨.none, .always, 2, none, none⟩ ⟨0, 0⟩, 2),
    (.doneI ⟨.none, .always, 0, none, none⟩ ⟨0, 1⟩, 2),
    (.bar ⟨.none, .always, 0, none, none⟩ ⟨16, 0⟩, 2),
    (.bar ⟨.none, .always, 0, none, none⟩ ⟨0, 1024⟩, 2),
    (.sealI ⟨.none, .always, 2, none, none⟩ ⟨0, 0⟩, 2),
    (.irrev ⟨.none, .always, 2, none, none⟩ ⟨0, 2⟩, 2),
    (.ivrd ⟨.none, .always, 0, none, none⟩ ⟨0, 3⟩, 2),
    (.srd ⟨.none, .always, 0, none, none⟩ ⟨10, 0⟩, 2),
    (.swr ⟨.none, .always, 1, none, none⟩ ⟨37, 0⟩, 2),
    (.trap ⟨.none, .always, 2, none, none⟩ ⟨0, 0⟩, 2),
    (.leave ⟨.none, .always, 0, none, none⟩ ⟨0, 0⟩, 2),
    (.halt ⟨.none, .always, 0, none, none⟩ ⟨0, 1⟩, 2),
    (.crypt ⟨.none, .always, 3, none, none⟩ ⟨2, 0⟩, 2),
    (.meas ⟨.none, .always, 1, none, none⟩ ⟨16, 0⟩, 2),
    (.wdog ⟨.none, .always, 0, none, none⟩ ⟨1, 0⟩, 2)] = true := by decide

/-! ### Witnesses: a state and operands that meet the hypotheses of each statement -/

/-- A machine about to run a word, with these tokens in its positions l, r, x and g (log 35). -/
def ready (i : Instr) (toks : List Token := []) : State :=
  let w := (encode i).getD 0
  let f : FireRef := { u := placeUnit (wOp w) }
  (focusOn (State.reset.withFetchWord 64 w.toNat) f 0).modFiring f fun (g : Firing) =>
    { g with pos := (upFrom 0 toks.length).foldl (fun p k => tabSet p k (toks.getD k {})) g.pos }

/-- The gate lets a well-formed word run at a state, and its issue meets a condition. -/
def runs (s : State) (i : Instr) (side carries ownN : Bool) (ok : Issue → Bool := fun _ => true) : Bool :=
  wellFormed i &&
  match wordParts i with
  | none => false
  | some (_, h, _) =>
    match gate s h side carries ownN with
    | .run j => ok j
    | _ => false

/-- A token of a payload. -/
def tk (n : Word) : Token := { pay := n }

/-- A write by system core 0. -/
def coreWrites (num : Nat) (val : Word) : RegWrite := { by_ := .unit (coreKey 0), num := num, val := val }

/-- A state whose context 0 runs, with translation on. -/
def live : State := (State.reset.modCtx 0 fun (c : Ctx) => { c with st := .running, nreg := 1 }).setCtx 0 8 1

/-- Virtual page 0 of context 0 maps to physical 0x100000 with every right, on die 0; the partition owns the granule. -/
def mapped (s : State) : State :=
  { s.setCtx 0 8 1 with
    tlbs := [{ die := 0, ctx := 0, va := 0, size := 65536, leaf := 0x1000E7, lvl := 3 }]
    mem := [(0x90, 1)] }

/-- Each integer word of R121 and R122 runs on tokens. -/
theorem wit_IntegerResults :
    (([.add ⟨.i8, .always, 2, none, none⟩ {}, .sub ⟨.n8, .always, 2, none, none⟩ {}, .mul ⟨.i32, .always, 1, none, none⟩ ⟨true, 0, -1⟩,
       .mad ⟨.i32, .always, 3, none, none⟩ {}, .mulh ⟨.i64, .always, 2, none, none⟩ {}, .div ⟨.i32, .always, 2, none, none⟩ {},
       .rem ⟨.n16, .always, 2, none, none⟩ {}, .min ⟨.i8, .always, 2, none, none⟩ {}, .max ⟨.n64, .always, 2, none, none⟩ {},
       .abs ⟨.i8, .always, 1, none, none⟩ {}, .neg ⟨.i16, .always, 1, none, none⟩ {}, .adds ⟨.i8, .always, 2, none, none⟩ {},
       .subs ⟨.n8, .always, 2, none, none⟩ {}, .and ⟨.n8, .always, 2, none, none⟩ {}, .or ⟨.i8, .always, 2, none, none⟩ {},
       .xor ⟨.i8, .always, 2, none, none⟩ {}, .andn ⟨.i8, .always, 2, none, none⟩ {}, .clz ⟨.i32, .always, 1, none, none⟩ {},
       .popc ⟨.n16, .always, 1, none, none⟩ {}] : List Instr).all fun i =>
      (intRow i).isSome && runs (ready i [tk 0x80, tk 0]) i false false false) = true := by decide

theorem wit_ShiftResults :
    (([.shl ⟨.i32, .always, 2, none, none⟩ {}, .shr ⟨.i8, .always, 2, none, none⟩ {}, .rot ⟨.n8, .always, 1, none, none⟩ ⟨true, 0, 9⟩] : List Instr).all fun i =>
      (shiftRow i).isSome && runs (ready i [tk 0xF9, tk 33]) i false false false) = true := by decide

theorem wit_RegisterWrites_widthClear :
    let w : RegWrite := { by_ := .unit (unitKey 7 63 15), num := 0x101, val := 0x8000000000000000 }
    w.num = 0x101 ∧ isNode (unitKey 7 63 15) = false ∧ isCore (unitKey 7 63 15) = false ∧ wbit w.val 63 = true := by decide

theorem wit_RegisterWrites_clears :
    ([0x011, 0x007, 0x30C, 0x280, 0x302].all fun n =>
      let w := coreWrites n 0x8000000000000000
      decide (w.num = n ∧ writeReaches State.reset w = true ∧ wbit w.val 63 = true ∧ State.reset.sealHost = false ∧ State.reset.sealing.asked = false)) = true := by decide

theorem wit_RegisterWrites_windows :
    ([0, 15].all fun n =>
      let on := coreWrites (0x200 + 8 * n) 0x8000000000000000
      let s := State.reset.setDie 0 (0x200 + 8 * n) 0x8000000000000000
      decide (on.num = 0x200 + 8 * n ∧ writeReaches State.reset on = true ∧ wbit on.val 63 = true ∧ wbit (winCtl State.reset (writeDie on) n) 63 = false) &&
      decide (writeReaches s (coreWrites (0x200 + 8 * n) 0) = true ∧ wbit (winCtl s (writeDie (coreWrites (0x200 + 8 * n) 0)) n) 63 = true)) = true := by decide

theorem wit_RegisterWrites_rings :
    let w : RegWrite := { by_ := .ctxWindow 0, num := 0x05F, ctx := 255, val := 7 }
    writesTo State.reset w (0x050 + 15) ∧ writeCtx State.reset w = 255 ∧
      ringFill State.reset 255 15 = ringRel State.reset 255 15 ∧ ringNamed State.reset 255 15 = false ∧
      (let s := State.reset.setCtx 255 0x6F 1
       writesTo s w (0x050 + 15) ∧ ringFill s 255 15 ≠ ringRel s 255 15) := by unfold writesTo; decide

theorem wit_RegisterWrites_einj :
    let s := State.reset
    unitSecure s (coreKey 0) = true ∧ wbit (s.devReg 0x309) 63 = false ∧
      wbit (0xC000000000000040 : Word) 63 = true ∧ wbit (0xC000000000000040 : Word) 62 = true ∧
      wbit (0x8000000000000040 : Word) 63 = true ∧ wbit (0x8000000000000040 : Word) 62 = false := by decide

theorem wit_RegisterWrites_duty :
    writesTo State.reset (coreWrites 0x305 0x3F) 0x305 ∧
      (let s := State.reset.setDev 0x305 8
       wbit (s.devReg 0x305) 3 ≠ s.powerHost ∧ s.clk % 1024 = 0) := by unfold writesTo; decide

theorem wit_RegisterWrites_sysreg :
    rowsOf (coreWrites 0x022 1) = [] ∧ writesTo State.reset (coreWrites 0x022 1) 0x022 ∧
      (let w : RegWrite := { by_ := .ctxWindow 5, num := 0x022, val := 1 }
       rowsOf w = [] ∧ w.num < 0x400 ∧ writeReaches State.reset w = false) := by unfold writesTo; decide

theorem wit_ContextEvents_ctl :
    let c := coreWrites 0x005 0x8000000000000000
    let s := live.setCtx 0 4 16
    let v := State.reset.modCtx 0 fun (c : Ctx) => { c with st := .saved }
    (writesTo s c 0x005 ∧ wbit c.val 63 = true ∧ (s.ctx (writeCtx s c)).st = .running ∧ noSave s (writeCtx s c) = false) ∧
    (writesTo live c 0x005 ∧ (live.ctx (writeCtx live c)).st = .running ∧ noSave live (writeCtx live c) = true ∧ wbit c.val 62 = false) ∧
    (let w := coreWrites 0x005 0x4000000000000000
     writesTo v w 0x005 ∧ wbit w.val 63 = false ∧ wbit w.val 62 = true ∧ (v.ctx (writeCtx v w)).st = .saved) := by
  unfold writesTo; decide

/-- A saved region of 1 × 2 clusters finds the free one of its shape, and none when the shapes differ. -/
theorem wit_ContextEvents_resume :
    let r : Region := { width := 1, height := 2 }
    let v : Saved := { regions := [{ region := r }] }
    let c : Ctx := { st := .saved, saved := some v, resume := true, nreg := 1 }
    let s := (State.reset.modCtx 9 fun _ => c).modRegion (regKey 9 0) fun _ => r
    ((s.ctx 9).st = .saved ∧ (s.ctx 9).saved = some v ∧ (s.ctx 9).resume = true ∧ (placeAll s 9 [] v.regions).isSome = true) ∧
    (let t := s.modRegion (regKey 9 0) fun (q : Region) => { q with height := 1 }
     (t.ctx 9).st = .saved ∧ (t.ctx 9).saved = some v ∧ (t.ctx 9).resume = true ∧ placeAll t 9 [] v.regions = none) := by decide

/-- The firmware's tables: a walk through two levels finds a leaf; through empty tables it faults. -/
theorem wit_TranslationEvents_walks :
    let w : Walk := { id := 4, die := 0, ctx := fwCtx, va := 0x1234, kind := 1, who := .fire { u := coreKey 0 } }
    let s : State := { State.reset.setDev 0x30E 0x10001 with walks := [w], mem := [(0x10000, 1), (0x10002, 2), (0x20000, 7)] }
    (s.walks.find? fun v => v.id == 4) = some w ∧ w.who ≠ .other ∧
      (walkNow { s with walks := [] } 0 fwCtx 0x1234 1 false false).1 = .ok 0x1234 0x47 := by decide

theorem wit_TranslationEvents_fault :
    let f : FireRef := { u := unitKey 0 0 0 }
    let w : Walk := { id := 4, die := 0, ctx := 0, va := 0, kind := 1, who := .fire f }
    let s : State := { (ready (.rix ⟨.none, .always, 0, none, none⟩ {})).setCtx 0 8 1 with walks := [w] }
    let r := walkNow { s with walks := s.walks.filter fun v => v.id ≠ 4 } 0 0 0 1 true false
    (s.walks.find? fun v => v.id == 4) = some w ∧ r.1 = .fault 0x20 0 ∧
      (r.2.firing? f).any (fun g => g.st == .running && g.started) = true := by decide

theorem wit_TranslationEvents_tlbi :
    let s := State.reset.modCtx 0 fun (c : Ctx) => { c with pends := [{ va := 0x10000 }] }
    (writesTo s (coreWrites 0x00B 0x8000000000000000) 0x00B ∧ wbit (0x8000000000000000 : Word) 62 = false ∧ wbit (0x8000000000000000 : Word) 63 = true) ∧
    (writesTo s (coreWrites 0x00B 0x10000) 0x00B ∧ wbit (0x10000 : Word) 62 = false ∧ wbit (0x10000 : Word) 63 = false) ∧
    (let w := coreWrites 0x00B 0xC000000000000000
     writesTo s w 0x00B ∧ wbit w.val 62 = true ∧ wbit w.val 63 = true ∧ (s.ctx (writeCtx s w)).pends = [{ va := 0x10000 }]) ∧
    (let v : TlbInv := { id := 3, wait := [5] }
     let a : State := { State.reset with invs := [v] }
     let b : State := { a with outstanding := [5] }
     (a.invs.find? fun u => u.id == 3) = some v ∧ a.live v.wait = [] ∧ b.live v.wait ≠ []) := by unfold writesTo; decide

theorem wit_PowerEvents :
    let s := State.reset.setDev 0x30A 1024
    let l : Leave := { who := .inst { u := 0 } 3, since := 1000, len := 64 }
    let t := s.modDie 7 fun (d : Die) => { d with leaves := [l, { who := .load 7 3 2 }] }
    let p := s.setDev 0x305 0x808
    ((s.cluster 7 63).period + 1024 ≤ s.clk ∧ s.powerHost = false) ∧
    ((p.cluster 7 63).period + 1024 ≤ p.clk ∧ p.powerHost = true) ∧
    ((t.die 7).leaves = [l, { who := .load 7 3 2 }] ∧ ∀ m ∈ ([l, { who := .load 7 3 2 }] : List Leave), m.until_ = none) ∧
    ((1 : Nat) ≤ 1 ∧ (65535 : Nat) < 65536 ∧ 85 * 16 < 65535 ∧ (82 * 16 - 1 : Nat) < 82 * 16 ∧ (82 * 16 : Nat) ≤ 85 * 16) := by decide

/-- Queue 3 of partition 0, whose function is 1, with this state; context 0 is created. -/
def withQueue (v : Queue) (host : Mem := []) : State :=
  { ((State.reset.setDev 0x306 1).modCtx 0 fun (c : Ctx) => { c with st := .idle }).modQueue 3 fun _ => v with
    mem := [(0, 1), (2, 1), (10, 4)], hostMem := host }

theorem wit_QueueCommands :
    let s := withQueue {}
    let w : QueueWrite := { fn := 1, q := 3, off := 8 }
    fnReaches s 1 3 = true ∧ (3 : Nat) < 1024 ∧ w.off = 8 ∧ (s.queue 3).st = .disabled ∧
      (wbits (0x2000000000000000 : Word) 63 61 = 1 ∧ wbits (0x4000000000000000 : Word) 63 61 = 2 ∧
       wbits (0x6000000000000000 : Word) 63 61 = 3 ∧ wbits (0x8000000000000000 : Word) 63 61 = 4 ∧
       wbits (0xA000000000000000 : Word) 63 61 = 5) ∧
      (let wait : Pkt := { bytes := [5] }
       let nop : Pkt := { bytes := [7], met := true }
       let idle := withQueue { st := .idle }
       let a0 := withQueue { st := .active }
       let a1 := withQueue { st := .active, pkts := [nop] }
       let a2 := withQueue { st := .active, pkts := [wait] }
       let quiet := withQueue { st := .quiesced }
       let err := withQueue { st := .error }
       (fnReaches idle 1 3 = true ∧ (idle.queue 3).st = .idle) ∧
       (fnReaches a0 1 3 = true ∧ (a0.queue 3).st = .active ∧ (a0.queue 3).pkts = []) ∧
       (fnReaches a1 1 3 = true ∧ (a1.queue 3).st = .active ∧ (a1.queue 3).pkts = [] ++ [nop] ∧ (fld nop.bytes 0 1 ≠ 5 ∨ nop.met = true)) ∧
       (fnReaches a2 1 3 = true ∧ (a2.queue 3).st = .active ∧ (a2.queue 3).pkts = [] ++ [wait] ∧ fld wait.bytes 0 1 = 5 ∧ wait.met = false) ∧
       (fnReaches quiet 1 3 = true ∧ (quiet.queue 3).st = .quiesced) ∧
       (fnReaches err 1 3 = true ∧ (err.queue 3).st = .error ∧ (err.queue 3).pkts = [] ∧ (err.ctx (err.queue 3).ctx).st ≠ .free)) ∧
      -- a doorbell at the last place it may name, and one past it
      ((16 + 2 ^ 32 - (s.queue 3).head) % 2 ^ 32 ≤ 2 ^ (wbits (s.queue 3).base 3 0 + 4) ∧
       ¬ (17 + 2 ^ 32 - (s.queue 3).head) % 2 ^ 32 ≤ 2 ^ (wbits (s.queue 3).base 3 0 + 4)) := by decide

/-- An active queue of a host ring with this packet in its first slot. -/
def withPacket (host : Mem) : State := withQueue { base := 0x800, st := .active, tail := 1 } host

/-- The queue's next packet starts, and its bytes meet a condition. -/
def startsWith (s : State) (ok : List Byte → State → Bool) : Bool :=
  mayFetch (s.queue 3) && !outranked s 3 && !s.fw.switching && !s.fw.updating &&
  match fetchPacket s 3 (s.queue 3).head with
  | (.ok b, t) => orderFree (s.queue 3) b && decide (1 ≤ fld b 0 1 ∧ fld b 0 1 ≤ 7 ∧ packetZeros b = true) && ok b t
  | _ => false

theorem wit_QueuePackets_starts :
    startsWith (withPacket [(0, 7)]) (fun b _ => fld b 0 1 == 7) = true ∧
    startsWith (withPacket [(0, 4)]) (fun b _ => fld b 0 1 == 4) = true ∧
    startsWith (withPacket [(0, 5)]) (fun b _ => fld b 0 1 == 5) = true ∧
    startsWith { withPacket [(0, 6), (0x18, 1)] with dev := [(0x300, 2), (0x306, 1)] }
      (fun b t => fld b 0 1 == 6 && (if fld b 0x18 6 = 0 then t.iv else fld b 0x18 6) < t.iv) = true ∧
    startsWith (withPacket [(0, 6)]) (fun b t => fld b 0 1 == 6 && t.iv ≤ (if fld b 0x18 6 = 0 then t.iv else fld b 0x18 6)) = true ∧
    startsWith { withPacket [(0, 3), (0x18, 64)] with groups := [{ ctx := 0, addr := 64, nnode := 1 }] }
      (fun b t => fld b 0 1 == 3 && (group? t (t.queue 3).ctx (fld b 0x18 8)).any fun g => fld b 0x20 4 < g.nnode) = true ∧
    startsWith { withPacket [(0, 2), (0x18, 64)] with groups := [{ ctx := 0, addr := 64, nnode := 1 }] }
      (fun b t => fld b 0 1 == 2 && (group? t (t.queue 3).ctx (fld b 0x18 8)).isSome) = true ∧
    startsWith (withPacket [(0, 2), (0x18, 64)])
      (fun b t => fld b 0 1 == 2 && (group? t (t.queue 3).ctx (fld b 0x18 8)).isNone) = true ∧
    startsWith (withPacket [(0, 1), (0x18, 64)]) (fun b t => fld b 0 1 == 1 && !t.groupHost && descOk t (descOf (b.drop 0x18))) = true ∧
    startsWith (withPacket [(0, 1), (0x18, 64), (0x20, 1)]) (fun b t => fld b 0 1 == 1 && !descOk t (descOf (b.drop 0x18))) = true := by decide

theorem wit_QueuePackets_refused :
    ([(0, false), (8, false), (255, false), (7, true)].all fun k =>
      let s := withPacket (if k.2 then [(0, 7), (0x3F, 1)] else if k.1 = 0 then [] else [(0, BitVec.ofNat 8 k.1)])
      mayFetch (s.queue 3) && !outranked s 3 && !s.fw.switching && !s.fw.updating &&
      match fetchPacket s 3 (s.queue 3).head with
      | (.ok b, _) => orderFree (s.queue 3) b && (if k.2 then decide (1 ≤ fld b 0 1 ∧ fld b 0 1 ≤ 7 ∧ packetZeros b = false)
          else decide (fld b 0 1 = 0 ∨ 7 < fld b 0 1))
      | _ => false) = true := by decide

theorem wit_QueuePackets_completes :
    let p : Pkt := { bytes := [7], met := true }
    let q : Pkt := { idx := 1, bytes := [7], met := true }
    let one := withQueue { base := 0x800, st := .active, pkts := [p] }
    let two := withQueue { base := 0x800, st := .active, pkts := [p, q] }
    let last := withQueue { base := 0x800, st := .draining, pkts := [p] }
    p.met = true ∧ p.launch = none ∧
    ((one.queue 3).pkts = p :: [] ∧ wbit (one.queue 3).base 11 = true ∧ (one.queue 3).st = .active ∧ (one.queue 3).head = (one.queue 3).tail) ∧
    ((two.queue 3).pkts = p :: [q] ∧ wbit (two.queue 3).base 11 = true ∧ (two.queue 3).st = .active ∧ [q] ≠ []) ∧
    ((last.queue 3).pkts = p :: [] ∧ wbit (last.queue 3).base 11 = true ∧ (last.queue 3).st = .draining) := by decide

/-- A WAIT of a word of a mapped page: its address, REF and COND are 0. -/
theorem wit_QueuePackets_wait :
    let p : Pkt := { bytes := [5] }
    let s : State := { mapped (withQueue { st := .active, pkts := [p] }) with mem := [(0, 1), (2, 1), (10, 4), (0x90, 1), (0x100000, 7)] }
    (s.queue 3).pkts = [] ++ [p] ∧ fld p.bytes 0 1 = 5 ∧ p.met = false ∧ frontHeld s (s.queue 3).ctx (fld p.bytes 0x18 8) 8 = false ∧
      (readV s 0 (s.queue 3).ctx false (fld p.bytes 0x18 8) 8).1 = .ok [7, 0, 0, 0, 0, 0, 0, 0] false ∧
      (readV s 0 (s.queue 3).ctx false (fld p.bytes 0x18 8) 8).2.queue 3 = s.queue 3 := by decide +kernel

/-! The larger areas: a save area written and read through one mapping. -/

theorem memNat_congr {m m' : Mem} : ∀ (n a : Nat), (∀ i, a ≤ i → i < a + n → memGet m i = memGet m' i) → memNat m a n = memNat m' a n
  | 0, _, _ => rfl
  | n + 1, a, h => by
    have := memNat_congr n (a + 1) (fun i h1 h2 => h i (by omega) (by omega))
    simp only [memNat, memBytes, natOfBytes] at *
    rw [h a (by omega) (by omega), this]

/-- A device with an image in the cache of die 0. -/
def stagedDev : State := State.reset.modDie 0 fun (d : Die) => { d with images := [{}] }

/-- Context 0 in a state, with region 0 of one cluster and an image in the cache, a mapping of 64 MiB from virtual 0, and this memory above it. -/
def area (st : CtxSt) (v : Option Saved) (kr : Option KRef) (ph : Phase) (top : Mem) (bad : List Nat) : State :=
  { ((stagedDev.modCtx 0 fun _ => { st := st, saved := v, nreg := 1, regs := [(8, 1)] }).modRegion 0 fun (r : Region) =>
      { r with width := 1, height := 1, kref := kr, phase := ph }) with
    tlbs := [wideTlb], mem := (0x90, 1) :: top, poison := bad }

theorem area_mapped (st : CtxSt) (v : Option Saved) (kr : Option KRef) (ph : Phase) (top : Mem) (bad : List Nat) :
    Mapped (area st v kr ph top bad) where
  on := by
    have : rootOf (area st v kr ph top bad) 0 = (0, true) := by
      have e : (area st v kr ph top bad).ctxReg 0 8 = 1 := rfl
      simp only [rootOf, e]
      rw [if_neg (by decide)]; decide
    rw [this]
  tlb := rfl
  calm := by
    have : (area st v kr ph top bad).devReg 0x309 = stagedDev.devReg 0x309 := rfl
    rw [this]; decide
  wins n hn := by
    have e : winCtl (area st v kr ph top bad) 0 n = winCtl stagedDev 0 n := rfl
    rw [e]; clear e; revert n; decide
  held := rfl
  undo := rfl
  same _ := rfl
  leaf c hm va k hva hk := by
    have hp : ptabNat (varied (area st v kr ph top bad) c) 0 0x90 4 % 2 = 1 := by
      have e : ptabNat (varied (area st v kr ph top bad) c) 0 0x90 4 = memNat c.mem 0x90 4 := by
        have he : ptabEntry (varied (area st v kr ph top bad) c) 0 = ptabEntry stagedDev 0 := rfl
        have h0 : ptabEntry stagedDev 0 = 0 := by decide
        simp only [ptabNat, he, h0]; rfl
      have e2 : memGet c.mem 0x90 = 1 := by rw [hm 0x90 (by decide)]; rfl
      rw [e]
      simp only [memNat, memBytes, natOfBytes, e2]
      have : (1 : Byte).toNat = 1 := rfl
      omega
    have ho : ownsLeaf (varied (area st v kr ph top bad) c) 0 0x40000E7 2 = true := by
      have e1 : ptePA 0x40000E7 / leafSize 2 * leafSize 2 = 0x4000000 := by decide
      have e2 : (leafSize 2 + 2 ^ 31 - 1) / 2 ^ 31 = 1 := by decide
      have e3 : underLog (varied (area st v kr ph top bad) c) 0x4000000 = false := by
        have : underLog (varied (area st v kr ph top bad) c) 0x4000000 = underLog stagedDev 0x4000000 := rfl
        rw [this]; decide
      simp only [ownsLeaf, e1, e2, upFrom, List.all_cons, List.all_nil, Bool.and_true, Nat.zero_mul, Nat.add_zero, ownsGranule, e3]
      have e4 : inDram 0x4000000 = true := by decide
      have e5 : (0x4000000 : Nat) / 0x1000000000 = 0 := by decide
      have e6 : (0x4000000 : Nat) / 2 ^ 31 % 32 = 0 := by decide
      simp [e4, e5, hp]
    have hc : ((varied (area st v kr ph top bad) c).ctx 0).part = 0 := rfl
    have hi : inPtab (varied (area st v kr ph top bad) c) (leafPA 0x40000E7 2 va) = false := by
      have h1 : ptabEntry (varied (area st v kr ph top bad) c) 16 = 4096 := by
        have : ptabEntry (varied (area st v kr ph top bad) c) 16 = ptabEntry stagedDev 16 := rfl
        rw [this]; decide
      have e1 : ptePA 0x40000E7 = 0x4000000 := by decide
      have e2 : leafSize 2 = 0x4000000 := by decide
      simp only [inPtab, h1, leafPA, e1, e2, Bool.and_eq_false_iff, decide_eq_false_iff_not]
      right; omega
    unfold leafFault
    have b4 : pteBit 0x40000E7 4 = false := by decide
    have b2 : pteBit 0x40000E7 2 = true := by decide
    have b7 : pteBit 0x40000E7 7 = true := by decide
    simp [b4, b2, b7, hc, ho, hi, fwCtx]

/-- A drained context, and a resuming one with its area whole or poisoned. -/
def ckState : State := area .checkpointing none (some {}) .drainCkpt [] []
def backState (bad : List Nat) : State := area .resuming (some { regions := [{}] }) none .run [] bad

/-- A checkpoint that completes: its area, whatever the free values, is written. -/
theorem wit_ContextEvents_checkpoint : ∃ (s a t : State) (x : Nat) (bs : List Byte), ckptReady s x = true ∧ saveArea s x = (bs, a) ∧
    writeBack a (s.region (regKey x 0)).die x (saveBase a x) bs = .ok t := by
  have hm : Mapped ckState := area_mapped _ _ _ _ _ _
  have hs := saveArea_spec (s := ckState) 0 (by decide) (by decide)
  have hb : saveBase (saveArea ckState 0).2 0 = 0 := by
    obtain ⟨c, e, -⟩ := hs.2
    have : ∀ c, saveBase (varied ckState c) 0 = saveBase ckState 0 := fun _ => rfl
    rw [e, this]; decide
  obtain ⟨t, ht, -⟩ := writeBack_mapped hm hs.2 (va := 0) (saveArea ckState 0).1
    (by have := hs.1; omega)
  refine ⟨ckState, (saveArea ckState 0).2, t, 0, (saveArea ckState 0).1, by decide +kernel, rfl, ?_⟩
  rw [hb]; exact ht

/-- A checkpoint whose area is not mapped, and a context that asks for none. -/
theorem wit_ContextEvents_stops : (∃ (s a : State) (x : Nat) (bs : List Byte) (e : Nat × Nat × Nat), ckptReady s x = true ∧ saveArea s x = (bs, a) ∧
    writeBack a (s.region (regKey x 0)).die x (saveBase a x) bs = .error e) ∧ ckptReady State.reset 0 = false := by
  refine ⟨⟨ckState.setCtx 0 8 0, (saveArea (ckState.setCtx 0 8 0) 0).2, 0, (saveArea (ckState.setCtx 0 8 0) 0).1, (0x20, _, 0),
    by decide +kernel, rfl, writeBack_fault (t := (saveArea (ckState.setCtx 0 8 0) 0).2) ?_ ?_⟩, by decide +kernel⟩
  · intro h
    have := congrArg List.length h
    unfold saveArea at this
    simp [saveHeader, length_bytesOf] at this
  · obtain ⟨c, e, -⟩ := (saveArea_spec (s := ckState.setCtx 0 8 0) 0 (by decide) (by decide)).2
    rw [e]
    have h0 : (rootOf (varied (ckState.setCtx 0 8 0) c) 0).2 = false := by
      rw [show rootOf (varied (ckState.setCtx 0 8 0) c) 0 = rootOf (ckState.setCtx 0 8 0) 0 from rfl]; decide +kernel
    have hx : ∀ d va, xlateNow (varied (ckState.setCtx 0 8 0) c) d 0 va kWrite false = (.fault 0x20 0, varied (ckState.setCtx 0 8 0) c) := by
      intro d va
      unfold xlateNow xlate
      rw [h0]; simp only [Bool.not_false, Bool.or_true, if_true]
    exact hx _ _

theorem natOfBytes_zero : ∀ (l : List Byte), (∀ b ∈ l, b = 0) → natOfBytes l = 0
  | [], _ => rfl
  | b :: l, h => by
    simp only [natOfBytes, h b (List.mem_cons_self ..), natOfBytes_zero l fun c hc => h c (List.mem_cons_of_mem _ hc)]; rfl

theorem csumBytes_zero (l : List Byte) (h : ∀ b ∈ l, b = 0) : csumBytes l = 0 := by
  unfold csumBytes
  have : ((upFrom 0 ((l.length + 3) / 4)).map fun k => natOfBytes ((l.drop (4 * k)).take 4)) = (upFrom 0 ((l.length + 3) / 4)).map fun _ => 0 :=
    List.map_congr_left fun k _ => natOfBytes_zero _ fun b hb => h b (List.mem_of_mem_drop (List.mem_of_mem_take hb))
  rw [this, List.map_const']; simp

/-- A resuming context whose area's CHECK holds (all zero), and one whose area is poisoned. -/
theorem wit_ContextEvents_restore : ∃ (s t s' t' : State) (v : Saved) (bs bs' : List Byte),
    ((s.ctx 0).st = .resuming ∧ (s.ctx 0).saved = some v ∧ (∀ i ∈ savedImages v, (imageOf s i.1 0 i.2).isSome = true) ∧
      readV s (s.region (regKey 0 0)).die 0 false (saveBase s 0) (saveSize s 0) = (.ok bs false, t) ∧
      csumBytes (bs.take 4 ++ zeroBytes 4 ++ bs.drop 8) = natOfBytes ((bs.drop 4).take 4)) ∧
    ((s'.ctx 0).st = .resuming ∧ (s'.ctx 0).saved = some v ∧ (∀ i ∈ savedImages v, (imageOf s' i.1 0 i.2).isSome = true) ∧
      readV s' (s'.region (regKey 0 0)).die 0 false (saveBase s' 0) (saveSize s' 0) = (.ok bs' true, t')) := by
  have h1 := readV_mapped (show Mapped (backState []) from area_mapped _ _ _ _ _ _) (IsVaried.refl _) (va := 0) (n := 3 * mib) (by decide)
  have h2 := readV_mapped (show Mapped (backState [0x4000000]) from area_mapped _ _ _ _ _ _) (IsVaried.refl _) (va := 0) (n := 3 * mib) (by decide)
  have hz : ∀ b ∈ (upFrom (0x4000000 + 0) (3 * mib)).map (memGet (backState []).mem), b = 0 := by
    intro b hb
    obtain ⟨q, hq, rfl⟩ := List.mem_map.mp hb
    rw [mem_upFrom] at hq
    have : (backState []).mem = [(0x90, 1)] := rfl
    rw [this]; unfold memGet tabGet? tabGet?
    rw [if_neg (by omega)]; rfl
  have b1 : (upFrom (0x4000000 + 0) (3 * mib)).any (poisoned (backState [])) = false := by
    rw [List.any_eq_false]; intro q _; simp [poisoned, backState, area]
  have b2 : (upFrom (0x4000000 + 0) (3 * mib)).any (poisoned (backState [0x4000000])) = true := by
    rw [List.any_eq_true]
    exact ⟨0x4000000, (mem_upFrom _ _ _).mpr ⟨by decide, by decide⟩, by decide⟩
  rw [b1] at h1; rw [b2] at h2
  refine ⟨backState [], backState [], backState [0x4000000], backState [0x4000000], { regions := [{}] },
    (upFrom (0x4000000 + 0) (3 * mib)).map (memGet (backState []).mem), (upFrom (0x4000000 + 0) (3 * mib)).map (memGet (backState [0x4000000]).mem),
    ⟨by decide, by decide, by decide, ?_, ?_⟩, by decide, by decide, by decide, ?_⟩
  · have e : saveBase (backState []) 0 = 0 := by decide
    have e' : saveSize (backState []) 0 = 3 * mib := by decide
    have e'' : ((backState []).region (regKey 0 0)).die = 0 := by decide
    rw [e, e', e'']; exact h1
  · rw [natOfBytes_zero _ fun b hb => hz b (List.mem_of_mem_drop (List.mem_of_mem_take hb)), csumBytes_zero]
    intro b hb
    simp only [List.mem_append] at hb
    rcases hb with (hb | hb) | hb
    · exact hz b (List.mem_of_mem_take hb)
    · exact List.eq_of_mem_replicate hb
    · exact hz b (List.mem_of_mem_drop hb)
  · have e : saveBase (backState [0x4000000]) 0 = 0 := by decide
    have e' : saveSize (backState [0x4000000]) 0 = 3 * mib := by decide
    have e'' : ((backState [0x4000000]).region (regKey 0 0)).die = 0 := by decide
    rw [e, e', e'']; exact h2

/-- A drained region whose arbiter has taken a call. -/
def takenState : State := area .running none (some {}) (.taken {}) [] []

/-- A call is taken: the freeze writes the node's record, whatever its size, and the new level fits. -/
theorem wit_KernelEvents_freeze : ∃ (z a b : State) (lev : Level) (ls : List Level) (new : Level),
    let s := takenState
    let r := s.region (regKey 0 0)
    r.phase = .taken {} ∧ arbiterRuns s (regKey 0 0) = true ∧ imageOf s r.die 0 ({} : Call).image = some {} ∧ frozenLevel s r = (lev, z) ∧
      writeRecords z r.die r.ctx (nodeSlots z r lev) = .ok a ∧ spillLoop a r (r.levels.length + 2) r.levels lev = .ok (ls, new, b) := by
  have hm : Mapped takenState := area_mapped _ _ _ _ _ _
  have hv : IsVaried takenState (takenState.draw).2 :=
    ⟨⟨takenState.mem, takenState.dirty, takenState.poison, takenState.fresh + 1, takenState.mpos, takenState.hist⟩, rfl, fun _ _ => rfl⟩
  obtain ⟨a, ha, -⟩ := writeBack_mapped hm (hv.free (Config.freeLength takenState.fresh % 131073)) (va := 262144)
    (freeBytes (takenState.draw).2 (Config.freeLength takenState.fresh % 131073)).1 (by rw [length_freeBytes]; omega)
  have hl : levelFits (takenState.region (regKey 0 0)).levels (frozenLevel takenState (takenState.region (regKey 0 0))).1 = true := by decide +kernel
  refine ⟨(takenState.draw).2, a, a, (frozenLevel takenState (takenState.region (regKey 0 0))).1, (takenState.region (regKey 0 0)).levels,
    (frozenLevel takenState (takenState.region (regKey 0 0))).1, by decide, by decide, by decide, rfl, ?_, ?_⟩
  · have h2 : nodeSlots (takenState.draw).2 (takenState.region (regKey 0 0)) (frozenLevel takenState (takenState.region (regKey 0 0))).1 =
      [(262144, Config.freeLength takenState.fresh % 131073)] := rfl
    have h4 : (takenState.region (regKey 0 0)).die = 0 := by decide
    have h5 : (takenState.region (regKey 0 0)).ctx = 0 := by decide
    simp only [h2, h4, h5, writeRecords, ha]
  · simp only [spillLoop, hl, Bool.or_true, if_true]
/-- A region of one cluster with an activation and this phase, its context running. -/
def regionAt (kr : Option KRef) (ph : Phase) (f : Region → Region := id) : State :=
  (area .running none kr ph [] []).modRegion 0 f

theorem wit_KernelEvents_stage :
    let g : Stage := { id := 3, who := .task 5 }
    let s : State := { (regionAt none .run).modDie 0 fun (d : Die) => { d with leaves := [{ who := .load 0 0 5, until_ := some 0 }] } with stages := [g] }
    let h : Stage := { id := 3, who := .kload 9 }
    let t : State := { regionAt none .run with stages := [h], pend := [{ id := 9 }] }
    ((s.stages.find? fun g => g.id == 3) = some g ∧ imageOf s g.die g.ctx g.addr = some {} ∧ fitFault (s.region g.reg) {} = none ∧
      (∀ c ∈ (s.region g.reg).clusters, hasLeave s g.die (.load 0 c 5) = true) ∧ framesFit s g.reg 0 .dispatch = true) ∧
    ((t.stages.find? fun g => g.id == 3) = some h ∧ imageOf t h.die h.ctx h.addr = some {} ∧ fitFault (t.region h.reg) {} = none ∧
      (t.pend.find? fun p => p.id == 9) = some { id := 9 }) := by decide +kernel

theorem wit_KernelEvents_calls :
    let s := regionAt (some {}) .run fun r => { r with calls := [{}] }
    let t := regionAt (some {}) .drainCall fun r => { r with calls := [{}] }
    let u := t.setCtx 0 0x17 1
    (arbiterRuns s 0 = true ∧ (s.region 0).phase = .run ∧ ownCalls (s.region 0) ≠ []) ∧
    (arbiterRuns t 0 = true ∧ (t.region 0).phase = .drainCall ∧ drained t 0 = true ∧ pickCall t 0 = some {} ∧
      wbits (t.ctxReg 0 0x17) 7 0 < 0 + 1) ∧
    (arbiterRuns u 0 = true ∧ (u.region 0).phase = .drainCall ∧ drained u 0 = true ∧ pickCall u 0 = some {} ∧
      0 + 1 ≤ wbits (u.ctxReg 0 0x17) 7 0 ∧ imageOf u 0 0 0 = some {} ∧ fitFault (u.region 0) {} = none ∧ framesFit u 0 0 .call = true) := by
  decide +kernel

theorem wit_KernelEvents_teardown :
    let a := regionAt (some {}) (.tearing [] false [] none)
    let b := regionAt (some { depth := 1, cont := some (0, 2, 3) }) (.tearing [7, 8] true [4] none) fun r => { r with levels := [{}] }
    let c := regionAt (some { depth := 1 }) (.tearing [] false [] (some {}))
    (arbiterRuns a 0 = true ∧ tearReady a 0 = true ∧ (a.region 0).kref = some {} ∧ (a.region 0).levels = []) ∧
    (arbiterRuns b 0 = true ∧ tearReady b 0 = true ∧ (b.region 0).levels = [] ++ [({} : Level)] ∧ (1 : Nat) < [7, 8].length ∧
      nodeSlots b (b.region 0) {} ++ (if ({} : Level).spilled = true then levelSlots b (b.region 0) {} else []) = []) ∧
    (arbiterRuns c 0 = true ∧ tearReady c 0 = true ∧ (c.region 0).phase = .tearing [] false [] (some {}) ∧ imageOf c 0 0 0 = some {}) := by
  decide +kernel

/-- A context of one region, a launch of one node of a kind, at the head of its pool. -/
def poolOf (kind : Nat) (kernel : Nat := 0) (top : Mem := []) : State :=
  { ((area .idle none none .run top []).modDie 0 fun (d : Die) => { d with ready := [{ launch := 1, kind := kind }] }) with
    launches := [{ id := 1, nodes := [(0, { nrec := { kind := kind, kernel := kernel }, st := .ready })] }] }

theorem wit_GroupEvents_dispatch :
    let s := poolOf 0
    let t := poolOf 3
    let l : Launch := { id := 1, nodes := [(0, { nrec := { kind := 0 }, st := .ready })] }
    (((s.die 0).journal.find? fun j => j.iv == 0) = none ∧ poolHead s 0 0 = some { launch := 1 } ∧ launch? s 1 = some l ∧
      (tabGet l.nodes 0).nrec.kind = 0 ∧ (s.ctx l.ctx).st = .idle ∧ placeTask s l 0 (tabGet l.nodes 0).nrec = .at_ 0 none ∧
      (s.region 0).outOfService = false) ∧
    (((t.die 0).journal.find? fun j => j.iv == 0) = none ∧ poolHead t 0 3 = some { launch := 1, kind := 3 } ∧
      (launch? t 1).any (fun l => (tabGet l.nodes 0).nrec.kind == 3 &&
        (match groupWrite t l.home l.ctx (taskOf t l 0 0 (tabGet l.nodes 0).nrec [] 0).1.param.toNat
            (bytesOf 8 (tabGet l.nodes 0).nrec.kernel ++ bytesOf 8 (taskWord l.num 0 3 0).toNat) (nodeSite l.home 0) with
         | .ok _ _ => true
         | _ => false)) = true) := by decide +kernel

/-- A copy node's job of two patterns of one dimension and no elements. -/
theorem wit_GroupEvents_copy :
    let s := poolOf 1 0 [(0x4000009, 1), (0x4000089, 1)]
    poolHead s 0 1 = some { launch := 1, kind := 1 } ∧
      (launch? s 1).any (fun l => copyEngine s l 0 == some 0 && (tabGet l.nodes 0).nrec.kernel % 128 == 0 &&
        match groupRead s l.home l.ctx (tabGet l.nodes 0).nrec.kernel 256 0 (nodeSite l.home s.iv) with
        | .ok bs t => (jobOf t l.ctx bs).isSome
        | _ => false) = true := by decide +kernel

theorem wit_GroupEvents_aging :
    let e : Ready := { launch := 1, prio := 2, since := 5 }
    let s := (State.reset.setDev 0x30A 2000005).modDie 7 fun (d : Die) => { d with ready := [e] }
    (s.die 7).ready[0]? = some e ∧ e.prio < 3 ∧ e.since + 2000000 ≤ s.clk ∧
      agesFirst (s.die 7).ready s.clk 0 e = true ∧ e.inPool = true := by decide

theorem wit_GroupEvents_completes :
    let l : Launch := { id := 1, nodes := [(0, {})] }
    ([0, 1, 2].all fun k =>
      let t : Task := { id := 8, launch := 1, kind := k }
      let s : State := { live with tasks := [t], launches := [l] }
      decide ((s.tasks.find? fun t => t.id == 8) = some t) && decide (launch? s t.launch = some l) &&
        (if k = 0 then taskDone s t else decide (8 ∉ s.outstanding))) = true := by decide

theorem wit_GroupEvents_patch :
    let p : Patch := { id := 4, group := 64, param := 9 }
    let g : Group := { addr := 64, nnode := 1 }
    let s : State := { State.reset with patches := [p], groups := [g] }
    (s.patches.find? fun p => p.id == 4) = some p ∧ group? s p.ctx p.group = some g ∧ patchReady s p.ctx p.group 4 = true := by decide

theorem wit_GroupEvents_stuck :
    let s := regionAt (some {}) .drainCall
    let t := s.setDev 0x30A 0x1000000
    (busyRegion s (regKey 0 0) = true ∧ s.clk < (s.region (regKey 0 0)).activity + 2 ^ 24) ∧
    (busyRegion t (regKey 0 0) = true ∧ (t.region (regKey 0 0)).activity + 2 ^ 24 ≤ t.clk) := by decide +kernel

/-- Operator 0 of a tarn, fed by operator 1 and sending to it, with barrier 2's marker on its one route in. -/
theorem wit_GroupEvents_forward :
    let u := unitKey 0 0 0
    let r : OpRec := { slot := 0, chans := [{ ch := 0 }, { ch := 1, out := true, dest := 0x10 }] }
    let r1 : OpRec := { slot := 1, chans := [{ ch := 0, out := true, dest := 0 }] }
    let q : OpState := { chans := [(0, { held := [{ src := .oper u 1, item := .mark .barrier 2 }] })] }
    let s := (regionAt (some {}) .run).modUnit u fun v => { v with owner := some 0, store := [{ opers := [r, r1] }], plane := { ops := [(0, q)] } }
    opRec? s u 0 = some r ∧ s.op? u 0 = some q ∧ inChans r = [{ ch := 0 }] ∧ oldestMark (tabGet q.chans 0) = some 2 ∧
      (inChans r).all (fun c => cutBy s u 0 c.ch 2) = true ∧ q.firings = [] ∧
      ((heldTags q (inChans r)).any fun t => (takeAll none q t.1 t.2.1 (inChans r)).isSome) = false ∧
      isCore u = false ∧ (s.region (s.regOf u)).stopped = false ∧ draining s u = false ∧
      (outChans r).all (fun c => destOpen s (destOf s u c.dest)) = true := by decide +kernel

/-- A word runs on tokens l, r and x, and its issue meets a condition. -/
def plain (i : Instr) (toks : List Token) (ok : Issue → Bool := fun _ => true) : Bool := runs (ready i toks) i false false false ok

theorem wit_BitFieldResults :
    plain (.bfx ⟨.i32, .always, 2, none, none⟩ {}) [tk 0xF00, tk 0x408] (fun i => control {} i == 0x408) = true ∧
    plain (.bfx ⟨.n32, .always, 1, none, none⟩ ⟨true, 0, 0x803F⟩) [tk 0xF00] = true ∧
    plain (.bfi ⟨.n16, .always, 3, none, none⟩ {}) [tk 0x1234, tk 15, tk 0x40C] (fun i => control {} i == 0x40C) = true ∧
    Ty.code .n64 ≤ 7 := by decide

theorem wit_CompareAndConvert :
    wellFormed (.cmp ⟨.i8, .always, 2, none, none⟩ ⟨false, 5, 0⟩) = true ∧
    plain (.cmp ⟨.i8, .always, 2, none, none⟩ ⟨false, 5, 0⟩) [tk 0xFF, tk 1] = true ∧ (5 : BitVec 4).toNat ≤ 5 ∧
    wellFormed (.cvti ⟨.i8, .always, 1, none, none⟩ ⟨false, 15, 0⟩) = true ∧
    plain (.cvti ⟨.i8, .always, 1, none, none⟩ ⟨false, 15, 0⟩) [tk 300] = true := by decide

theorem wit_MoveAndSelectResults :
    plain (.mov ⟨.bf16, .always, 1, none, none⟩ {}) [tk 5] = true ∧ plain (.mov ⟨.f32, .always, 0, none, none⟩ ⟨true, 0, -1⟩) [] = true ∧
    plain (.movi ⟨.i8, .always, 0, none, none⟩ ⟨true, 0, -1⟩) [] = true ∧
    plain (.gettag ⟨.none, .always, 1, none, none⟩ {}) [{ iter := 4095 }] = true ∧
    plain (.count ⟨.none, .always, 0, none, none⟩ ⟨true, 0, 1⟩) [] (fun i => i.fi.num == some 0) = true ∧
    plain (.rix ⟨.none, .always, 0, none, none⟩ {}) [] = true ∧
    plain (.movk ⟨.i64, .always, 1, none, none⟩ ⟨true, 3, 0xFFFF⟩) [tk 1] = true ∧
    (([[tk 1, tk 2, tk 3], [tk 0, tk 2, tk 3], [{ n := true }, tk 2, tk 3], [tk 1, { n := true }, tk 3]] : List (List Token)).all fun t =>
      runs (ready (.sel ⟨.i8, .always, 3, none, none⟩ {}) t) (.sel ⟨.i8, .always, 3, none, none⟩ {}) false false true) = true ∧
    runs (ready (.sel ⟨.f16, .always, 2, none, none⟩ ⟨true, 0, 7⟩) [tk 0]) (.sel ⟨.f16, .always, 2, none, none⟩ ⟨true, 0, 7⟩) false false true = true ∧
    runs (ready (.null ⟨.i8, .always, 1, none, none⟩ {}) [{ n := true }]) (.null ⟨.i8, .always, 1, none, none⟩ {}) false false true = true := by decide

theorem wit_RegistersAndBranches :
    plain (.rd ⟨.i32, .always, 0, none, none⟩ ⟨31, 0⟩) []
      (fun i => ((ready (.rd ⟨.i32, .always, 0, none, none⟩ ⟨31, 0⟩)).op? i.f.u i.f.op).isSome) = true ∧
    plain (.wr ⟨.i32, .always, 1, none, none⟩ ⟨0, 0⟩) [tk 4] = true ∧
    plain (.br ⟨.none, .always, 0, none, none⟩ ⟨true, 0, 63⟩) [] = true ∧
    (([(true, 0), (false, 1), (false, 0)] : List (Bool × Word)).all fun p =>
      runs (ready (.brc ⟨.none, .always, 1, none, none⟩ ⟨true, 0, 0xFC1⟩) [{ pay := p.2, p := p.1 }])
        (.brc ⟨.none, .always, 1, none, none⟩ ⟨true, 0, 0xFC1⟩) false false true (fun i => i.l.p == p.1 && i.l.pay == p.2)) = true := by decide

theorem wit_TagGrantRule :
    let w : Instr := .tagnew ⟨.none, .always, 0, none, none⟩ ⟨0, 0, 15⟩
    let s := (ready w).modRegion 0 fun (r : Region) => { r with lists := [(15, { cursor := 4095, live := upFrom 0 63 })] }
    runs s w false false false (fun i =>
      let r := s.region (s.regOf i.f.u)
      r.tagReqs == [] && !laneBefore s i && (tabGet r.lists 15).live.length < 64) = true := by decide

theorem wit_TokenWords :
    plain (.tagfree ⟨.none, .always, 1, none, none⟩ {}) [{ iter := 4095, lreg := 15 }] = true ∧
    plain (.tagset ⟨.none, .always, 2, none, none⟩ {}) [tk 1, tk 0xFFFFFF] = true ∧
    (([(0, 0), (1, 0), (2, 4095), (3, 255), (4, 0)] : List (BitVec 4 × BitVec 20)).all fun p =>
      plain (.tagset ⟨.none, .always, 1, none, none⟩ ⟨0, p.1, p.2⟩) [tk 1]) = true ∧
    (let w : Instr := .inTok ⟨.none, .always, 0, none, none⟩ ⟨0, 4, 0⟩
     let u := unitKey 0 0 0
     let f : FireRef := { u := u }
     let c := (ready w).modUnit u fun v => { v with store := v.store.map fun e => { e with opers := e.opers.map fun o => { o with chans := [{ ch := 0 }] } } }
     let s := c.modFiring f fun g => { g with toks := [(0, [tk 9])] }
     runs s w false false false (fun i => inToken s i 0 == some (tk 9)) = true ∧
     runs c w false false false (fun i => inToken c i 0 == none) = true) ∧
    runs (ready (.outTok ⟨.f32, .ifTrue, 1, none, none⟩ ⟨3, 3, 255⟩) [tk 9, {}, {}, tk 1])
      (.outTok ⟨.f32, .ifTrue, 1, none, none⟩ ⟨3, 3, 255⟩) true true false = true := by decide

theorem wit_FloatArithmetic :
    (([.fadd ⟨.f16, .always, 2, none, none⟩ {}, .fsub ⟨.bf16, .always, 1, none, none⟩ ⟨true, 4, -3⟩, .fmul ⟨.f32, .always, 2, none, none⟩ ⟨false, 1, 0⟩,
       .fdiv ⟨.f32, .always, 2, none, none⟩ {}, .fma ⟨.bf16, .always, 3, none, none⟩ {}, .sqrt ⟨.f32, .always, 1, none, none⟩ {},
       .rcp ⟨.f32, .always, 1, none, none⟩ {}, .rsq ⟨.f32, .always, 1, none, none⟩ {}, .ex2 ⟨.f32, .always, 1, none, none⟩ {},
       .lg2 ⟨.f32, .always, 1, none, none⟩ ⟨false, 3, 0⟩] : List Instr).all fun w =>
      (roundRow w).any (fun r => (fmt3 r.1.ty).isSome) && plain w [tk 1, tk 2, tk 3]) = true ∧
    -- special cases: a NaN, two infinities, a zero and an infinity, zeros, and a sum of 0
    (sumCase .f32 .rne 0x7FC00000 0).isSome = true ∧
    (sumCase .f32 .rne 0x7F800000 0xFF800000).isSome = true ∧ sumCase .f32 .rd 0x3F800000 0xBF800000 = some (0x80000000, false) ∧
    (productCase .f32 0x7F800000 0).isSome = true ∧ (quotientCase .f32 0x3F800000 0).isSome = true ∧
    plain (.fdiv ⟨.f32, .always, 2, none, none⟩ {}) [tk 0x3F800000, tk 0]
      (fun i => (quotientCase .f32 (code ⟨.f32, .always, 2, none, none⟩ {} i 0) (code ⟨.f32, .always, 2, none, none⟩ {} i 1)).isSome) = true := by decide

theorem wit_FloatSignsAndTests :
    (([.fmax ⟨.e4m3, .always, 2, none, none⟩ ⟨false, 8, 0⟩, .fmin ⟨.f32, .always, 2, none, none⟩ {}, .fabs ⟨.e5m2, .always, 1, none, none⟩ {},
       .fneg ⟨.f16, .always, 1, none, none⟩ {}, .fcmp ⟨.bf16, .always, 2, none, none⟩ ⟨false, 7, 0⟩,
       .fclass ⟨.f32, .always, 1, none, none⟩ {}] : List Instr).all fun w => plain w [tk 0x80, tk 0x7F]) = true ∧
    (fmt5 .e4m3).isSome = true ∧ (fmt5 .f32).isSome = true ∧ (fmt5 .e5m2).isSome = true ∧ (fmt5 .f16).isSome = true ∧ (fmt5 .bf16).isSome = true ∧
    (7 : BitVec 4).toNat ≤ 7 := by decide

theorem wit_FloatConversions :
    plain (.cvtf ⟨.e5m2, .always, 1, none, none⟩ ⟨false, 12, 10⟩) [tk 0x477FFFFF] = true ∧ fmt5 (Ty.ofCode 10) = some .f32 ∧
    plain (.cvtf ⟨.f32, .always, 1, none, none⟩ ⟨false, 0, 10⟩) [tk 0x3F800000] = true ∧ nanF .f32 0x3F800000 = false ∧ infF .f32 0x3F800000 = false ∧
    nanF .f32 0x7FC00000 = true ∧ infF .f32 0xFF800000 = true ∧ zeroF .f32 0x80000000 = true ∧
    plain (.cvtfi ⟨.i8, .always, 1, none, none⟩ ⟨false, 8, 10⟩) [tk 0x43000000] = true ∧
    Fmt.f32.decode 0x43000000 = .fin false 0x800000 (-16) ∧ rmodeOf 0 ≠ .sr ∧ rmodeOf 4 = .sr ∧
    plain (.cvtif ⟨.bf16, .always, 1, none, none⟩ ⟨false, 4, 7⟩) [tk 1] = true ∧
    plain (.fscale ⟨.f16, .always, 2, none, none⟩ {}) [tk 0x3C00, tk 0xFFFFFFFF] = true := by decide


/-- A 4-byte load of address 64, in the global and the scratch space. -/
def ld4 (as : BitVec 3) : Instr := .ld ⟨.n32, .always, 1, none, none⟩ ⟨as, 0, 0, 0x40⟩

theorem wit_LoadResults_ld :
    (([0, 1] : List (BitVec 3)).all fun as =>
      let s := mapped (ready (ld4 as) [tk 0])
      runs s (ld4 as) false false false (fun i =>
        !mustWait s i && !waitsInv s i && s.holds == [] && i.fi.staged == [] && (s.unit (unitKey 0 0 0)).bad == [] && (s.unit (unitKey 0 0 0)).l1bad == [] && s.hist == [] &&
        unitAddr s i.f.u as.toNat (ldAt ⟨.n32, .always, 1, none, none⟩ ⟨as, 0, 0, 0x40⟩ i) 4 kLoad
          == (if as = 0 then .ok (.mem 0x100040) 0 0 else .ok (.scratch 0 0x40) 1 0) && !isCore i.f.u)) = true ∧
    inRegSpace 0x100040 = false ∧ einjHits (mapped State.reset) 0x100040 4 = false ∧
      (∀ k < 4, winOf (mapped State.reset) (0x100040 + k) = none) := by decide +kernel

/-- The same load after a store of 100 cycles ago. -/
theorem wit_LoadResults_past :
    let s := { (mapped (ready (ld4 0) [tk 0])).setDev 0x30A 100 with mpos := 1, hist := [{ pos := 1, pa := 0x100040, old := [9] }] }
    runs s (ld4 0) false false false (fun i =>
      !mustWait s i && !waitsInv s i && s.holds == [] && i.fi.staged == [] && (s.unit i.f.u).l1bad == [] &&
        unitAddr s i.f.u 0 (ldAt ⟨.n32, .always, 1, none, none⟩ ⟨0, 0, 0, 0x40⟩ i) 4 kLoad == .ok (.mem 0x100040) 0 0 && !isCore i.f.u) = true ∧
    s.hist ≠ [] ∧ (∀ r ∈ s.hist, r.pos ≤ s.mpos) ∧ einjHits s 0x100040 4 = false ∧ (∀ k < 4, winOf s (0x100040 + k) = none) := by decide +kernel

/-- An own staged store that an operand depends on. -/
theorem wit_LoadResults_own :
    let w : Instr := .ld ⟨.n32, .always, 1, none, none⟩ ⟨1, 0, 0, 0⟩
    let e : Staged := { id := 5, eff := .store (.scratch 0 0x40) [1, 2, 3, 4] 3 1 }
    let r := ready w [{ pay := 0x40, deps := [5] }]
    let s := { r.modFiring { u := 0 } fun g => { g with staged := [e] } with outstanding := [5] }
    runs s w false false false (fun i => !mustWait s i && i.fi.staged == [e] && i.deps == [5] &&
      unitAddr s i.f.u 1 (ldAt ⟨.n32, .always, 1, none, none⟩ ⟨1, 0, 0, 0⟩ i) 4 kLoad == .ok (.scratch 0 0x40) 1 0) = true := by decide +kernel

theorem wit_LoadResults_ldl :
    (([([tk 0], 1), ([tk 0, tk 0], 2), ([tk 0, tk 1], 2)] : List (List Token × BitVec 2)).all fun p =>
      let w : Instr := .ldl ⟨.i64, .always, p.2, none, none⟩ ⟨0, 3, 2, 56⟩
      let s := mapped (ready w p.1)
      runs s w false false false (fun i => !mustWait s i && !waitsInv s i && i.fi.staged == [] && s.hist == [] && s.holds == [] &&
        unitAddr s i.f.u 0 i.l.pay 64 kLoad == .ok (.mem 0x100000) 0 0)) = true ∧
    einjHits (mapped State.reset) 0x100000 64 = false ∧ (∀ k < 64, winOf (mapped State.reset) (0x100000 + k) = none) ∧
    natOfBytes (memBytes (mapped State.reset).mem 0x100000 8) = 0 := by decide +kernel

theorem wit_StoreAndJoin :
    (([(1, 0), (2, 0), (3, 1)] : List (BitVec 2 × BitVec 4)).all fun (ar, su) =>
      let w : Instr := .st ⟨.n16, .always, ar, none, none⟩ ⟨1, 0, su, 6⟩
      let s := ready w ([tk 8, tk 16, tk 32].take ar.toNat)
      runs s w true false false (fun i => !inMirror s i.f.u && !waitsInv s i &&
        match unitAddr s i.f.u 1 (stAt ⟨.n16, .always, ar, none, none⟩ ⟨1, 0, su, 6⟩ i) 2 kWrite with
        | .ok (.scratch 0 _) 1 0 => true
        | _ => false)) = true ∧
    (let w : Instr := .ojoin ⟨.none, .always, 3, none, none⟩ {}
     runs (ready w [{ deps := [1] }, tk 0, tk 0]) w true false false (fun i => i.ops.any fun t => t.deps.contains 1) = true) := by decide +kernel

/-- The conditions of an atomic at scratch address 64. -/
theorem wit_AtomicResults :
    (let h : Hdr := ⟨.f32, .always, 2, none, none⟩
     let m : FormM := ⟨1, 0, 6, 0⟩
     let s := ready (.amo h m) [tk 64, tk 1]
     tyAmo h.ty m.sub = true ∧ m.sub.toNat ≤ 6 ∧
       runs s (.amo h m) true false false (fun i => !inMirror s i.f.u && !mustWait s i && !waitsInv s i &&
         unitAddr s i.f.u 1 (addrOf h m i.l.pay 0) 4 kAtomic == .ok (.scratch 0 64) 1 0 && !heldAt s i.f (.scratch 0 64) [atomicPlace i.f.u (.scratch 0 64) 0 0] &&
         (fireRead s i.f i.fi i.deps true (.scratch 0 64) 4).1 == [0, 0, 0, 0]) = true) ∧
    (let h : Hdr := ⟨.n64, .always, 3, none, none⟩
     let m : FormM := ⟨0, 3, 0, 0⟩
     let s := mapped (ready (.cas h m) [tk 64, tk 0, tk 1])
     runs s (.cas h m) true false false (fun i => !inMirror s i.f.u && !mustWait s i && !waitsInv s i &&
         unitAddr s i.f.u 0 (addrOf h m i.l.pay 0) 8 kAtomic == .ok (.mem 0x100040) 0 0 &&
         !heldAt s i.f (.mem 0x100040) [atomicPlace i.f.u (.mem 0x100040) 3 0] &&
         (fireRead s i.f i.fi i.deps true (.mem 0x100040) 8).1 == bytesOf 8 i.r.pay.toNat) = true) := by decide +kernel

/-- The 16 bytes of an ordered atomic, the word 3 and the due number 7, and operands before, at and after it. -/
theorem wit_AtomicResults_ordered :
    (([6, 7, 8] : List Word).all fun q =>
      let h : Hdr := ⟨.i32, .always, 3, none, none⟩
      let m : FormM := ⟨0, 3, 0, 0⟩
      let w : Instr := .oamo h m
      let s := { mapped (ready w [tk 64, tk 1, tk q]) with mem := [(0x90, 1), (0x100040, 3), (0x100048, 7)] }
      tyAmo h.ty m.sub && runs s w true false false (fun i => !inMirror s i.f.u && !mustWait s i && !waitsInv s i && s.oaWaits == [] &&
         unitAddr s i.f.u 0 (addrOf h m i.l.pay 0) 16 kAtomic == .ok (.mem 0x100040) 0 0 && !heldAt s i.f (.mem 0x100040) [atomicPlace i.f.u (.mem 0x100040) 3 0] &&
         (fireRead s i.f i.fi i.deps true (.mem 0x100040) 16).1 == [3, 0, 0, 0, 0, 0, 0, 0, 7, 0, 0, 0, 0, 0, 0, 0])) = true := by decide +kernel

theorem wit_LinesAndFrames :
    (([2, 5] : List (BitVec 3)).all fun sc =>
      let w : Instr := .pref ⟨.none, .always, 1, none, none⟩ ⟨0, sc, 0, 0⟩
      let s := mapped (ready w [tk 0])
      runs s w true false false (fun i => !mustWait s i)) = true ∧
    (let w : Instr := .cwb ⟨.none, .always, 1, none, none⟩ ⟨0, 3, 1, 0⟩
     let s := mapped (ready w [tk 72])
     runs s w true false false (fun i =>
       (match linesFrom s i.f.u kWrite 2 ((addrOf ⟨.none, .always, 1, none, none⟩ ⟨0, 3, 1, 0⟩ i.l.pay 0).toNat / 64 * 64) with
        | .ok ls => ls == [0x100040, 0x100080] | _ => false) &&
       (match linesFrom s i.f.u kLoad 2 ((addrOf ⟨.none, .always, 1, none, none⟩ ⟨0, 3, 1, 0⟩ i.l.pay 0).toNat / 64 * 64) with
        | .ok ls => ls == [0x100040, 0x100080] | _ => false)) = true) ∧
    (([.cwb ⟨.none, .always, 1, none, none⟩ ⟨0, 3, 1, 0⟩, .cinv ⟨.none, .always, 1, none, none⟩ ⟨0, 3, 1, 0⟩] : List Instr).all fun w =>
      runs (mapped (ready w [tk 65])) w true false false fun i =>
        (addrOf ⟨.none, .always, 1, none, none⟩ ⟨0, 3, 1, 0⟩ i.l.pay 0).toNat % 8 ≠ 0) = true ∧
    (let w : Instr := .falloc ⟨.none, .always, 0, none, none⟩ ⟨2, 0, 0, 128⟩
     let s := ready w []
     let t := s.modUnit 0 fun u => { u with plane := { u.plane with limit := 128 } }
     (runs s w true false false (fun i => !mustWait s i && decide ((s.unit (memUnit i.f.u)).plane.limit < (s.unit (memUnit i.f.u)).plane.top + 128)) &&
     runs t w true false false (fun i => !mustWait t i && decide ((t.unit (memUnit i.f.u)).plane.top + 128 ≤ (t.unit (memUnit i.f.u)).plane.limit))) = true) ∧
    (([0, 64, 128, 32, 129] : List Word).all fun n =>
      let w : Instr := .ffree ⟨.none, .always, 1, none, none⟩ ⟨2, 0, 0, 0⟩
      let s := (ready w [tk n]).modUnit 0 fun u => { u with plane := { u.plane with limit := 512, top := 128, frame := 64 } }
      runs s w true false false (fun i => memUnit i.f.u == 0)) = true := by decide +kernel

/-- A released side effect and nothing in its way. -/
def releasedAs (e : Eff) (hs : List Hold := []) : State :=
  { State.reset with pend := [{ id := 3, who := .oper 0 0, eff := e }], outstanding := [3], holds := hs }

theorem wit_ReleasedMemoryPerforms :
    let g : Hold := { id := 9, loc := .mem 0x44, writes := [(4, [7])] }
    (([.store (.mem 0x40) [1, 2] 3 0, .store (.scratch 0 8) [1] 3 1, .hold 9, .cinv [0x40, 0x80] 3, .cwb [0x40] 5, .ffree 64] : List Eff).all fun e =>
      let p : Pend := { id := 3, who := .oper 0 0, eff := e }
      let s := releasedAs e [g]
      (s.pend.find? fun q => q.id == 3) == some p && s.live p.deps == [] && !storeBehind s p) = true ∧
    storeHeld (releasedAs (.store (.mem 0x40) [1, 2] 3 0)) { id := 3, who := .oper 0 0 } (.mem 0x40) = false ∧
    storeHeld (releasedAs (.store (.scratch 0 8) [1] 3 1)) { id := 3, who := .oper 0 0 } (.scratch 0 8) = false ∧
    ((releasedAs (.hold 9) [g]).holds.find? fun q => q.id == 9) = some g ∧ (g.cls ≠ 2 ∨ ({ id := 3 } : Pend).own.iv = 0) ∧
    (∀ q ∈ (releasedAs (.hold 9) [g]).holds, q.f = g.f → locLine q.loc = locLine g.loc → 9 ≤ q.id) ∧
    linesHeld (releasedAs (.cinv [0x40, 0x80] 3)) { id := 3, who := .oper 0 0 } [0x40, 0x80] = false ∧
    linesHeld (releasedAs (.cwb [0x40] 5)) { id := 3, who := .oper 0 0 } [0x40] = false := by decide +kernel

theorem wit_MemoryEvents_revoke :
    let w : Instr := .amo ⟨.i32, .always, 2, none, none⟩ ⟨1, 0, 0, 0⟩
    (([4095, 4096] : List Nat).all fun n =>
      let g : Hold := { id := 9, f := { u := 0 }, since := 0, loc := .scratch 0 64 }
      let s := { (ready w).modFiring { u := 0 } fun q => { q with staged := [{ id := 2, eff := .hold 9 }] } with holds := [g] }
      let t := s.setDev 0x30A (BitVec.ofNat 64 n)
      (t.holds.find? fun x => x.id == 9) == some g && t.clk == n &&
        (t.firing? g.f).any fun q => q.st == .running && q.staged.any fun e => e.eff == .hold 9) = true := by decide +kernel

theorem wit_MemoryEvents_retry :
    let h : Hdr := ⟨.i32, .always, 3, none, none⟩
    let m : FormM := ⟨0, 3, 0, 0⟩
    let w : Instr := .oamo h m
    let s := ready w [tk 64, tk 1, tk 7]
    (match fetchWord s { u := 0 } 0 with | some v => decode v == .instr w | none => false) = true ∧
    runs { s with focus := { u := 0 }, focusSlot := 0 } w true false false (fun i => i.x.pay.toNat == 7 && !mustWait s i) = true := by decide +kernel

theorem wit_MemoryEvents_grant :
    let q : TagReq := { lreg := 2 }
    let a : List TagReq := [{ lreg := 1 }, { lreg := 2, grant := some 5 }]
    let s := State.reset.modRegion (regKey 3 1) fun r => { r with tagReqs := a ++ q :: [], lists := [(2, { live := upFrom 0 63 })] }
    let r := s.region (regKey 3 1)
    r.stopped = false ∧ (tabGet r.lists 2).live.length < 64 ∧ r.tagReqs = a ++ q :: [] ∧ q.lreg = 2 ∧ q.grant = none ∧
      (∀ x ∈ a, x.lreg ≠ 2 ∨ x.grant ≠ none) := by decide +kernel

theorem wit_MemoryEvents_host :
    (31 : Nat) < 32 ∧ memoryRange 0x40 ([1, 2] : List Byte).length = true ∧ State.reset.holds = [] ∧
      (∀ c ∈ vCuts (([1, 2] : List Byte).length / 64 + 2) 0x40 2, winOf State.reset c.1 = none) := by decide +kernel

/-- A tile word runs on tokens and no register or accumulator it names is busy. -/
def tileRuns (s : State) (i : Instr) (side : Bool) (regs accs : List Nat) (ok : Issue → Bool := fun _ => true) : Bool :=
  runs s i side false false fun j =>
    (s.live j.deps).isEmpty && regs.all (fun n => !tileBusy (nodeOf s j) n) && accs.all (fun n => !accBusy (nodeOf s j) n) && ok j

/-- The header of a tile word of no type. -/
def tileHdr (ar : BitVec 2) : Hdr := ⟨.none, .always, ar, none, none⟩

theorem wit_TileControl :
    tileRuns (ready (.tcfg (tileHdr 1) { a := 3 }) [tk 0x8001F]) (.tcfg (tileHdr 1) { a := 3 }) false [3] []
      (fun i => tcfgOk (i.l.pay.toNat % 2 ^ 20)) = true ∧
    tileRuns (ready (.tcfg (tileHdr 1) { a := 3 }) [tk 0x1001F]) (.tcfg (tileHdr 1) { a := 3 }) false [3] []
      (fun i => !tcfgOk (i.l.pay.toNat % 2 ^ 20)) = true ∧
    tileRuns (ready (.tcfg (tileHdr 0) { a := 15, b := 11, per := 0x1F }) []) (.tcfg (tileHdr 0) { a := 15, b := 11, per := 0x1F }) false [15] [] = true ∧
    tileRuns (ready (.tzero (tileHdr 0) { a := 2, per := 1 }) []) (.tzero (tileHdr 0) { a := 2, per := 1 }) false [2] [] = true ∧
    tileRuns (ready (.tzero (tileHdr 0) { acc := 7, per := 2 }) []) (.tzero (tileHdr 0) { acc := 7, per := 2 }) false [] [7] = true ∧
    tileRuns (ready (.tbind (tileHdr 1) { acc := 7, per := 255 }) [tk 5]) (.tbind (tileHdr 1) { acc := 7, per := 255 }) false [] [7]
      (fun i => (nodeOf (ready (.tbind (tileHdr 1) { acc := 7, per := 255 }) [tk 5]) i).accs == []) = true ∧
    tileRuns (ready (.tfree (tileHdr 1) {}) [tk 0x1F]) (.tfree (tileHdr 1) {}) false [15] [] = true ∧
    tileRuns (ready (.tfree (tileHdr 0) { acc := 1, per := 1 }) []) (.tfree (tileHdr 0) { acc := 1, per := 1 }) false [] [1] = true := by decide +kernel

theorem wit_KSteps_starts :
    (([(.mma (tileHdr 2) { acc := 6, za := true }, [tk 0x1F, tk 0x12]), (.mma (tileHdr 3) { acc := 6, asc := true }, [tk 0x1F, tk 0x12, tk 127]),
       (.mmasp (tileHdr 0) { a := 15, b := 2, acc := 6, sp := true, per := 0x2C00 }, [])] : List (Instr × List Token)).all fun p =>
      let s := ready p.1 p.2
      tileRuns s p.1 false [15, 2, 3, 11] [6] fun i =>
        (nodeOf s i).kstep == none && stepLeave (nodeOf s i) i 6 == .mmaOne i.f i.slot &&
          (let t := s.modDie (unitDie i.f.u) fun d => { d with leaves := [{ who := .mmaOne i.f i.slot, until_ := some 0 }] }
           tileRuns t p.1 false [15, 2, 3, 11] [6] fun i =>
             (nodeOf t i).kstep == none && hasLeave t (unitDie i.f.u) (stepLeave (nodeOf t i) i 6))) = true ∧
    stepA (tileHdr 2) {} { ops := [tk 0x1F, tk 0x12] } = 15 ∧ stepB (tileHdr 2) {} { ops := [tk 0x1F, tk 0x12] } = 2 := by decide +kernel

theorem wit_KSteps_ends :
    let w : Instr := .mma (tileHdr 0) {}
    let r := ready w []
    let k : KStep := { acc := 7, f := r.focus, next := { p := true } }
    let s := r.modNode r.focus.u fun t => { t with kstep := some k }
    (s.node 0 0).kstep = some k ∧ k.ends ≤ s.clk ∧ k.live = true ∧ hdrAt s k.f k.slot = some (tileHdr 0) ∧
      (issueOf { s with focus := k.f, focusSlot := k.slot } (tileHdr 0)).isSome = true := by decide +kernel

theorem wit_KSteps_pruned : (31 : Nat) < 32 ∧ (∀ x ∈ ([none] : List (Option KLeaf)), x = none) ∧ ({} : Acc).isInt = false ∧
    ({} : Acc).el (31 * 32 + 31) < 2 ^ 32 := by decide

/-- A tread or twrite at a row and a column of the given place. -/
def elemReads (per : BitVec 14) (rc : Word) : Bool :=
  let w : Instr := .tread ⟨.f32, .always, 1, none, none⟩ { per := per }
  tileRuns (ready w [tk rc]) w false [0] [0]
def elemWrites (per : BitVec 14) (rc : Word) : Bool :=
  let w : Instr := .twrite ⟨.f32, .always, 2, none, none⟩ { per := per }
  tileRuns (ready w [tk 1, tk rc]) w false [0] [0] fun i => placeOf { per := per } (some i.r) == (rc.toNat / 128 % 32, rc.toNat % 128)

/-- An accumulator's last column and the one after it, a tile's last element and side byte, and the row after a tile of
one row. -/
theorem wit_TileElements :
    elemReads 0x2000 0xF9F = true ∧ placeOf {} (some (tk 0xF9F)) = (31, 31) ∧ elemReads 0x2000 0xFA0 = true ∧ placeOf {} (some (tk 0xFA0)) = (31, 32) ∧
    elemReads 0 0xFFF = true ∧ (31 : Nat) < ({} : Tile).rows ∧ (127 : Nat) < ({ fmt := 0 } : Tile).perRow ∧ elemReads 0x1000 0xF87 = true ∧
    placeOf {} (some (tk 0xF87)) = (31, 7) ∧ ({ rowsM1 := 0 } : Tile).rows ≤ 1 ∧ placeOf {} (some (tk 0x80)) = (1, 0) ∧ elemReads 0 0x80 = true ∧
    elemWrites 0x2000 0xF9F = true ∧ elemWrites 0 0xF80 = true ∧ elemWrites 0 0x80 = true := by decide +kernel

theorem wit_TileConversions :
    (let w : Instr := .tscal ⟨.f32, .always, 1, none, none⟩ { acc := 7, per := 4 }
     tileRuns (ready w [tk 1]) w false [] [7] = true) ∧
    (let w : Instr := .tcvt ⟨.mx, .always, 0, none, none⟩ { a := 15, acc := 7, per := 0x20 }
     tileRuns (ready w []) w false [15] [7] (fun i => !tstWaits (ready w []) i.f.u 15) = true) ∧
    (([true, false] : List Bool).all fun n =>
      let w : Instr := .tamax (tileHdr 0) { acc := 7, per := 1 }
      let r := ready w []
      let s := r.modNode r.focus.u fun t => t.setAcc 7 { isInt := n, els := [(5, 7)] }
      tileRuns s w false [] [7] fun i => ((nodeOf s i).acc 7).isInt == n) = true ∧
    (([0, 10] : List Nat).all fun m =>
      let w : Instr := .tamax (tileHdr 0) { a := 15 }
      let r := ready w []
      let s := r.modNode r.focus.u fun t => t.setTile 15 { fmt := m }
      tileRuns s w false [15] [] fun i => fmtInt ((nodeOf s i).tile 15).fmt == (m == 0)) = true ∧
    (([({ fmt := 0 }, false), ({ fmt := 0xD }, false), ({ fmt := 0, colsM1 := 7 }, true)] : List (Tile × Bool)).all fun p =>
      let w : Instr := .ttrans (tileHdr 0) { a := 15, b := 1 }
      let r := ready w []
      let s := r.modNode r.focus.u fun t => t.setTile 15 p.1
      tileRuns s w false [15, 1] [] fun i =>
        let a := (nodeOf s i).tile 15
        (a.fmt ≠ 0xD && a.fmt ≠ 0xE && decide (a.perRow ≤ 32) && a.rows * (a.elBits / 8) % 4 == 0) == p.2) = true := by decide +kernel

theorem wit_TileTransfers :
    (([.tld (tileHdr 3) { a := 15, per := 5 }, .tst (tileHdr 3) { a := 15, per := 5 }] : List Instr).all fun w =>
      runs (ready w [tk 0x30, tk (-16), tk 8]) w true false false fun i =>
        i.l.pay.toNat % 16 == 0 && Int.bmod i.r.pay.toNat (2 ^ 64) % 16 == 0 && i.x.pay.toNat % 8 == 0 &&
          !inMirror (ready w [tk 0x30, tk (-16), tk 8]) i.f.u) = true ∧
    (let w : Instr := .tld (tileHdr 1) {}
     runs (ready w [tk 8]) w true false false (fun i => i.l.pay.toNat % 16 ≠ 0) = true) ∧
    (([0, 1] : List (BitVec 2)).all fun ar =>
      let w : Instr := .acon (tileHdr ar) { acc := 2 }
      tileRuns (ready w ([tk 5].take ar.toNat)) w true [] [2]) = true := by decide +kernel

/-- A pool of 32-bit integer sums, of two elements and two partials. -/
def sums : PoolRec := { id := 511, op := 8, ty := 2, len := 2, width := 2 }
/-- A state with the pool 511 of context 0. -/
def pooled (s : State) (p : Pool := { decl := sums, base := [1, 2], parts := [{ idx := 1, ty := 2, data := [3, 4] }] }) : State := s.setPool 0 511 p

/-- A record of the type in memory at address 0x100040 (virtual 0x40), and one that is all zero. -/
theorem wit_PoolReleases_pdecl :
    (([2, 0] : List Nat).all fun ty =>
      let w : Instr := .pdecl ⟨.i32, .always, 1, none, none⟩ ⟨511, 0⟩
      let r := mapped (ready w [tk 0x40])
      let s := { r with mem := r.mem ++ (if ty = 0 then [] else [(0x100043, 2)]) }
      runs s w true false false fun i => !mustWait s i &&
        match readRange s i i.l.pay.toNat 32 with
        | .ok bs false _ _ => (poolRecOf bs).any fun q => q.ty == ty
        | _ => false) = true ∧ Ty.code .i32 = 2 ∧
    (let w : Instr := .pdecl ⟨.i32, .always, 1, none, none⟩ ⟨511, 0⟩
     runs (mapped (ready w [tk 0x42])) w true false false (fun i => !mustWait (mapped (ready w [tk 0x42])) i &&
       decide (i.l.pay.toNat < 2 ^ 56) && i.l.pay.toNat % 4 ≠ 0) = true) := by decide +kernel

theorem wit_PoolReleases_pcon :
    (([(1, 0x3FFF, false), (2, 0x8000, false), (2, 0x8000, true)] : List (BitVec 2 × BitVec 16 × Bool)).all fun p =>
      let w : Instr := .pcon ⟨.f32, .always, p.1, none, none⟩ ⟨511, p.2.1⟩
      runs (ready w ([{ pay := 0x1001, p := p.2.2 }, tk 5].take p.1.toNat)) w true true false
        fun i => !p.2.1.getLsbD 14 && p.2.1.getLsbD 15 == (p.1 == 2) && i.l.p == p.2.2) = true ∧
    (let w : Instr := .pcon ⟨.i32, .always, 1, none, none⟩ ⟨511, 0x4000⟩
     let s := pooled (ready w [tk 0x40])
     runs s w true true false (fun i => !mustWait s i && s.ctxOf i.f.u == 0 && i.l.pay.toNat % 4 == 0 &&
       decide (i.l.pay.toNat + 2 * 4 ≤ sharedSize s i.f.u)) = true) := by decide +kernel

theorem wit_PoolReleases_rest :
    (([.pset ⟨.none, .always, 0, none, none⟩ ⟨511, 15⟩, .pdrop ⟨.none, .always, 0, none, none⟩ ⟨0, 0⟩] : List Instr).all fun w =>
      runs (ready w []) w true false false fun i => !inMirror (ready w []) i.f.u) = true ∧
    (let w : Instr := .pexp ⟨.none, .always, 1, none, none⟩ ⟨511, 15⟩
     let s := pooled (mapped (ready w [tk 0x3C]))
     runs s w true false false (fun i => !inMirror s i.f.u && s.ctxOf i.f.u == 0 && i.l.pay.toNat % poolSize sums == 0 && poolBytes sums == 8 &&
       match segsFrom s i.f.u (vCuts 2 i.l.pay.toNat 8) with
       | .ok l => l.length == 2
       | _ => false) = true) ∧
    (let w : Instr := .pexp ⟨.none, .always, 1, none, none⟩ ⟨511, 15⟩
     let s := ready w [tk 0x3C]
     runs s w true false false (fun i => !inMirror s i.f.u && (s.pool? (s.ctxOf i.f.u) 511).isNone) = true) := by decide +kernel

/-- The reads of a pool that is answered, absent, and of another type or length. -/
theorem wit_PoolReads :
    (([.prd ⟨.i32, .always, 0, none, none⟩ ⟨511, 16⟩, .pswap ⟨.i32, .always, 0, none, none⟩ ⟨511, 16⟩, .pstat ⟨.none, .always, 0, none, none⟩ ⟨511, 0⟩,
       .prd ⟨.i64, .always, 0, none, none⟩ ⟨511, 16⟩, .prd ⟨.i32, .always, 1, none, none⟩ ⟨511, 0⟩] : List Instr).all fun w =>
      let r := ready w [tk 2]
      let ans : Wait := { id := 6, asker := .fire { u := 0 } 0, res := some (.value [7, 8] false [] ) }
      let s := pooled r { decl := sums, waits := [ans] }
      runs r w true false false (fun i => !mustWait r i && !poolBehind r (.oper i.f.u i.f.op) 511 && (r.pool? 0 511).isNone) &&
      runs s w true false false (fun i => !mustWait s i && !poolBehind s (.oper i.f.u i.f.op) 511 &&
        (s.pool? (s.ctxOf i.f.u) 511).any fun p => (p.waits.find? fun w => w.asker == .fire i.f i.slot) == some ans)) = true ∧
    (let w : Instr := .prd ⟨.i32, .always, 0, none, none⟩ ⟨511, 16⟩
     let a : Wait := { id := 6, asker := .fire { u := 0 } 0, res := some (.value [7, 8] false []) }
     let s : State := { ready w [] with poolLeft := [(poolKey 0 511, sums, a)] }
     runs s w true false false (fun i => !mustWait s i && !poolBehind s (.oper i.f.u i.f.op) 511 &&
       leftWait s (s.ctxOf i.f.u) 511 i == some (sums, a)) = true) ∧
    State.reset.poolLeft = [] ∧ sums.ty = Ty.code .i32 ∧ (1 : Nat) < sums.len ∧ sums.len ≤ 2 ∧ sums.ty ≠ Ty.code .i64 := by decide +kernel

theorem wit_PoolReadYieldsTheSum :
    let w : Instr := .prd ⟨.i32, .always, 0, none, none⟩ ⟨511, 20⟩
    let s := pooled (ready w [])
    let p : Pool := { decl := sums, base := [1, 2], parts := [{ idx := 1, ty := 2, data := [3, 4] }] }
    runs s w true false false (fun i => !mustWait s i && !poolBehind s (.oper i.f.u i.f.op) 511 && s.pool? (s.ctxOf i.f.u) 511 == some p &&
      !waitsSaved s (s.ctxOf i.f.u) && s.poolLeft == []) = true ∧
    p.glob = false ∧ p.fmt = 0 ∧ p.waits = [] ∧ p.decl.op = 8 ∧ p.decl.ty = Ty.code .i32 ∧ p.decl.expect = 0 ∧ p.decl.width = 2 ^ 1 ∧
    p.base.length = p.decl.len ∧ (∀ q ∈ p.parts, q.data.length = p.decl.len) ∧
    (20 : BitVec 16).toNat / 16 < p.decl.len ∧ (20 : BitVec 16).getLsbD 2 = true := by decide +kernel

theorem wit_PoolReadYieldsTheSum_base : (([1, 2] : List Word).all fun b => resPay .i32 (opNum .i32 b) == b) = true := by decide

/-- The partials of that pool are whole. -/
theorem wit_PoolReadYieldsTheSum_whole (g : Nat) (q : Partial)
    (h : partAt { decl := sums, parts := [{ idx := 1, ty := 2, data := [3, 4] }] } 0 g = some q) : partBad sums q = false := by
  have hm := List.mem_of_find?_eq_some h
  simp only [List.mem_singleton] at hm
  subst hm; decide

/-- A released pool operation on its way. -/
def poolWay (e : Eff) : State := pooled { State.reset with pend := [{ id := 3, who := .oper 0 0, eff := e }], outstanding := [3] }

theorem wit_PoolHomeEvents_turn :
    let q : Partial := { idx := 0, ty := 2, data := [5, 6] }
    let late : Partial := { q with gen := 3 }
    let early : Partial := { q with gen := 1 }
    (([.pdecl 510 { sums with id := 510 }, .contrib 511 q, .contrib 511 late, .contrib 511 early, .pset 511 0 true true, .pdrop 511] : List Eff).all fun e =>
      let s := poolWay e
      let p : Pend := { id := 3, who := .oper 0 0, eff := e }
      (s.pend.find? fun r => r.id == 3) == some p && (effPool p.eff == some 511 || effPool p.eff == some 510) && p.step == 0 && s.live p.deps == [] &&
        s.pend.all fun r => r.id == 3) = true ∧
    (let s := (poolWay (.pdecl 510 sums)).setCtx 0 0x15 64
     s.pool? 0 510 = none ∧ wbit (s.ctxReg 0 0x24) 0 = false ∧ poolRecOk sums = true ∧
       usedOf s 0 0x15 + poolUnits sums ≤ wbits (s.ctxReg 0 0x15) 31 0 ∧ (backPlace s 0 (poolUnits sums)).isSome = true) ∧
    ((poolWay (.pdrop 511)).pool? 0 511).any (fun o => !o.glob && o.waits == [] && o.fmt == 0 && o.decl.chk == 0 && o.decl.expect == 0 &&
      q.ty == o.decl.ty && decide (q.idx < o.decl.width) && q.data.length == o.decl.len && o.gen % 4 == q.gen && (partAt o o.gen q.idx).isNone &&
      (late.gen + 1) % 4 == o.gen % 4 && (o.gen + 1) % 4 == early.gen && (partAt o (o.gen + 1) q.idx).isNone &&
      !waitsSaved (poolWay (.pdrop 511)) 0 &&
      match readValue (poolWay (.pdrop 511)) o true with
      | .value v _ _ => v == [4, 6]
      | _ => false) = true ∧
    ((poolWay (.pdrop 511)).region 0).isMirror = false := by decide +kernel

theorem wit_PoolHomeEvents_deadline :
    let a : Wait := { id := 6, asker := .fire { u := 0 } 0, start := some 5 }
    let o : Pool := { decl := { sums with deadline := 100 }, waits := [a] }
    let s := (pooled State.reset o).setDev 0x30A 105
    s.pool? 0 511 = some o ∧ o.glob = false ∧ waitsSaved s 0 = false ∧ o.waits = [a] ∧ a.id = 6 ∧ a.kind = .prd ∧ a.remote = false ∧ a.res = none ∧ a.gen = o.gen ∧
      a.start = some 5 ∧ o.decl.deadline ≠ 0 ∧ 5 + o.decl.deadline ≤ s.clk ∧ a.asker = .fire { u := 0 } 0 := by decide +kernel

theorem wit_StreamWords :
    (([(.strm (tileHdr 1) ⟨0x7F2, 0⟩, [tk 128]), (.sstop (tileHdr 0) ⟨18, 1⟩, []), (.pbinv (tileHdr 1) ⟨0x20, 0⟩, [tk 0]), (.pbinv (tileHdr 0) ⟨0x7E0, 0⟩, []),
       (.sbar (tileHdr 0) ⟨0x7E0, 0⟩, []), (.cpy (tileHdr 1) ⟨15, 0⟩, [tk 0]), (.strmi (tileHdr 3) ⟨0x7EF, 0xCFEA⟩, [tk 0, tk 0x500000004, tk 0xFFFFFFFF00000008]),
       (.ringrel (tileHdr 1) ⟨15, 0xFFFF⟩, [tk (-1)]), (.tlrd (tileHdr 0) ⟨63, 0⟩, [])] : List (Instr × List Token)).all fun p =>
      let s := ready p.1 p.2
      runs s p.1 true false false fun i => !inMirror s i.f.u && !mustWait s i) = true := by decide +kernel

/-- A counter of 5 and waits for 4, 5 and 6; a ring with 1 slot released and 3 filled, and its slots 0, 2 and 3. -/
theorem wit_StreamWords_waits :
    (([4, 5, 6] : List (BitVec 16)).all fun n =>
      let w : Instr := .tlw (tileHdr 0) ⟨63, n⟩
      let s := (ready w []).modCtx 0 fun c => { c with tl := [(63, 5)] }
      runs s w true false false fun i => !mustWait s i && tabGet (s.ctx (s.ctxOf i.f.u)).tl 63 == 5) = true ∧
    (([0, 2, 3] : List (BitVec 16)).all fun n =>
      let w : Instr := .ringaw (tileHdr 0) ⟨15, n⟩
      let s := (ready w []).setCtx 0 0x6F 0x300000001
      runs s w true false false fun i => !mustWait s i && ringBefore n.toNat (ringRel s (s.ctxOf i.f.u) 15) == (n == 0) &&
        ringBefore n.toNat (ringFill s (s.ctxOf i.f.u) 15) == (n ≠ 3)) = true := by decide +kernel

/-- Cluster 0 of die 0 in a running region whose operator 0 takes tokens on channel 0, one port with a stream, memory mapped. -/
def flowing (p : Nat) (m : Option Stream) (hs : List Held := []) : State :=
  ((mapped (ready (.rix ⟨.none, .always, 0, none, none⟩ {}))).modUnit 0 fun v =>
    { v with store := v.store.map fun e => { e with opers := e.opers.map fun o => { o with chans := [{}] } } }).modPort 0 0 p fun q =>
      { q with bound := true, stream := m, held := hs }

/-- Four 4-byte elements from virtual 0x40, each 8 bytes after the one before. -/
def quad : Pattern := { base := 0x40, ty := 2, counts := [4], strides := [8], itsel := 1 }

/-- A released stream command of region 0's operator. -/
def commanded (e : Eff) (m : Option Stream := none) : State :=
  { flowing 3 m with pend := [{ id := 3, who := .oper 0 0, eff := e }], outstanding := [3] }

theorem wit_StreamCommands_accept :
    (([.strmi 0 3 quad, .strm 0 3 0x40, .sstop 0 3 false, .pbinv 0 none, .sbar 0] : List Eff).all fun e =>
      let s := commanded e (some { pat := quad })
      let p : Pend := { id := 3, who := .oper 0 0, eff := e }
      (s.pend.find? fun q => q.id == 3) == some p && effCl p.eff == some 0 && firstOf s p (fun e => effCl e == some 0) && s.live p.deps == [] &&
        actActive s p.own && ctxRuns s p.own.ctx && !(s.region p.own.reg).stopped &&
        decide ((s.cluster (s.region p.own.reg).die ((s.region p.own.reg).cluster 0)).queue.length < 32) &&
        patOk s p.own.ctx (portKind 3) quad && (springDest? s 0 0 3).isSome && (s.cluster 0 0).queue == [] &&
        (s.port 0 0 3).stream == some { pat := quad }) = true ∧
    noSbarFirst [{ kind := .strm quad }] ∧ (0x40 : Nat) % 128 ≠ 0 := by
  refine ⟨by decide +kernel, fun m r h => ?_, by decide⟩
  cases h; decide

theorem wit_StreamCommands_starts :
    let q : List Cmd := [{ id := 8, port := 2, kind := .strm quad }, { id := 9, port := 3, kind := .strm quad }, { id := 10, port := 4, kind := .marker 2 }]
    let r := (flowing 3 none).modCluster 0 0 fun c => { c with queue := q }
    let s := r.modPort 0 0 4 fun p => { p with bound := true }
    ((s.cluster 0 0).queue.find? fun n => n.id == 9) = some { id := 9, port := 3, kind := .strm quad } ∧
      mayStart s 0 0 { id := 9, port := 3, kind := .strm quad } = true ∧ quad.count ≠ 0 ∧
    ((s.cluster 0 0).queue.find? fun n => n.id == 10) = some { id := 10, port := 4, kind := .marker 2 } ∧
      mayStart s 0 0 { id := 10, port := 4, kind := .marker 2 } = true ∧ springDest? s 0 0 4 = some (.chan 0 0 0) ∧ destOpen s (.chan 0 0 0) = true ∧
      (deliver { s with nextId := s.nextId + 1 } { id := s.nextId, src := .port 0 0 4, dst := .chan 0 0 0, item := .mark .barrier 2 }).isSome = true := by
  decide +kernel

/-- A copy job in memory at virtual 0x100: one dimension of one 8-byte element in each pattern. -/
theorem wit_StreamCommands_job :
    let e : Eff := .cpy 15 0x100
    let r := commanded e
    let s := { r with mem := [(0x90, 1), (0x100109, 1), (0x100120, 1), (0x100189, 1), (0x1001A0, 1)] }
    let p : Pend := { id := 3, who := .oper 0 0, eff := e }
    ((s.pend.find? fun q => q.id == 3) == some p && firstOf s p (fun f => match f with | .cpy g _ => g == 15 | _ => false) && s.live p.deps == [] &&
      ctxRuns s p.own.ctx && decide ((jobsOf s (copyDie s p) 15).length < 16) &&
      match reachAll s { d := copyDie s p, x := p.own.ctx, who := .pend 3, u := agentUnit p.who, site := pendSite p } kOther (vCuts 6 0x100 256) with
      | .ok segs t => let (bs, bad, _, v) := readSegs t (readFloor t p.own.reg p.deps) t.clk segs; !bad && (jobOf v p.own.ctx bs).isSome
      | _ => false) = true := by decide +kernel

theorem wit_StreamElements_spring :
    let m : Stream := { pat := quad, pos := 3 }
    let s := flowing 7 (some m)
    ((s.port 0 0 7).stream == some m && portRuns s 0 0 7 && streamLeave s 0 0 7 m.pat && !m.pat.ring && springDest? s 0 0 7 == some (.chan 0 0 0) &&
      destOpen s (.chan 0 0 0) && elementAt m.pat m.pos == 0x58 && elementAt m.pat m.pos % 4 == 0 &&
      match nextElem s 0 0 7 m 0x58 4 with
      | .ok bs _ _ t => bs == [0, 0, 0, 0] && (deliver { t with nextId := t.nextId + 1 }
          { id := t.nextId, ctx := s.ctxOf (tarn0 0 0), src := .port 0 0 7, dst := .chan 0 0 0
            item := .tok { pay := resPay .i32 (natOfBytes bs), iter := 3 } }).isSome
      | _ => false) = true := by decide +kernel

/-- An outlet with a token, without and with a ring: where the next element goes, and that it may be stored. -/
theorem wit_StreamElements_outlet :
    (([false, true] : List Bool).all fun ring =>
      let pat : Pattern := { quad with ring := ring, ndim := 2, counts := [4, 2], strides := [8, 0] }
      let m : Stream := { pat := pat, pos := 3, fill := 1 }
      let h : Held := { item := .tok (tk 7) }
      let s := ((flowing 15 (some m) [h]).setCtx 0 0x50 0x10001).setCtx 0 0x60 0x100000000
      let v := (pickFrom s (outletChoices s 0 0 15 m)).2
      let t := setFill v 0 0 15 (if ring then 1 else 0)
      let va := if ring then 0x58 else 0x58
      let own := heldOwner m.own h (s.region (s.regOf (tarn0 0 0))).replays
      (s.port 0 0 15).stream == some m && portRuns s 0 0 15 && streamLeave s 0 0 15 m.pat && (s.port 0 0 15).held == [h] &&
        s.live (tk 7).deps == [] && elementAt pat 3 == 0x58 && (pickFrom s (outletChoices s 0 0 15 m)).1 == 0 && !m.ahead.contains (m.pos + 1) &&
        decide ((1 + 2 ^ 32 - ringRel s 0 0) % 2 ^ 32 < ringS s 0 0) && ringSlot s 0 0 1 == 0x40 && ringSize s 0 0 == 0x40 &&
        offsetOf ((indexOf pat.counts 3).take 1) pat.strides % (2 ^ 64 : Nat) == 24 &&
        !(s.region (s.regOf (tarn0 0 0))).isMirror && (s.region (s.regOf (tarn0 0 0))).mirror.isNone &&
        vCuts 2 va 4 == [(va, 4)] && !isPending t 0 va && (match xlate t 0 0 va kWrite true with | .ok pa l => pa == 0x100058 && pteClass l == 0 | _ => false) &&
        !physFault t 0x100058 kWrite && !lineHeld t (.mem 0x100058) 0 && storeRoom t (.mem 0x100058) 4 own.iv 0 == .ok && !inRegSpace 0x100058) = true := by
  decide +kernel

theorem wit_StreamElements_copy :
    (([true, false] : List Bool).all fun st =>
      let j : Job := { id := 9, src := { quad with host := true }, dst := { quad with host := true, base := 0x1000 }, pos := 2, started := st }
      let s := ((flowing 3 none).modDie 0 fun (d : Die) => { d with leaves := [{ who := .copy 0 0 15 9, until_ := some 0 }] })
      let t := modJobs s 0 15 fun _ => [j]
      jobsOf t 0 15 == [j] && jobMayStart t j && jobRuns t j && j.dst.count ≠ 0 && hasLeave t 0 (.copy 0 j.cl 15 j.id) &&
        elementAt j.src j.pos % 4 == 0 && elementAt j.dst j.pos == 0x1010) = true := by decide +kernel

/-- A tile of one row of 32 bytes from virtual 0x40. -/
def oneRow : Pattern := { base := 0x40, ty := 0, ndim := 1, counts := [32], strides := [1] }

theorem wit_TilePorts_claim :
    (([16, 17] : List Nat).all fun p =>
      let m : Stream := { pat := oneRow }
      let s := flowing p (some m)
      (s.port 0 0 p).stream == some m && portRuns s 0 0 p && streamLeave s 0 0 p m.pat && (p == 16 || !canClaim s 0 0 16) &&
        mayClaim s 0 0 p (tileHandle m 0) && (freeRegs (s.node 0 0)).head? == some 0) = true := by decide +kernel

/-- A claimed register whose one run has been read, and one that a replay fills: the handle leaves. -/
theorem wit_TilePorts_deliver :
    (([[], [(List.replicate 32 7, false)]] : List (List (List Byte × Bool))).all fun buf =>
      let m : Stream := { pat := oneRow, filling := some 0, part := if buf = [] then 32 else 0 }
      let s := (flowing 16 (some m)).modPort 0 0 16 fun q => { q with buffer := buf }
      (s.port 0 0 16).stream == some m && portRuns s 0 0 16 && streamLeave s 0 0 16 m.pat &&
        (s.region (s.regOf (tarn0 0 0))).ctx == s.ctxOf (tarn0 0 0) && springDest? s 0 0 16 == some (.chan 0 0 0) && destOpen s (.chan 0 0 0) &&
        (if buf = [] then decide ((s.port 0 0 16).buffer.length ≤ (s.port 0 0 16).bufPos) &&
          (match readRuns 0 0 16 0 (m.pat.rows * m.pat.rowCells + 1) m s with | .done _ => true | _ => false)
         else (s.port 0 0 16).buffer[(s.port 0 0 16).bufPos]? == some (List.replicate 32 7, false)) &&
        (let full := s.modNode (nodeKey 0 0) fun q => q.setTile 0 { (s.node 0 0).tile 0 with st := .held }
         let v := (linkDeps full).2
         let f : Flight := { id := v.nextId, src := .port 0 0 16, dst := .chan 0 0 0, item := .tok { tileHandle m 0 with deps := (linkDeps full).1 } }
         s.ctxOf (tarn0 0 0) == f.ctx && (deliver { v with nextId := v.nextId + 1 } f).isSome)) = true := by
  decide +kernel

/-- The one run of that tile: of its row, and of the side bytes of a row. -/
theorem wit_TilePorts_runs :
    let m : Stream := { pat := oneRow }
    let s := flowing 16 (some m)
    (m.part < m.pat.rows * m.pat.rowCells ∧ m.part = 0 * m.pat.rowCells + 0 ∧ 0 < m.pat.rowCells ∧ m.pat.ring = false ∧ 8 ≤ m.pat.elBits) ∧
    ((match nextRun s (s.ctxOf (tarn0 0 0)) m with
      | .ok g => g == { va := 0x40, cells := 32, bytes := 32 } &&
        (match reachAll s (portReacher s 0 0 16) kLoad (vCuts (g.bytes / 64 + 2) g.va g.bytes) with
         | .ok segs t => (readSegs t m.floor m.since segs).1.length == 32
         | _ => false)
      | _ => false) = true) ∧
    (let w : Pattern := { oneRow with ty := 9, base := 0x41 }
     (0x41 : Nat) % (w.elBits / 8) ≠ 0) ∧
    (let v : Pattern := { oneRow with ty := 0xD }
     v.rowCells = 33 ∧ v.counts.getD 0 0 = 32) := by decide +kernel

/-- A tile outlet with a null handle and one of register 15, whose row is stored in one run. -/
theorem wit_TilePorts_outlet :
    (([true, false] : List Bool).all fun n =>
      let m : Stream := { pat := oneRow }
      let k : Token := { pay := 0x1F, n := n }
      let h : Held := { item := .tok k }
      let s := flowing 18 (some m) [h]
      let own := heldOwner m.own h (s.region (s.regOf (tarn0 0 0))).replays
      let t := setFill s 0 0 18 0
      (s.port 0 0 18).stream == some m && portRuns s 0 0 18 && streamLeave s 0 0 18 m.pat && (s.port 0 0 18).held == [h] && s.live k.deps == [] &&
        !tileBusy (s.node 0 0) 15 && !(s.region (s.regOf (tarn0 0 0))).isMirror && (s.region (s.regOf (tarn0 0 0))).mirror.isNone &&
        !((s.node 0 0).tile 15).p && !(s.node 0 0).statics.contains 15 && own.ctx == s.ctxOf (tarn0 0 0) &&
        (match nextRun t own.ctx { m with fill := 0 } with | .ok g => g == { va := 0x40, cells := 32, bytes := 32 } | _ => false) &&
        vCuts 2 0x40 32 == [(0x40, 32)] && !isPending t 0 0x40 &&
        (match xlate t 0 0 0x40 kWrite true with | .ok pa l => pa == 0x100040 && pteClass l == 0 | _ => false) &&
        !physFault t 0x100040 kWrite && !lineHeld t (.mem 0x100040) 0 && storeRoom t (.mem 0x100040) 32 own.iv 0 == .ok && !inRegSpace 0x100040 &&
        (match storeRuns 0 0 own k (outletTile s 0 0 m k) (m.pat.rows * m.pat.rowCells + 1) m s with | .done _ => true | _ => false)) = true ∧
    (∀ j < 128, (outletTile (flowing 18 none) 0 0 { pat := oneRow } { pay := 0x1F }).xBit 0 j = false) := by decide +kernel

theorem wit_KernelWords :
    (([(.call (tileHdr 2) ⟨0x800, 8⟩, [tk 0x1000, { pay := 64, x := true }]), (.call (tileHdr 2) ⟨0xEF, 1⟩, [tk 0x1000, tk 64]), (.call (tileHdr 1) ⟨0, 0⟩, [tk 0]),
       (.tcall (tileHdr 2) ⟨0, 8⟩, [tk 0x1000, tk 64]), (.ret (tileHdr 1) ⟨0, 8⟩, [tk 64]), (.ret (tileHdr 0) ⟨0, 0⟩, []), (.kload (tileHdr 1) ⟨0, 1⟩, [tk 0]),
       (.kdrop (tileHdr 1) ⟨0, 0⟩, [tk 0])] : List (Instr × List Token)).all fun p =>
      let s := ready p.1 p.2
      runs s p.1 true false false fun i => !mustWait s i && !inMirror s i.f.u && (s.unit (memUnit i.f.u)).bad == [] && i.fi.staged == [] && s.holds == [] &&
        (i.ops.getLast?.getD {}).pay.toNat % 8 == 0 && decide (64 + 8 * 8 ≤ sharedSize s i.f.u)) = true := by decide +kernel

/-- A launch descriptor of zeros, one with a MODE that is none, and an address that is no multiple of 8. -/
theorem wit_GroupAndBarrierWords_launch :
    (([(0x40, 0, true), (0x40, 2, false), (0x44, 0, true)] : List (Word × Byte × Bool)).all fun p =>
      let w : Instr := .launch (tileHdr 1) ⟨0, 0⟩
      let r := mapped (ready w [tk p.1])
      let s := if p.2.1 = 0 then r else { r with mem := r.mem ++ [(0x100060, p.2.1)] }
      runs s w true false false fun i => !mustWait s i && !inMirror s i.f.u && (i.l.pay.toNat % 8 ≠ 0 ||
        match readRange s i i.l.pay.toNat 40 with
        | .ok bs false _ t => descOk t (descOf bs) == p.2.2
        | _ => false)) = true ∧
    (([(.gpatch (tileHdr 3) ⟨0, 0⟩, [tk 0, tk 1, tk 2]), (.doneI (tileHdr 0) ⟨0, 0⟩, [])] : List (Instr × List Token)).all fun p =>
      runs (ready p.1 p.2) p.1 true false false) = true := by decide +kernel

/-- Barriers in each state at the block's own depth and at another, and one whose barw has its answer. -/
theorem wit_GroupAndBarrierWords_barriers :
    (([(.idle, 0, []), (.armed, 0, []), (.propagating, 1, []), (.complete, 1, []), (.failed, 0, []),
       (.complete, 0, [{ f := { u := 0 }, slot := 0, res := some (true, [4]) }])] : List (BarSt × Nat × List BarWait)).all fun q =>
      ([(.bar (tileHdr 1) ⟨15, 1023⟩, [tk 1]), (.bar (tileHdr 0) ⟨15, 0⟩, []), (.barw (tileHdr 0) ⟨15, 0⟩, [])] : List (Instr × List Token)).all fun p =>
        let s := (ready p.1 p.2).modRegion 0 fun r => { r with bars := [(15, { st := q.1, depth := q.2.1, waits := q.2.2 })] }
        runs s p.1 true false false fun i => s.regOf i.f.u == 0 && !mustWait s i && (bar s 0 15).st == q.1 && depthOf s 0 == 0 &&
          (bar s 0 15).waits == q.2.2 && i.f == { u := 0 } && i.slot == 0 && decide (0 < (s.region 0).width)) = true := by decide +kernel

/-- Context 0 works in interval 5 of a device whose sealed interval is 2. -/
theorem wit_IntervalWords :
    (([(.sealI (tileHdr 1) ⟨0, 0⟩, [tk 3]), (.sealI (tileHdr 0) ⟨0, 0⟩, []), (.sealw (tileHdr 1) ⟨0, 0⟩, [tk 2]), (.sealw (tileHdr 1) ⟨0, 0⟩, [tk 3]),
       (.sealw (tileHdr 1) ⟨0, 0⟩, [tk 5]), (.sealw (tileHdr 0) ⟨0, 0⟩, []), (.ivrd (tileHdr 0) ⟨0, 0⟩, []), (.ivrd (tileHdr 0) ⟨0, 1⟩, []),
       (.ivrd (tileHdr 0) ⟨0, 2⟩, [])] : List (Instr × List Token)).all fun p =>
      let s := ((ready p.1 p.2).setCtx 0 1 5).setDev 0x301 2
      runs s p.1 true false false fun i => !inMirror s i.f.u && !mustWait s i && (s.ctxReg (s.ctxOf i.f.u) 1).toNat % 2 ^ 48 == 5 && s.sealed == 2) = true ∧
    (([(0, 0x48), (1, 0x4C)] : List (BitVec 16 × Word)).all fun p =>
      let w : Instr := .irrev (tileHdr 2) ⟨0, p.1⟩
      let s := mapped (ready w [tk p.2, tk 7])
      runs s w true false false fun i => !inMirror s i.f.u && !waitsInv s i &&
        unitAddr s i.f.u 0 i.l.pay (if p.1.getLsbD 0 then 4 else 8) kWrite == .ok (.mem (0x100000 + p.2.toNat)) 0 0) = true := by decide +kernel

/-- Registers of the context, the unit, the device and the secure ones, read and written on a tarn, and on a node. -/
theorem wit_SystemWords_registers :
    (([0x001, 0x0FE, 0x000, 0x100, 0x300, 0x302] : List (BitVec 12)).all fun n =>
      ([(.srd (tileHdr 0) ⟨n, 0⟩, []), (.swr (tileHdr 1) ⟨n, 0⟩, [tk 1])] : List (Instr × List Token)).all fun p =>
        !wellFormed p.1 || (let s := ready p.1 p.2
        runs s p.1 true false false fun i => !mustWait s i && !isCore i.f.u && !isNode i.f.u &&
          (secureReg s n.toNat && !isCore i.f.u && !(s.ctx (s.ctxOf i.f.u)).secure) == (n == 0x302))) = true ∧
    (([0x001, 0x000, 0x100, 0x300, 0x302] : List (BitVec 12)).all fun n => wellFormed (.srd (tileHdr 0) ⟨n, 0⟩)) = true := by decide +kernel

theorem wit_SystemWords_rest :
    (([(.leave (tileHdr 0) ⟨0, 1⟩, []), (.trap (tileHdr 1) ⟨0, 0xFFFF⟩, [tk 3]), (.yield (tileHdr 0) ⟨0, 0⟩, []), (.halt (tileHdr 0) ⟨0, 0⟩, []),
       (.meas (tileHdr 1) ⟨15, 0⟩, [tk 0]), (.wdog (tileHdr 0) ⟨0, 0xFFFF⟩, []), (.crypt (tileHdr 3) ⟨0, 0⟩, [tk 0, tk 0x100000000, tk 0]),
       (.crypt (tileHdr 3) ⟨1, 0⟩, [tk 0, tk 64, tk 128])] : List (Instr × List Token)).all fun p =>
      let s := ready p.1 p.2
      runs s p.1 true false false fun i => !mustWait s i && (s.die (unitDie i.f.u)).leaves == []) = true ∧
    (let w : Instr := .leave (tileHdr 0) ⟨0, 1⟩
     let s := (ready w []).modDie 0 fun (d : Die) => { d with leaves := [{ who := .inst { u := 0 } 0, until_ := some 0 }] }
     runs s w true false false (fun i => !mustWait s i && !isCore i.f.u && hasLeave s (unitDie i.f.u) (.inst i.f i.slot)) = true) := by decide +kernel

/-- A verification's ranges are read where the core's own memory is: the firmware's table of one leaf over them. -/
theorem wit_SystemWords_verify :
    let w : Instr := .crypt (tileHdr 3) ⟨1, 0⟩
    let r := ready w [tk 0, tk 64, tk 128]
    let s : State := { r.setDev 0x30E 1 with tlbs := [{ die := unitDie (coreKey 0), ctx := fwCtx, va := 0, size := 65536, leaf := 0x1000E7, lvl := 3 }] }
    runs s w true false false (fun i => !mustWait s i &&
      match readRange s i i.l.pay.toNat 64 with
      | .ok _ false _ a =>
        (match readRange a i i.r.pay.toNat 64 with
         | .ok _ false _ b => (match readRange b i i.x.pay.toNat 32 with | .ok _ false _ _ => true | _ => false)
         | _ => false)
      | _ => false) = true := by decide +kernel

/-- Cluster 0 of die 0 with operator 0 as given, and this token on its way. -/
def arriving (f : Flight) (q : OpState := {}) : State :=
  { (flowing 15 none [{ at_ := 1 }]).modUnit 0 fun v => { v with plane := { v.plane with ops := [(0, q)] } } with flight := [f] }

theorem wit_TokenArrivals :
    (([{ id := 4, dst := .port 0 0 15, item := .tok (tk 7) }, { id := 4, ctx := 9, dst := .port 0 0 15, item := .tok (tk 7) },
       { id := 4, dst := .chan 0 0 0, item := .tok { pay := 7, iter := 4095, sq := 255 } }] : List Flight).all fun f =>
      let s := arriving f { chans := [(0, { held := [{ item := .tok { iter := 4095, sq := 255 } }] })] }
      (s.flight.find? fun g => g.id == 4) == some f && !behind s f && !(s.region (s.regOf (destAt f.dst))).stopped && ownsUnit s 0 f.ctx == (f.ctx == 0) &&
        (s.port 0 0 15).bound && (chanRec? s 0 0 0).any (fun r => !r.out && r.kind == 0 && r.ch == 0) && !isNode 0 && (s.op? 0 0).isSome &&
        (s.unit 0).plane.ovf == [] && (s.op? 0 0).any fun q =>
          ((segmentAt (routeSeg (tabGet q.chans 0).held f.src) (tabGet q.chans 0).held []).map Prod.fst).any fun x => x.iter == 4095 && x.sq == 255) = true := by decide +kernel

/-- Two operators with a ready firing each, the first with 5 slots used of 4, the second with 4 of 3. -/
def twoReady (cur : Option Nat) (consec : Nat) : State :=
  (flowing 15 none).modUnit 0 fun v => { v with
    plane := { v.plane with ops := [(0, { slots := 5, share := 4, firings := [{ issue := 0 }] }), (1, { slots := 4, share := 3, firings := [{}] })] }
    cur := cur, consec := consec }

theorem wit_SelectionRule :
    lowestRatio (twoReady none 0) 0 [0, 1] = some 0 ∧ (∀ b ∈ [0, 1], keepsBound (twoReady none 0) 0 [0, 1] b = true) ∧
    pickOp (twoReady none 0) 0 [0, 1] = some 0 ∧ ([0, 1] : List Nat).Pairwise (· < ·) ∧
    (0 ∈ workers (twoReady (some 0) 15) 0 ∧ ((twoReady (some 0) 15).unit 0).cur = some 0 ∧ ((twoReady (some 0) 15).unit 0).consec < 16) ∧
    (((twoReady (some 0) 16).unit 0).cur = some 0 ∧ 16 ≤ ((twoReady (some 0) 16).unit 0).consec ∧ workers (twoReady (some 0) 16) 0 = [0, 1]) := by
  decide +kernel

theorem wit_FiringEvents_starts :
    let s := twoReady none 0
    let t := s.setDev 0x30A 20
    let g : Firing := { id := 3, st := .running, nrep := 5, block := 2 }
    let e := (flowing 15 none).modUnit 0 fun v => { v with plane := { v.plane with ops := [(0, { firings := [g] })] } }
    (unitRuns s 0 = true ∧ selectOp s 0 false = some 0 ∧ opWork s 0 0 = .start [{ issue := 0 }]) ∧
    ((t.op? 0 0).any (fun q => (freshLanes q).length == 1 && draining t 0 == false && decide (0 + holdOf t 0 ≤ t.clk)) = true ∧
      selectOp t 0 false = some 0 ∧ opWork t 0 0 = .start [{ issue := 0 }]) ∧
    (e.firing? { u := 0, op := 0, fr := 3 } = some g ∧ entryOf? e 0 0 g = .run 2 5) := by decide +kernel

theorem wit_FiringEvents_rest :
    (([.clear, .writeBack, .rollback] : List Cause).all fun c =>
      let g : Firing := { st := .held, cause := c }
      let s := (flowing 15 none).modUnit 0 fun v => { v with plane := { v.plane with ops := [(0, { firings := [g] })] } }
      s.firing? { u := 0 } == some g) = true ∧
    ((flowing 15 none).unit 0).owner.isSome = true ∧ isCore 0 = false ∧
    (let s := (twoReady none 0).setDev 0x30A 1024
     (s.unit 0).period + 1024 ≤ s.clk ∧ tabSorted (s.unit 0).plane.ops = true ∧ (s.unit 0).plane.ops.length ≤ 8) ∧
    0 < ((([(0, { occ := 3 }), (7, {})] : Tab OpState)).map fun o => o.2.occ).sum ∧ tabSorted ([(0, { occ := 3 }), (7, {})] : Tab OpState) = true := by
  decide +kernel

theorem wit_BlockCommitRule :
    let w : Instr := .wr ⟨.i32, .always, 1, none, none⟩ ⟨0, 0⟩
    let f : FireRef := { u := 0 }
    let s := { (ready w [tk 4]).modFiring f fun (g : Firing) => { g with fired := [0], branch := some 63, wrs := [(0, { val := 4 })] } with nextId := 1 }
    ((s.firing? f).any fun g => (s.op? 0 0).any fun q => (blockOf? s f).any fun b =>
      unitRuns s 0 && (s.unit 0).cur == some 0 && g.st == .running && g.started && !laneWaits q g && produced s f g b.2 && g.staged == [] &&
        tabSorted g.wrs && decide (g.nrep ≤ g.rep + 1) && decide (f.fr < s.nextId) &&
        (admitAll f (promised s f) [] ((inSlotOrder g).map fun v => (toPend s f g v, v.ok)) {} s).1 == { all := true }) = true := by decide +kernel

/-- A full channel: a send waits for room. -/
theorem wit_BlockCommitRule_waits :
    let f : FireRef := { u := 0 }
    let e : Staged := { id := 5, eff := .send 1 (tk 1) false }
    let base := (flowing 15 none).modUnit 0 fun v => { v with store := v.store.map fun e => { e with opers := e.opers.map fun o =>
      { o with chans := [{}, { ch := 1, out := true, dest := 0 }] } } }
    let r := base.modFiring f fun (g : Firing) => { g with fired := [0], branch := some 63, staged := [e] }
    let s := r.modUnit 0 fun v => { v with plane := { v.plane with ops := v.plane.ops.map fun o => (o.1, { o.2 with chans := [(0, { off := true })] }) } }
    ((s.firing? f).any fun g => (s.op? 0 0).any fun q => (blockOf? s f).any fun b =>
      unitRuns s 0 && (s.unit 0).cur == some 0 && g.st == .running && g.started && !laneWaits q g && produced s f g b.2 &&
        (let a := (admitAll f (promised s f) [] ((inSlotOrder g).map fun v => (toPend s f g v, v.ok)) {} s).1
         a.stop.isNone && !a.all && !a.close)) = true := by decide +kernel

/-- A block whose ffree names a place outside its frame is a fault; a send aborts in a drain when the arrival buffer is full. -/
theorem wit_BlockCommitRule_stops :
    let f : FireRef := { u := 0 }
    let base := (flowing 15 none).modUnit 0 fun v => { v with store := v.store.map fun e => { e with opers := e.opers.map fun o =>
      { o with chans := [{}, { ch := 1, out := true, dest := 0x50 }] } } }
    let full := base.modUnit 0 fun v => { v with plane := { v.plane with arrival := List.replicate 32 {} } }
    (([(.ffree 64, .run), (.send 1 (tk 1) false, .drainCall)] : List (Eff × Phase)).all fun e =>
      let r := full.modFiring f fun (g : Firing) => { g with fired := [0], branch := some 63, staged := [{ id := 5, eff := e.1 }] }
      let s := r.modRegion 0 fun (q : Region) => { q with phase := e.2 }
      (s.firing? f).any fun g => (s.op? 0 0).any fun q => (blockOf? s f).any fun b =>
        unitRuns s 0 && (s.unit 0).cur == some 0 && g.st == .running && g.started && !laneWaits q g && produced s f g b.2 &&
          (admitAll f (promised s f) [] ((inSlotOrder g).map fun v => (toPend s f g v, v.ok)) {} s).1.stop ==
            some (if e.2 = .run then .fault 0 fPERM 64 else .abort)) = true := by decide +kernel

theorem wit_BlockCommitRule_repeats :
    let g : Firing := { rep := 0, nrep := 2, st := .running }
    let s := (flowing 15 none).modUnit 0 fun v => { v with plane := { v.plane with ops := [(0, { firings := [g] })] } }
    g.rep + 1 < g.nrep ∧ s.firing? { u := 0 } = some g := by decide +kernel

/-- A seal message from a peer. -/
def sealFrom (src phase iv : Nat) : Packet := { typ := pkSEAL, src := src, iv := iv, body := bytesOf 1 phase }
/-- A leader with one device below at link 0, and a device with its leader at link 2, peer 7, and one below at link 0; interval 3 open. -/
def leads : State := ((State.reset.setDev 0x302 0x4000000000010000).setDev 0x311 0x20).setDev 0x300 3
def follows : State := { (State.reset.setDev 0x311 0x22).setDev 0x300 3 with links := [(2, { peer := 7 })] }

theorem wit_SealEvents_messages :
    (isSeal leads (sealFrom 9 0 3) 0 = true ∧ leads.leader = true ∧ leads.iv ≤ 3 ∧ leads.iv + 1 < 2 ^ 48) ∧
    (isSeal follows (sealFrom 9 0 3) 0 = true ∧ follows.leader = false) ∧
    (isSeal follows (sealFrom 7 1 3) 1 = true ∧ follows.iv = 3) ∧
    (let s := follows.setDev 0x301 2
     let t := follows.setDev 0x301 1
     isSeal t (sealFrom 7 3 2) 3 = true ∧ t.sealed + 1 = 2 ∧ 2 < t.iv ∧ s.sealed = 2) := by decide +kernel

/-- The oldest unsealed interval 1 is quiet, with its DONE from below and without. -/
theorem wit_SealEvents_done :
    (([leads, follows] : List State).all fun s =>
      let t := { s with sealing := { s.sealing with dones := [(1, 9)] } }
      let u := { s with sealing := { s.sealing with doneSent := [1] } }
      sealReady s 1 && !s.sealing.doneSent.contains 1 && donesOf s 1 == 0 && (downLinks s).length == 1 &&
        sealReady t 1 && donesOf t 1 == 1 && !sealReady s 2 &&
        isSeal s (sealFrom 9 2 1) 2 && decide (s.sealed < 1) && !s.sealing.dones.contains (1, 9) &&
        u.sealing.doneSent.contains 1 && isSeal u (sealFrom 9 2 1) 2 && decide ((downLinks u).length ≤ donesOf u 1 + 1) &&
        u.sealed + 1 == 1 && !u.sealing.rolling && decide (1 < u.iv)) = true := by decide +kernel

theorem wit_SealEvents_late :
    let q : Task := { ctx := 4, iv := 1 }
    let r := leads.setDev 0x30A 0x10000000
    let s := { r with tasks := [q], sealing := { r.sealing with closedAt := [(1, 5)] } }
    tabGet? s.sealing.closedAt (s.sealed + 1) = some 5 ∧ wbits (s.devReg 0x302) 31 0 ≠ 0 ∧
      5 + wbits (s.devReg 0x302) 31 0 * 1024 < s.clk ∧ s.sealed + 1 ∉ s.sealing.told ∧
      (∀ q ∈ s.tasks, q.iv = s.sealed + 1 → q.ctx = 4) ∧ (∃ q ∈ s.tasks, q.iv = s.sealed + 1) := by decide +kernel

theorem wit_RollbackAndReplay_messages :
    (isSeal leads (sealFrom 9 4 0) 4 = true ∧ rollsTo leads (sealFrom 9 4 0) 0 ∧ leads.sealing.lastTarget ≠ some 0) ∧
    (isSeal follows (sealFrom 7 4 1) 4 = true ∧ rollsTo follows (sealFrom 7 4 1) 1) ∧
    (isSeal follows (sealFrom 9 4 1) 4 = true ∧ follows.leader = false ∧ (9 : Nat) ≠ (follows.link (upLink follows)).peer) ∧
    (let s := { leads with sealing := { leads.sealing with lastTarget := some 0, tries := 2 } }
     isSeal s (sealFrom 9 4 0) 4 = true ∧ rollsTo s (sealFrom 9 4 0) 0 ∧ s.sealing.lastTarget = some 0 ∧ 2 ≤ s.sealing.tries) ∧
    (let e : Undo := { line := 64, iv := 3, data := [7] }
     let s := State.reset.modDie 7 fun (d : Die) => { d with undo := [{ line := 64, iv := 1, data := [9] }, e] }
     (s.die 7).undo.filter (fun v => v.iv > 2) = [e]) := by
  refine ⟨⟨by decide +kernel, Or.inl (by decide +kernel), by decide +kernel⟩, ⟨by decide +kernel, Or.inr (by decide +kernel)⟩,
    by decide +kernel, ⟨by decide +kernel, Or.inl (by decide +kernel), by decide +kernel⟩, by decide +kernel⟩

/-- The host's commands: with the triage duty its own and not. -/
theorem wit_RollbackAndReplay_commands :
    let rb : RegWrite := coreWrites 0x30D 0x2000000000000000
    let rt : RegWrite := coreWrites 0x30D 0x400000000000073F
    let s := (leads.setDev 0x305 0x400).modDie 3 fun (d : Die) => { d with journal := [{ iv := 2 }] }
    (writesTo leads rb 0x30D ∧ wbits rb.val 63 61 = 1 ∧ leads.triageHost = false) ∧
    (writesTo s rb 0x30D ∧ s.triageHost = true ∧ s.leader = true ∧ s.sealing.rolling = false ∧
      (∃ d ∈ s.dies, ∃ j ∈ d.2.journal, s.sealed < j.iv)) ∧
    (writesTo s rt 0x30D ∧ wbits rt.val 63 61 = 2 ∧ (tabGet s.clTab (clKey (wbits rt.val 10 8) (wbits rt.val 5 0))).out = false) ∧
    (writesTo leads rt 0x30D ∧ leads.triageHost = false) := by unfold writesTo; decide +kernel

/-- A region whose task may be replayed, and one that has been replayed three times. -/
theorem wit_RollbackAndReplay_replay :
    let kr : KRef := { image := 0x4000 }
    let s := ((State.reset.modCtx 9 fun _ => { st := .running, nreg := 1, task := some { idem := true } }).modRegion (regKey 9 0) fun _ =>
      { ctx := 9, width := 1, height := 1, kref := some kr }).modDie 0 fun (d : Die) => { d with images := [{ ctx := 9, addr := 0x4000 }] }
    let t := s.modRegion (regKey 9 0) fun (r : Region) => { r with replays := 3 }
    ((s.region (regKey 9 0)).kref = some kr ∧ mayReplay s (regKey 9 0) = true ∧
      (imageOf s (s.region (regKey 9 0)).die 9 kr.image).isSome = true) ∧
    ((t.region (regKey 9 0)).kref = some kr ∧ mayReplay t (regKey 9 0) = false) ∧
    (let u := { s with clTab := [(clKey 0 0, { faults := [0, 0] })] }
     u.triageHost = false ∧ 2 ≤ ((tabGet u.clTab (clKey 0 0)).faults.filter fun t => u.clk < t + 2 ^ 31).length) := by decide +kernel

/-- A cluster to be retired: with its spare free and taken, its one context saved, and running with a save area. -/
theorem wit_RollbackAndReplay_retire :
    let on := fun (st : CtxSt) (tab : Tab ClTab) => ({ (((State.reset.modCtx 9 fun _ => { st := st, nreg := 1 }).modRegion (regKey 9 0) fun _ =>
      { ctx := 9, width := 1, height := 1 }).setCtx 9 4 64) with fw := { retire := [clKey 0 0] }, clTab := tab } : State)
    (([[], [(clKey 0 1, { spare := true })]] : List (Tab ClTab)).all fun tab =>
      (on .saved tab).fw.retire.contains (clKey 0 0) && clusterCtxs (on .saved tab) 0 0 == [9] && ((on .saved tab).ctx 9).st == .saved &&
        spareTaken (on .saved tab) 0 (quadrant 0) == (tab ≠ [])) = true ∧
    (clKey 0 0 ∈ (on .running []).fw.retire ∧ clusterCtxs (on .running []) 0 0 = [9] ∧ ((on .running []).ctx 9).st = .running ∧
      noSave (on .running []) 9 = false) := by decide +kernel

/-- A device 4 with link 3 usable, its peer 9 routed over it, and a running context 0 with memory at virtual 0. -/
def linked (l : Link := { st := .up, lanes := 255, peer := 9 }) : State :=
  { ((flowing 15 none).setDev 0x312 0x200001).setDev 0x303 4 with links := [(3, l)], mem := [(0x90, 1), (0x200024, 8)] }

theorem wit_LinkEvents_commands :
    (([1, 2, 3, 4] : List Nat).all fun c =>
      ([.off, .train, .up, .degraded, .quiet, .down] : List LinkSt).all fun st =>
        let w : RegWrite := coreWrites 0x331 (BitVec.ofNat 64 (c * 2 ^ 61 + 0x200100))
        let s := { State.reset with links := [(17, { st := st, lanes := 15 })] }
        decide (w.num = 0x320 + 17) && writeReaches s w && wbits w.val 63 61 == c && (s.link 17).st == st) = true ∧ (17 : Nat) < 18 := by decide +kernel

theorem wit_LinkEvents_lanes :
    minLanes (linked { st := .train }) 3 = 2 ∧ lanesOf 1 < 2 ∧ 2 ≤ lanesOf 3 ∧ lanesOf 255 = 8 ∧
    linkUsable linked 3 = true ∧ (255 &&& 1 : Nat) ≠ 255 ∧ lanesOf (255 &&& 1) < 2 ∧ (255 &&& 15 : Nat) ≠ 255 ∧ lanesOf (255 &&& 15) = 4 := by decide +kernel

theorem wit_LinkEvents_rest :
    (([(0, 0), (256, 0xFF), (256, 0x100)] : List (Nat × Nat)).all fun q =>
      let s := (linked { st := .up, lanes := 255, window := q.2 }).setDev 0x323 (BitVec.ofNat 64 (0x200000 + q.1))
      linkUsable s 3 && quarantineAt s 3 == q.1 && (s.link 3).window == q.2) = true ∧
    (let x : Sent := { who := .oper 0 0, src := some 0 }
     let f : Flow := { id := 2, dev := 9, unacked := [x], stuck := some 5 }
     let l : Link := { st := .up, lanes := 255, peer := 9 }
     let s := { (linked.setDev 0x30A 0x100005) with flows := [f], links := [(3, l), (6, { l with seen := 0x100000 })], mem := [(0x90, 1), (0x200024, 0x48)] }
     (s.link 3).seen + 2 ^ 20 ≤ s.clk ∧ f.dev ≠ s.devId ∧ firstHop s f.dev x.links = some 3 ∧
       firstHop { s with links := [(3, { l with st := .down }), (6, { l with seen := 0x100000 })] } f.dev x.links = some 6 ∧
       s.clk < (s.link 6).seen + 2 ^ 20 ∧
       (s.flows.find? fun f => f.id == 2) = some f ∧ f.told = false ∧ 5 + 2 ^ 20 ≤ s.clk) := by decide +kernel

/-- A packet from the peer in turn. -/
def peer (typ : BitVec 8) (body : List Byte := []) (data : List Byte := []) (flow : Nat := 0) : Packet :=
  { typ := typ, src := 9, dst := 4, body := body, data := data, flow := flow }

/-- Whether a packet reaches the device on link 3. -/
def reachesB (s : State) (p : Packet) (typ : BitVec 8) : Bool :=
  arrives s 3 && !atShore s 3 p && !inRx s 3 p && p.typ == typ && !p.mc && p.dst == s.devId && p.src ≠ s.devId && !p.p

theorem wit_PacketArrivals_tokens :
    let p := peer pkTOKEN
    let idle := linked.modCtx 0 fun c => { c with st := .idle }
    let kept := linked.modCtx 0 fun c => { c with st := .saved }
    let full : State := { kept with shore := List.replicate 255 { pkt := peer pkTOKEN [1] } }
    (reachesB linked p pkTOKEN && p.flow == (flowIn linked p).next && shoreOf linked p == [] &&
      (match landing linked p with | .lands d => d == .chan 0 0 0 | _ => false) &&
      reachesB idle p pkTOKEN && (match landing idle p with | .refused => true | _ => false) &&
      reachesB kept p pkTOKEN && (match landing kept p with | .held => true | _ => false) &&
      reachesB full p pkTOKEN && (shoreOf full p).length == 255 && !(flowIn full p).off &&
      reachesB linked (peer pkTOKEN [] [] 1) pkTOKEN) = true ∧
    (let s : State := { linked with flowsIn := [{ dev := 9, next := 3 }] }
     reachesB s (peer pkTOKEN [] [] 2) pkTOKEN = true ∧ 2 < (flowIn s (peer pkTOKEN [] [] 2)).next ∧ s.shore = []) ∧
    (let s : State := { linked with rx := [{ link := 3, pkt := p }] }
     inRx s 3 p = true ∧ atShore s 3 p = false ∧ p.flow = (flowIn s p).next ∧ shoreOf s p = [] ∧
       landing s p = .lands (.chan 0 0 0)) := by decide +kernel

theorem wit_PacketArrivals_others :
    let away : Packet := { peer pkPART with dst := 9 }
    let bad : Packet := { peer pkWRITE with p := true }
    (arrives linked 3 && !atShore linked 3 bad && !inRx linked 3 bad && !bad.mc && bad.dst == linked.devId && bad.p && !linked.triageHost && !ctxWaits linked 0 &&
      away.dst ≠ linked.devId && firstHop linked away.dst 0 == some 3 && !knownType 0xFF) = true ∧
    (let s := linked.setDev 0x305 0x400
     let bad : Packet := { peer pkTOKEN with p := true }
     arrives s 3 && !atShore s 3 bad && !inRx s 3 bad && !bad.mc && bad.dst == s.devId && bad.p && (s.ctx 0).st == .running) = true ∧
    (let p := peer pkWRITE (bytesOf 8 0x40 ++ bytesOf 2 2) [7, 8]
     let s : State := { linked with tlbs := [{ die := homeOf linked 0, ctx := 0, va := 0, size := 65536, leaf := 0x1000E7, lvl := 3 }] }
     reachesB s p pkWRITE = true ∧ p.flow = (flowIn s p).next ∧ ctxWaits s 0 = false ∧ (writeRemote (heard s 3) p).isSome = true) ∧
    (let p := peer pkPART (bytesOf 4 511 ++ bytesOf 6 0 ++ bytesOf 2 2)
     let s := pooled linked
     reachesB linked p pkPART = true ∧ linked.pool? 0 511 = none ∧ reachesB s p pkPART = true ∧ (s.pool? 0 511).isSome = true ∧
       p.flow = (flowIn s p).next) ∧
    (([0x92, 0x93, 0x94, 0x95, 0x96] : List Nat).all fun op =>
      let p := peer pkPOOLOP (bytesOf 8 op ++ bytesOf 4 511)
      reachesB (pooled linked) p pkPOOLOP && (poolopKind (fld p.body 0 1)).isSome && ((pooled linked).pool? 0 (fld p.body 8 2)).any poolTakes &&
        (linked.pool? 0 (fld p.body 8 2)).isNone) = true ∧
    (reachesB linked (peer pkVALUE) pkVALUE = true ∧ linked.pools = [] ∧ reachesB linked (peer pkCTL (bytesOf 4 0 ++ bytesOf 4 1)) pkCTL = true) ∧
    (([0, 0x22] : List Nat).all fun st =>
      let p := peer pkACK (bytesOf 4 7 ++ bytesOf 4 st)
      let x : Sent := { pkt := { flow := 7 }, who := .oper 0 0, src := some 0 }
      let f : Flow := { dev := 9, unacked := [x] }
      let s : State := { linked with flows := [f] }
      reachesB s p pkACK && s.mcAcks == [] && f.dev == p.src && f.unit == p.unit && f.ctx == p.ctx && x.pkt.flow == fld p.body 0 4 &&
        fld p.body 4 4 == st && (s.ctx 0).st == .running) = true := by decide +kernel

/-- A VALUE for a read and for a settle of a pool whose home is device 9, each the first request of its flow. -/
theorem wit_PacketArrivals_value :
    (([(.fire { u := 0 } 0, .prd), (.fire { u := 0 } 0, .pset), (.fire { u := 0 } 0, .pstat), (.pend 3, .pset)] : List (Asker × WaitKind)).all fun a =>
      let w : Wait := { id := 6, kind := a.2, asker := a.1, remote := true, flow := 5 }
      let q : Pool := { decl := sums, glob := true, map := [9, 4], waits := [w] }
      let s : State := { pooled linked q with pend := [{ id := 3, who := .oper 0 0 }], outstanding := [3] }
      let mine := fun (w : Wait) => w.remote && w.res.isNone && w.flow == 5 && askerUnit s w.asker == (peer pkVALUE).unit
      ([0, 0x35] : List Nat).all fun st =>
        let p := peer pkVALUE (bytesOf 4 5 ++ bytesOf 4 st) (bytesOf 8 7)
        reachesB s p pkVALUE && fld p.body 0 4 == 5 && fld p.body 4 4 == st &&
          (s.pools.find? fun e => e.1 / 512 == p.ctx && e.2.map.getD 0 0 == p.src && e.2.waits.any mine) == some (511, q) &&
          q.waits.find? mine == some w && q.waits.all fun v => v.res.isNone) = true := by decide +kernel

/-- A link engine's job of 5,000 bytes, 4,096 of them sent: its route is entry 0, to the peer. -/
theorem wit_PacketArrivals_engine :
    let j : LinkJob := { id := 1, src := 0x40, dst := 0x80, bytes := 5000, pos := 4096 }
    let r := { (linked.setCtx 0 0x23 1) with linkJobs := [(3, [j])], mem := [(0x90, 1), (0x100000, 9), (0x200024, 8)] }
    let s : State := { r with tlbs := [{ die := linkDie 3, ctx := 0, va := 0, size := 65536, leaf := 0x1000E7, lvl := 3 }] }
    (linkHead s 3 == some j && decide (j.pos < j.bytes) &&
      match readRoute s (linkDie 3) j.ctx j.route with
      | .ok r a => r.dev == 9 && !r.mc && !noDevice a r.dev &&
          (match reachAll a { d := linkDie 3, x := j.ctx, who := .link 3, site := linkSite a j } kLoad (vCuts (904 / 64 + 2) (j.src + j.pos) 904) with
           | .ok gs b => decide ((readSegs b j.floor j.since gs).1.length ≤ 2048)
           | _ => false)
      | _ => false) = true := by decide +kernel

/-- A partition table at address 0 whose entry 0 has this STATE, with cluster 0 of die 0, for function 0. -/
def parted (st : Byte) (s : State := State.reset) : State :=
  { s.setDev 0x306 1 with mem := (if st = 0 then [] else [(0, st)]) ++ [(0x10, 1)], parts := [(0, bytesOf 16 1 ++ [1])] }

theorem wit_PartitionEvents_pctl :
    (([1, 2, 3] : List Nat).all fun c =>
      let w : RegWrite := coreWrites 0x307 (BitVec.ofNat 64 (c * 2 ^ 61))
      let b := (parted 0).setDev 0x307 16
      decide (w.num = 0x307) && writeReaches (parted 0) w && wbits w.val 63 61 == c && !pctlBusy (parted 0) && !pctlBusy (parted 1) &&
        entryOkFor (parted 0) 0 && entryOkFor (parted 1) 0 && ptabByte (parted 0) 0 0 == 0 && ptabByte (parted 1) 0 0 == 1 &&
        !entryOkFor State.reset 0 && writeReaches b w && pctlBusy b) = true ∧
    (∀ c ∈ (parted 1).ctxs, c.2.st = .free ∨ c.2.part ≠ 0) ∧
    (∃ c ∈ ((parted 1).modCtx 7 fun c => { c with st := .idle }).ctxs, c.2.st ≠ .free ∧ c.2.part = 0) := by decide +kernel

theorem wit_PartitionEvents_resize :
    let old := bytesOf 16 1 ++ [1]
    let s := (((parted 1).modCtx 7 fun c => { c with st := .running, nreg := 1 }).modRegion (regKey 7 0) fun _ =>
      { ctx := 7, origin := 5, width := 1, height := 1 }).setCtx 7 4 64
    let t : State := { s with parts := [(0, bytesOf 16 1 ++ [0x21])] }
    entryOkFor s 0 = true ∧ movingCtxs s old (entryBytes s 0) = [] ∧ s.sealing.rolling = false ∧
    entryOkFor t 0 = true ∧ movingCtxs t ((tabGet? t.parts 0).getD []) (entryBytes t 0) = [7] ∧ (t.ctx 7).st = .running ∧ noSave t 7 = false ∧
    (∀ d < 8, (s.die d).undo = []) := by
  decide +kernel

/-- A list of one row in host memory: cluster 0, and cluster 1 that the partition does not own. -/
theorem wit_PartitionEvents_functions :
    (([0, 1] : List Byte).all fun o =>
      let r := parted 1
      let s : State := { r with hostMem := (if o = 0 then [(64, 1)] else [(64, 1), (73, o)]) ++ [(74, 1), (75, 1)], fns := [(0, { list := 64 })] }
      fnPart s 0 == some 0 && !(tabGet s.fns 0).busy && ((upFrom 0 256).find? fun y => (s.ctx y).st == .free) == some 0 &&
        match regionList s (tabGet s.fns 0).list.toNat with
        | some rows => rows.length == 1 && rows.all fun r => rowOk s 0 r == (o == 0) && !rowTaken s r
        | none => false) = true ∧
    (([.idle, .stopped, .running] : List CtxSt).all fun st =>
      let s := (parted 1).modCtx 255 fun c => { c with st := st }
      fnPart s 0 == some 0 && !(tabGet s.fns 0).busy && (s.ctx 255).part == 0 && (s.ctx 255).st == st) = true ∧
    wbits (0x40000000000000FF : Word) 63 61 = 2 ∧ wbits (0x40000000000000FF : Word) 7 0 = 255 ∧ wbits (0x2000000000000000 : Word) 63 61 = 1 := by decide +kernel

theorem wit_FirmwareEvents :
    let w : RegWrite := coreWrites 0x308 0x10
    (writesTo State.reset w 0x308 ∧ wbit w.val 4 = true ∧ State.reset.fw.switching = false ∧ State.reset.fw.updating = false ∧ (State.reset.queue 3).st ≠ .quiesced) ∧
    (let s : State := { State.reset with fw := { updating := true } }
     writesTo s w 0x308 ∧ s.fw.updating = true) ∧
    (([7, 8] : List Nat).all fun c =>
      let s : State := { (State.reset.setDev 0x30A 7).setDev 0x308 14 with fw := { wdog := some c } }
      s.fw.wdog == some c && trial s && decide (s.clk < c) == (c == 8)) = true := by unfold writesTo; decide +kernel

/-- Either outcome of the check of the active slot's image is one of the two cases (its words are free values, log 32). -/
theorem wit_FirmwareEvents_slots :
    (imageGood (activeSlot State.reset) = true ∨ imageGood (!activeSlot State.reset) = true) ∨
    (imageGood (activeSlot State.reset) = false ∧ imageGood (!activeSlot State.reset) = false) := by
  cases imageGood (activeSlot State.reset) <;> cases imageGood (!activeSlot State.reset) <;> simp

/-- Whether an outcome is a next state. -/
def goesOn (o : Host.Outcome State Fault Refusal) : Bool := match o with | .next _ => true | _ => false

theorem wit_DecodeEncodeAgree :
    (wordParts (.movk ⟨.i64, .always, 1, some ⟨.g, 127⟩, some ⟨.x, 1⟩⟩ ⟨true, 3, 0xFFFF⟩)).isSome = true ∧
    wellFormed (.movk ⟨.i64, .always, 1, some ⟨.g, 127⟩, some ⟨.x, 1⟩⟩ ⟨true, 3, 0xFFFF⟩) = true ∧
    decode 0xBCFE000000000000 = .instr (.irrev ⟨.none, .order, 2, none, none⟩ ⟨0, 0⟩) := by decide

theorem wit_StepRunsDecoded :
    let s := { (ready (.rix ⟨.none, .always, 0, none, none⟩ {})) with agenda := [.fetch { u := 0 } 0, .tick 3] }
    let n := { s with agenda := [.fetch { u := 0 } 1] }
    let b := { (State.reset.withFetchWord 64 1) with agenda := [.fetch { u := 0 } 0] }
    (canFetch s { u := 0 } = true ∧ (fetchWord s { u := 0 } 0).any (fun w => match decode w with | .instr i => i == .rix ⟨.none, .always, 0, none, none⟩ {} | _ => false) = true) ∧
    (canFetch n { u := 0 } = true ∧ fetchWord n { u := 0 } 1 = none) ∧
    (canFetch b { u := 0 } = true ∧ fetchWord b { u := 0 } 0 = some 1 ∧ decode 1 = .refused 1) ∧
    canFetch State.reset { u := 0 } = false ∧ wordParts (.watchdogExpiry) = none ∧ State.reset.clk + 3 < 2 ^ 64 ∧ State.reset.agenda = [] := by decide +kernel

/-- Selections that agree with the state and that do not; and a tick up to the last cycle before a word in host memory is read
again. -/
theorem wit_StepRunsDecoded_moves :
    (([true, false] : List Bool).all fun b =>
      let v := { twoReady (some 0) 3 with agenda := [.event (.firingSelection 0 b)] }
      (v.unit 0).cur ≠ none && issueStuck v 0 == false && !awaitsLoad v 0) = true ∧
    (wordParts (.rix ⟨.none, .always, 0, none, none⟩ {})).isSome = true ∧
    (let p : Pkt := { bytes := [5], lastRead := 10 }
     let s : State := { (withQueue { st := .active, pkts := [p] }).setDev 0x30A 10 with agenda := [.tick 65535], tasks := [{ kind := 3, since := 10 }] }
     s.clk + 65535 < 2 ^ 64 ∧ (s.queues.all fun q => q.2.pkts.all fun p => fld p.bytes 0 1 == 5 && !p.met && decide (s.clk + 65535 < p.lastRead + 65536)) = true ∧
       (s.tasks.all fun k => k.kind == 3 && decide (s.clk + 65535 < k.since + 65536)) = true) := by decide +kernel

/-- Each guard that is not 00, on a token that lets the word run, on one that does not, and on a poisoned one. -/
theorem wit_GuardRule :
    (([(.ifTrue, { pay := 1 }, true), (.ifTrue, { pay := 0 }, false), (.ifTrue, { pay := 1, n := true }, false), (.ifFalse, { pay := 0 }, true),
       (.ifFalse, { pay := 8 }, false), (.order, { n := true }, true)] : List (Guard × Token × Bool)).all fun q =>
      let h : Hdr := ⟨.n16, q.1, 2, none, none⟩
      let w : Instr := .st h ⟨1, 0, 0, 6⟩
      let s := ready w [tk 8, tk 16, {}, q.2.1]
      (issueOf s h).any fun i => guardPasses h.g i.g == q.2.2 && !i.ns && !i.ps && !i.g.p) = true ∧
    guardOpcode 0x61 = true ∧ sideOpcode 0x61 = true ∧ guardOpcode 0x20 = false ∧
    (wordParts (.st ⟨.n16, .order, 2, none, none⟩ ⟨1, 0, 0, 6⟩)).any (fun p => p.1 == 0x61) = true ∧
    (wordParts (.add ⟨.n16, .order, 2, none, none⟩ {})).any (fun p => p.1 == 0x20) = true ∧
    (let w : Instr := .st ⟨.n16, .order, 2, none, none⟩ ⟨1, 0, 0, 6⟩
     (issueOf (ready w [tk 8, tk 16, {}, { p := true }]) ⟨.n16, .order, 2, none, none⟩).any (fun i => i.g.p) = true) := by decide +kernel

theorem wit_IssueFrames :
    let w : Instr := .add ⟨.n16, .always, 2, some ⟨.l, 1⟩, none⟩ {}
    let s := ready w [tk 8, tk 16]
    computes w = true ∧ goesOn (exec w s) = true ∧ (s.firing? s.focus).isSome = true := by decide +kernel

theorem wit_QuietSteps : quiet (.dramOvertemp 3 85 100) = true ∧ goesOn (exec (.dramOvertemp 3 85 100) State.reset) = true ∧
    quiet (.shareReweight 0) = true ∧ goesOn (exec (.shareReweight 0) (State.reset.setDev 0x30A 1024)) = true := by decide +kernel

theorem wit_MemoriesStayCanonical :
    let s := { (State.reset.modUnit 0 fun u => { u with scratch := [(3, 1)] }) with agenda := [.tick 5], mem := [(0, 1), (7, 255)] }
    Safety.memoriesOk s = true ∧ goesOn (step s) = true := by decide +kernel

/-! ### The spec's worked cases: one step each, results from its tables -/

/-- The header of a word that sends its result to slot 1, position l. -/
def to1 (ty : Ty) (ar : BitVec 2) : Hdr := ⟨ty, .always, ar, some ⟨.l, 1⟩, none⟩

/-- The payload and X of the token a word yields at its target, with the word fetched and run. -/
def yields (w : Instr) (toks : List Token) : Option (Word × Bool) :=
  if !wellFormed w then none
  else
    match step { (ready w toks) with agenda := [.fetch { u := placeUnit (wOp ((encode w).getD 0)) } 0] } with
    | .next t => ((t.firing? t.focus).bind fun g => tabGet? g.pos 4).map fun t => (t.pay, t.x)
    | _ => none

/-- R125's table of integer results. -/
theorem test_integer_table :
    yields (.add (to1 .i8 2) {}) [tk 100, tk 100] = some (-56, false) ∧
    yields (.adds (to1 .i8 2) {}) [tk 100, tk 100] = some (127, false) ∧
    yields (.subs (to1 .n8 2) {}) [tk 3, tk 5] = some (0, false) ∧
    yields (.div (to1 .i32 2) {}) [tk (-7), tk 2] = some (-3, false) ∧
    yields (.rem (to1 .i32 2) {}) [tk (-7), tk 2] = some (-1, false) ∧
    yields (.div (to1 .i32 2) {}) [tk (-2147483648), tk (-1)] = some (-2147483648, false) ∧
    yields (.rem (to1 .i32 2) {}) [tk (-2147483648), tk (-1)] = some (0, false) ∧
    yields (.div (to1 .n16 2) {}) [tk 9, tk 0] = some (65535, false) ∧
    yields (.rem (to1 .n16 2) {}) [tk 9, tk 0] = some (9, false) ∧
    yields (.mulh (to1 .i32 2) {}) [tk 0x40000000, tk 4] = some (1, false) ∧
    yields (.mulh (to1 .n32 2) {}) [tk 0xFFFFFFFF, tk 0xFFFFFFFF] = some (0xFFFFFFFE, false) ∧
    yields (.mulh (to1 .i32 2) {}) [tk (-1), tk (-1)] = some (0, false) ∧
    yields (.abs (to1 .i8 1) {}) [tk (-128)] = some (-128, false) := by decide +kernel

theorem test_shift_table :
    yields (.shr (to1 .i8 2) {}) [tk 0xF9, tk 1] = some (-4, false) ∧
    yields (.shr (to1 .n8 2) {}) [tk 0xF9, tk 1] = some (124, false) ∧
    yields (.shl (to1 .i32 2) {}) [tk 1, tk 33] = some (2, false) ∧
    yields (.rot (to1 .n8 2) {}) [tk 0x81, tk 1] = some (3, false) ∧
    yields (.clz (to1 .i32 1) {}) [tk 1] = some (31, false) ∧
    yields (.popc (to1 .n16 1) {}) [tk 0xFFFF] = some (16, false) ∧
    yields (.bfx (to1 .i32 2) {}) [tk 0xF00, tk 0x408] = some (-1, false) ∧
    yields (.bfx (to1 .n32 2) {}) [tk 0xF00, tk 0x408] = some (15, false) ∧
    yields (.bfi (to1 .n16 3) {}) [tk 0x1234, tk 0xF, tk 0x40C] = some (0xF234, false) ∧
    yields (.cmp (to1 .i8 2) ⟨false, 2, 0⟩) [tk 0xFF, tk 1] = some (1, false) ∧
    yields (.cmp (to1 .n8 2) ⟨false, 2, 0⟩) [tk 0xFF, tk 1] = some (0, false) ∧
    yields (.cvti (to1 .i8 1) ⟨false, 2, 0⟩) [tk 300] = some (44, false) ∧
    yields (.cvti (to1 .i8 1) ⟨false, 10, 0⟩) [tk 300] = some (127, false) ∧
    yields (.cvti (to1 .n32 1) ⟨false, 2, 0⟩) [tk (-1)] = some (4294967295, false) ∧
    yields (.cvti (to1 .n32 1) ⟨false, 10, 0⟩) [tk (-1)] = some (0, false) := by decide +kernel

/-- The case after R129: a product rounded on its own, and a fused one. -/
theorem test_fused :
    yields (.fmul (to1 .f32 2) {}) [tk 0x3F800800, tk 0x3F800800] = some (0x3F801000, false) ∧
    yields (.fadd (to1 .f32 2) {}) [tk 0x3F801000, tk 0xBF800000] = some (0x3A000000, false) ∧
    yields (.fma (to1 .f32 3) {}) [tk 0x3F800800, tk 0x3F800800, tk 0xBF800000] = some (0x3A000400, false) := by decide +kernel

/-- R134's table. Rounding codes of R34: 0 rne, 1 rz, 2 ru and 3 rd. -/
theorem test_special_functions :
    yields (.rcp (to1 .f32 1) {}) [tk 0x40400000] = some (0x3EAAAAAB, false) ∧
    yields (.rcp (to1 .f32 1) ⟨false, 1, 0⟩) [tk 0x40400000] = some (0x3EAAAAAA, false) ∧
    yields (.sqrt (to1 .f32 1) {}) [tk 0x40000000] = some (0x3FB504F3, false) ∧
    yields (.sqrt (to1 .f32 1) ⟨false, 2, 0⟩) [tk 0x40000000] = some (0x3FB504F4, false) ∧
    yields (.rsq (to1 .f32 1) {}) [tk 0x40800000] = some (0x3F000000, false) ∧
    yields (.ex2 (to1 .f32 1) {}) [tk 0xC3150000] = some (1, false) ∧
    yields (.ex2 (to1 .f32 1) {}) [tk 0x43000000] = some (0x7F800000, true) ∧
    yields (.ex2 (to1 .f32 1) ⟨false, 1, 0⟩) [tk 0x43000000] = some (0x7F7FFFFF, true) ∧
    yields (.lg2 (to1 .f32 1) {}) [tk 0x3E800000] = some (0xC0000000, false) := by decide +kernel

/-- R135's table. -/
theorem test_float_conversions :
    yields (.cvtf (to1 .f16 1) ⟨false, 0, 0xB⟩) [tk 0x7E] = some (0x5F00, false) ∧
    yields (.cvtf (to1 .e5m2 1) ⟨false, 0, 8⟩) [tk 1] = some (0, false) ∧
    yields (.cvtf (to1 .e5m2 1) ⟨false, 2, 8⟩) [tk 1] = some (1, false) ∧
    yields (.cvtf (to1 .e5m2 1) ⟨false, 0, 8⟩) [tk 0x7BFF] = some (0x7C, true) ∧
    yields (.cvtf (to1 .e5m2 1) ⟨false, 8, 8⟩) [tk 0x7BFF] = some (0x7B, true) ∧
    yields (.cvtf (to1 .f16 1) ⟨false, 0, 9⟩) [tk 0x47C3] = some (0x7C00, true) ∧
    yields (.cvtf (to1 .e4m3 1) ⟨false, 8, 10⟩) [tk 0x7F800000] = some (0x7E, true) ∧
    yields (.cvtf (to1 .e5m2 1) ⟨false, 0, 10⟩) [tk 0xFF800000] = some (0xFC, false) := by decide +kernel

/-- R137's table. -/
theorem test_integer_conversions :
    yields (.cvtfi (to1 .i32 1) ⟨false, 0, 10⟩) [tk 0x40200000] = some (2, false) ∧
    yields (.cvtfi (to1 .i32 1) ⟨false, 2, 10⟩) [tk 0x40200000] = some (3, false) ∧
    yields (.cvtfi (to1 .i32 1) ⟨false, 3, 10⟩) [tk 0xC0200000] = some (-3, false) ∧
    yields (.cvtfi (to1 .i32 1) ⟨false, 9, 10⟩) [tk 0x4F32D05E] = some (0x7FFFFFFF, true) ∧
    yields (.cvtfi (to1 .i32 1) ⟨false, 1, 10⟩) [tk 0x4F32D05E] = some (0xFFFFFFFFB2D05E00, true) ∧
    yields (.cvtfi (to1 .n32 1) ⟨false, 8, 10⟩) [tk 0xBF000000] = some (0, false) ∧
    yields (.cvtfi (to1 .n32 1) ⟨false, 11, 10⟩) [tk 0xBF000000] = some (0, true) ∧
    yields (.cvtfi (to1 .i8 1) ⟨false, 0, 8⟩) [tk 0x7E00] = some (0, false) ∧
    yields (.cvtif (to1 .f32 1) ⟨false, 0, 2⟩) [tk 16777217] = some (0x4B800000, false) ∧
    yields (.cvtif (to1 .f32 1) ⟨false, 2, 2⟩) [tk 16777217] = some (0x4B800001, false) ∧
    yields (.cvtif (to1 .e4m3 1) ⟨false, 0, 2⟩) [tk 1000] = some (0x7F, true) ∧
    yields (.cvtif (to1 .e4m3 1) ⟨false, 8, 2⟩) [tk 1000] = some (0x7E, true) := by decide +kernel

/-- The case after R160: a list of three nodes emits its elements with SEQ 0, 1 and 2 on channel 3 and yields 0; with a
count of 2 it emits two and yields the third node. -/
theorem test_list :
    (([(1, [tk 0x4000], [7, 9, 11], 0), (2, [tk 0x4000, tk 2], [7, 9], 0x4080)] : List (BitVec 2 × List Token × List Word × Word)).all fun q =>
      let w : Instr := .ldl (to1 .i32 q.1) ⟨0, 0, 3, 8⟩
      let s := { mapped (ready w q.2.1) with
        mem := [(0x90, 1), (0x104000, 0x40), (0x104001, 0x40), (0x104008, 7), (0x104040, 0x80), (0x104041, 0x40), (0x104048, 9), (0x104088, 11)] }
      match exec w s with
      | .next t => (t.firing? s.focus).any fun g =>
          (g.staged.map fun e => match e.eff with | .send 3 k _ => (k.pay, k.sq.toNat) | _ => (0, 99)) == q.2.2.1.zipIdx &&
            (tabGet? g.pos 4).any fun k => k.pay == q.2.2.2 && k.sq == 0
      | _ => false) = true := by decide +kernel

end Sys2Proof.Tests
end

section
/-! PROOFS. The guard rule (R56, O57): the verifier's guard test on every word, the verdict of the gate by the guard token, and
that every guard-capable word ends its issue as that verdict says. -/

namespace Sys2Proof.Machine

open Claims

/-! ### The verifier's guard test -/

/-- Every word's fields step opens with the guard test, which lets a guard through exactly on the opcodes of R66. -/
theorem check_eq_verdict_guardOk {w : Instr} {op : Nat} {h : Hdr} {lo : BitVec 28} (hp : wordParts w = some (op, h, lo)) :
    ∃ fields types, Instr.check w = verdict (guardOk h (guardOpcode op) && fields) types := by
  cases w <;> cases hp <;> exact ⟨_, _, by simp only [Instr.check, Bool.and_assoc]; rfl⟩

/-- A guard on a word that is not guard-capable is refused with CFG_FIELD. -/
theorem check_guard_refused {w : Instr} {op : Nat} {h : Hdr} {lo : BitVec 28} (hp : wordParts w = some (op, h, lo))
    (hg : h.g ≠ .always) (hc : guardOpcode op = false) : Instr.check w = some 2 := by
  obtain ⟨fields, types, hv⟩ := check_eq_verdict_guardOk hp
  simp [hv, hc, guardOk, hg, verdict]

/-! ### The gate's verdict by the guard token -/

/-- The model's verdict on a guard token is that of R56's table. -/
theorem guardPasses_iff_performs (g : Guard) (t : Token) : guardPasses g t = true ↔ performs g t := by
  cases g <;> simp [guardPasses, performs]

section
variable {s : State} {h : Hdr} {i : Issue} {side : Bool} (hi : issueOf s h = some i) (carries ownN : Bool)
include hi

/-- A poisoned guard decides before all else (log 89). -/
theorem gate_of_poisoned_guard (hg : h.g ≠ .always) (hp : i.g.p = true) : gate s h true carries ownN = .poison i := by
  simp [gate, hi, hg, hp]

theorem gate_of_not_performs (hp : ¬ (side = true ∧ i.g.p = true)) (hn : ¬ performs h.g i.g) :
    gate s h side carries ownN = .null i := by
  have hv : guardPasses h.g i.g = false := by simpa [← guardPasses_iff_performs] using hn
  have hq : side = true → h.g ≠ .always → i.g.p = false := fun hs _ => by simpa [hs] using hp
  simpa [gate, hi, hv] using hq

theorem gate_of_performs (hp : ¬ (side = true ∧ i.g.p = true)) (hr : performs h.g i.g) (hn : i.ns = false) (hps : i.ps = false) :
    gate s h side carries ownN = .run i := by
  have hv : guardPasses h.g i.g = true := (guardPasses_iff_performs h.g i.g).mpr hr
  have hq : side = true → h.g ≠ .always → i.g.p = false := fun hs _ => by simpa [hs] using hp
  simpa [gate, hi, hv, hn, hps] using hq

end

/-! ### Ending an issue as the gate says -/

/-- What every verdict but that to run leaves no choice in: nothing to issue changes nothing, null yields null tokens, and
poison consumed raises POISON. -/
def EndsAsGated (o : Host.Outcome State Fault Refusal) (s : State) (h : Hdr) : Gate → Prop
  | .idle => o = .next s
  | .null i => o = .next (giveNull s i h)
  | .poison i => o = .next (takePoison s i)
  | .run _ => True

/-- The verdict to run may be left aside. -/
theorem EndsAsGated.of_not_run {o : Host.Outcome State Fault Refusal} {s : State} {h : Hdr} {g : Gate}
    (ho : (∀ i, g ≠ .run i) → EndsAsGated o s h g) : EndsAsGated o s h g := by
  cases g with
  | run i => trivial
  | idle => exact ho fun _ hr => Gate.noConfusion hr
  | null i => exact ho fun _ hr => Gate.noConfusion hr
  | poison i => exact ho fun _ hr => Gate.noConfusion hr

theorem runPlain_endsAsGated (s : State) (h : Hdr) (run : Issue → State) :
    EndsAsGated (runPlain s h run) s h (gate s h false) := by
  unfold runPlain
  cases gate s h false <;> trivial

theorem runSide_endsAsGated (s : State) (h : Hdr) (run : Issue → State) (carries : Bool) :
    EndsAsGated (runSide s h run carries) s h (gate s h true carries) := by
  unfold runSide
  cases gate s h true carries <;> trivial

theorem runSideDual_endsAsGated (s : State) (h : Hdr) (run : Issue → State) (carries : Bool) :
    EndsAsGated (runSideDual s h run carries) s h (gate s h true carries) := by
  unfold runSideDual
  cases gate s h true carries <;> trivial

/-- Only an instruction that performs can reach the register space (R298). -/
theorem regSpaceStop_of_not_run {s : State} {h : Hdr} {side : Bool} (hn : ∀ i, gate s h side ≠ .run i) (block : Bool)
    (addr : Issue → Addr) : regSpaceStop s h side block addr = none := by
  unfold regSpaceStop
  split
  · exact absurd ‹_› (hn _)
  · rfl

theorem execLd_endsAsGated (h : Hdr) (f : FormM) (s : State) : EndsAsGated (execLd h f s) s h (gate s h false) := by
  refine .of_not_run fun hn => ?_
  simp only [execLd, regSpaceStop_of_not_run hn]
  exact runPlain_endsAsGated ..

theorem execLdl_endsAsGated (h : Hdr) (f : FormM) (s : State) : EndsAsGated (execLdl h f s) s h (gate s h false) := by
  refine .of_not_run fun hn => ?_
  simp only [execLdl, regSpaceStop_of_not_run hn]
  exact runPlain_endsAsGated ..

theorem execSt_endsAsGated (h : Hdr) (f : FormM) (s : State) : EndsAsGated (execSt h f s) s h (gate s h true) := by
  refine .of_not_run fun hn => ?_
  simp only [execSt, regSpaceStop_of_not_run hn]
  exact runSideDual_endsAsGated ..

theorem execIrrev_endsAsGated (h : Hdr) (f : FormS) (s : State) : EndsAsGated (execIrrev h f s) s h (gate s h true) := by
  refine .of_not_run fun hn => ?_
  simp only [execIrrev, regSpaceStop_of_not_run hn]
  exact runSideDual_endsAsGated ..

theorem runAtomic_endsAsGated (h : Hdr) (f : FormM) (s : State) (align n : Nat)
    (run : Issue → Loc → Nat → Nat → List Byte → State → State) :
    EndsAsGated (runAtomic h f s align n run) s h (gate s h true) := by
  refine .of_not_run fun hn => ?_
  simp only [runAtomic, regSpaceStop_of_not_run hn]
  exact runSideDual_endsAsGated ..

theorem runTransfer_endsAsGated (h : Hdr) (f : FormT) (s : State) (dual : Bool)
    (mk : Nat → Nat → Int → Option Nat → Nat → Eff) : EndsAsGated (runTransfer h f s dual mk) s h (gate s h true) := by
  cases dual with
  | false => exact runSide_endsAsGated ..
  | true => exact runSideDual_endsAsGated ..

/-- Every guard-capable word has one of the shared shapes of an issue, with the side-effect status of R66. -/
theorem exec_endsAsGated {w : Instr} {op : Nat} {h : Hdr} {lo : BitVec 28} (hp : wordParts w = some (op, h, lo))
    (hc : guardOpcode op = true) (s : State) :
    ∃ carries, EndsAsGated (exec w s) s h (gate s h (sideOpcode op) carries) := by
  cases w with
  | wr => cases hp; exact ⟨false, runPlain_endsAsGated ..⟩
  | ld => cases hp; exact ⟨false, execLd_endsAsGated ..⟩
  | ldl => cases hp; exact ⟨false, execLdl_endsAsGated ..⟩
  | st => cases hp; exact ⟨false, execSt_endsAsGated ..⟩
  | irrev => cases hp; exact ⟨false, execIrrev_endsAsGated ..⟩
  | amo | cas | oamo =>
    cases hp
    dsimp only [exec, execAmo, execCas, execOamo]
    exact ⟨false, runAtomic_endsAsGated ..⟩
  | tld | tst =>
    cases hp
    dsimp only [exec, execTld, execTst]
    exact ⟨false, runTransfer_endsAsGated ..⟩
  | outTok | pcon => cases hp; exact ⟨true, runSide_endsAsGated ..⟩
  | pset | pswap | pexp | cpy | call | tcall | launch | sealI => cases hp; exact ⟨false, runSideDual_endsAsGated ..⟩
  | pref | cwb | cinv | ojoin | falloc | ffree | acon | pdecl | prd | pstat | pdrop | strm | strmi | sstop | tlw | tlrd | ringaw
  | ringrel | pbinv | sbar | ret | kload | kdrop | gpatch | doneI | bar | barw | sealw | ivrd | srd | swr | trap | leave | yield
  | halt | crypt | meas | wdog => cases hp; exact ⟨false, runSide_endsAsGated ..⟩
  | _ => cases hp <;> exact absurd hc (by decide)

/-! ### The tokens given -/

@[simp] theorem Issue.tok_pay (i : Issue) (p : Word) : (i.tok p).pay = p := by
  unfold Issue.tok
  cases i.ops <;> rfl

/-- A result fires the slot, and each target position holds it with the dependencies that still order (R54, R251). -/
theorem give_at_targets {s : State} {i : Issue} {g : Firing} (hg : s.firing? i.f = some g) (h : Hdr) (t : Token) :
    ∃ g', (give s i h t).firing? i.f = some g' ∧ g'.fired = g.fired ++ [i.slot] ∧
      ∀ k, (h.t0 = some k ∨ h.t1 = some k) →
        tabGet? g'.pos (posKey k) = some { t with deps := s.carry (setUnion i.deps t.deps) } := by
  unfold give
  rw [State.firing_modFiring_same _ _ _ ?keepsId, hg]
  case keepsId => exact fun _ => rfl
  refine ⟨_, rfl, rfl, fun k hk => ?_⟩
  rcases hk with h0 | h1
  · cases h.t1 <;> simp [h0, tabGet?_tabSet]
  · cases h.t0 <;> simp [h1]

/-- Settles O57: the verifier's guard test, the gate's verdict followed by every guard-capable word, and the null tokens. -/
theorem guardRule : Obligations.GuardRule := by
  refine ⟨fun w op h lo hp hg hc => check_guard_refused hp hg hc, fun w op h lo s i hp hc hi hg => ?_, fun s h i g hf => ?_⟩
  · obtain ⟨carries, ho⟩ := exec_endsAsGated hp hc s
    refine ⟨fun hs hgp => ?_, fun hnp hn => ?_, fun hnp hr hns hps => gate_of_performs hi false false hnp hr hns hps⟩
    · rwa [hs, gate_of_poisoned_guard hi carries false hg hgp] at ho
    · rwa [gate_of_not_performs hi carries false hnp hn] at ho
  · obtain ⟨g', hg', hfired, htargets⟩ := give_at_targets hf h i.nullTok
    exact ⟨g', hg', hfired, fun k hk => ⟨_, htargets k hk, rfl, i.tok_pay 0⟩⟩

end Sys2Proof.Machine
end

section
/-! PROOFS. The integer instructions (R108, R121-R123): that the operand values and results of the model are those of R108,
that each operation's value is its row's, and the bit field instructions bit by bit. -/

namespace Sys2Proof

/-! ### Types (R23) -/

theorem Ty.signed_eq_code_le (ty : Ty) : ty.signed = decide (ty.code ≤ 3) := by cases ty <;> rfl
theorem Ty.width_pos (ty : Ty) : 0 < ty.width := by cases ty <;> decide
theorem Ty.width_le (ty : Ty) : ty.width ≤ 64 := by cases ty <;> decide

/-- Every width is a power of two, so it divides the number of patterns. -/
theorem Ty.width_dvd_two_pow (ty : Ty) : ty.width ∣ 2 ^ ty.width := by cases ty <;> decide

end Sys2Proof

namespace Sys2Proof.Machine

open Claims

/-! ### Patterns and values (R24, R108) -/

theorem patOf_eq_toNat_pat (ty : Ty) (v : Int) : patOf ty.width v = (pat ty v).toNat := (BitVec.toNat_ofInt v).symm

theorem natCast_patOf (n : Nat) (v : Int) : (patOf n v : Int) = v % (2 ^ n : Nat) :=
  Int.toNat_of_nonneg (Int.emod_nonneg _ (by positivity))

theorem signedOf_eq_bmod {n : Nat} (hn : 0 < n) (v : Nat) : signedOf n v = Int.bmod v (2 ^ n) := by
  have hhalf : 2 ^ n = 2 * 2 ^ (n - 1) := (mul_pow_sub_one hn.ne' 2).symm
  simp only [signedOf, Int.bmod, ← Int.natCast_mod]
  split <;> split <;> omega

theorem opval_eq_opNum (ty : Ty) (p : Word) : opval ty p = opNum ty p := by
  simp only [opval, opNum, ty.signed_eq_code_le, decide_eq_true_eq, signedOf_eq_bmod ty.width_pos]

theorem resultOf_eq_resPay (ty : Ty) (v : Int) : resultOf ty v = resPay ty v := by
  have hlow : patOf ty.width v % 2 ^ ty.width = patOf ty.width v := by
    rw [patOf_eq_toNat_pat]
    exact Nat.mod_eq_of_lt (pat ty v).isLt
  simp only [resultOf, fillTo, resPay, ty.signed_eq_code_le, decide_eq_true_eq, signedOf_eq_bmod ty.width_pos, hlow,
    natCast_patOf, Int.emod_bmod, ← BitVec.ofInt_natCast]

theorem intArgs_eq_args (h : Hdr) (f : FormA) (i : Issue) : intArgs h f i = args h f i := by
  simp only [intArgs, args, opval_eq_opNum]
  rfl

theorem tyMin_eq_least (ty : Ty) : tyMin ty = least ty := by simp only [tyMin, least, ty.signed_eq_code_le, decide_eq_true_eq]
theorem tyMax_eq_most (ty : Ty) : tyMax ty = most ty := by simp only [tyMax, most, ty.signed_eq_code_le, decide_eq_true_eq]

theorem least_le_most (ty : Ty) : least ty ≤ most ty := by
  have hhalf := Nat.two_pow_pos (ty.width - 1)
  have hall := Nat.two_pow_pos ty.width
  unfold least most
  split <;> omega

/-! ### An integer instruction that performs -/

/-- A word that performs answers the state its own rule gives. -/
theorem runPlain_of_run {s : State} {h : Hdr} {i : Issue} (hg : gate s h false = .run i) (run : Issue → State) :
    runPlain s h run = .next (run i) := by
  simp only [runPlain, hg]

/-- An integer instruction that performs gives the result of its value at the operands of R108. -/
theorem runInt_of_run {s : State} {h : Hdr} {f : FormA} {i : Issue} (hg : gate s h false = .run i)
    {v : List Int → Int} {n : Int} (hv : v (args h f i) = n) : runInt h f s v = .next (give s i h (i.result (resPay h.ty n) false)) := by
  rw [runInt, runPlain_of_run hg, resultOf_eq_resPay, intArgs_eq_args, hv]

/-! ### The operations of R121 -/

theorem intDiv_eq (ty : Ty) (a b : Int) :
    intDiv ty a b = if b = 0 then -1 else if a = least ty ∧ b = -1 then least ty else Int.tdiv a b := by
  simp [intDiv, truncDiv, tyMin_eq_least]

theorem intRem_eq (ty : Ty) (a b : Int) :
    intRem ty a b = if b = 0 then a else if a = least ty ∧ b = -1 then 0 else a - b * Int.tdiv a b := by
  simp [intRem, truncDiv, tyMin_eq_least]

theorem clampInt_eq_max_min (ty : Ty) (v : Int) : clampInt v (tyMin ty) (tyMax ty) = max (least ty) (min (most ty) v) := by
  have hle := least_le_most ty
  rw [tyMin_eq_least, tyMax_eq_most, clampInt]
  omega

/-- A bitwise operation on numbers is that on the w-bit patterns it acts on as `bop`. -/
theorem bitwiseOf_eq_toNat {ty : Ty} {op : Nat → Nat → Nat} {bop : BitVec ty.width → BitVec ty.width → BitVec ty.width}
    (hop : ∀ x y, op x.toNat y.toNat = (bop x y).toNat) (a b : Int) :
    bitwiseOf ty op a b = (bop (pat ty a) (pat ty b)).toNat := by
  rw [bitwiseOf, patOf_eq_toNat_pat, patOf_eq_toNat_pat, hop]

theorem andNot_toNat {w : Nat} (x y : BitVec w) : andNot w x.toNat y.toNat = (x &&& ~~~y).toNat := by
  rw [andNot, Nat.mod_eq_of_lt y.isLt, BitVec.toNat_and, BitVec.toNat_not]

theorem intClz_eq (ty : Ty) (a : Int) :
    intClz ty a = if pat ty a = 0 then (ty.width : Int) else ty.width - 1 - (Nat.log2 (pat ty a).toNat : Nat) := by
  rw [intClz, patOf_eq_toNat_pat, bitLen]
  by_cases hz : pat ty a = 0
  · simp [hz]
  · have hn : (pat ty a).toNat ≠ 0 := fun h0 => hz (BitVec.eq_of_toNat_eq (by simpa using h0))
    have hlt : (pat ty a).toNat.log2 < ty.width := (Nat.log2_lt hn).mpr (pat ty a).isLt
    simp only [hz, beq_iff_eq, hn, if_false]
    omega

theorem countOnes_eq_length_filter (k n : Nat) : countOnes k n = ((List.range k).filter n.testBit).length := by
  induction k generalizing n with
  | zero => rfl
  | succ k ih =>
    have hbit : (n.testBit 0).toNat = n % 2 := by rw [Nat.toNat_testBit, pow_zero, Nat.div_one]
    have hshift : n.testBit ∘ Nat.succ = (n / 2).testBit := funext fun j => Nat.testBit_succ n j
    rw [countOnes, ih, List.range_succ_eq_map, List.filter_cons, List.filter_map, hshift, ← hbit]
    cases n.testBit 0 <;> simp [Nat.add_comm]

theorem intPopc_eq (ty : Ty) (a : Int) :
    intPopc ty a = ((List.range ty.width).filter fun j => (pat ty a).getLsbD j).length := by
  rw [intPopc, patOf_eq_toNat_pat, countOnes_eq_length_filter]
  rfl

/-- Settles O1: each word is a runInt of an operation whose value is its row's. -/
theorem integerResults : Obligations.IntegerResults := by
  intro w h f v s i hrow hg
  cases w with
  | add | sub | mul | mad | min | max | abs | neg =>
    cases hrow
    dsimp only [exec, execAdd, execSub, execMul, execMad, execMin, execMax, execAbs, execNeg]
    exact runInt_of_run hg rfl
  | mulh => cases hrow; dsimp only [exec, execMulh]; exact runInt_of_run hg (Int.fdiv_eq_ediv_of_nonneg _ (Int.natCast_nonneg _))
  | div => cases hrow; dsimp only [exec, execDiv]; exact runInt_of_run hg (intDiv_eq ..)
  | rem => cases hrow; dsimp only [exec, execRem]; exact runInt_of_run hg (intRem_eq ..)
  | adds | subs => cases hrow; dsimp only [exec, execAdds, execSubs]; exact runInt_of_run hg (clampInt_eq_max_min ..)
  | and =>
    cases hrow; dsimp only [exec, execAnd]
    exact runInt_of_run hg (bitwiseOf_eq_toNat (fun x y => (BitVec.toNat_and x y).symm) ..)
  | or =>
    cases hrow; dsimp only [exec, execOr]
    exact runInt_of_run hg (bitwiseOf_eq_toNat (fun x y => (BitVec.toNat_or x y).symm) ..)
  | xor =>
    cases hrow; dsimp only [exec, execXor]
    exact runInt_of_run hg (bitwiseOf_eq_toNat (fun x y => (BitVec.toNat_xor x y).symm) ..)
  | andn => cases hrow; dsimp only [exec, execAndn]; exact runInt_of_run hg (bitwiseOf_eq_toNat andNot_toNat ..)
  | clz => cases hrow; dsimp only [exec, execClz]; exact runInt_of_run hg (intClz_eq ..)
  | popc => cases hrow; dsimp only [exec, execPopc]; exact runInt_of_run hg (intPopc_eq ..)
  | _ => cases hrow

/-! ### The shifts of R122 -/

theorem shiftAmt_eq_emod (ty : Ty) (b : Int) : shiftAmt ty b = (b % (ty.width : Nat)).toNat := by
  have hdvd : (ty.width : Int) ∣ (2 ^ ty.width : Nat) := Int.natCast_dvd_natCast.mpr ty.width_dvd_two_pow
  rw [shiftAmt, ← Int.emod_emod_of_dvd b hdvd, ← natCast_patOf, ← Int.natCast_mod, Int.toNat_natCast]

theorem intShl_eq (ty : Ty) (a b : Int) : intShl ty a b = a * 2 ^ (b % (ty.width : Nat)).toNat := by
  rw [intShl, shiftAmt_eq_emod, Nat.cast_pow, Nat.cast_ofNat]

theorem intShr_eq (ty : Ty) (a b : Int) : intShr ty a b = a / 2 ^ (b % (ty.width : Nat)).toNat := by
  rw [intShr, shiftAmt_eq_emod, Int.fdiv_eq_ediv_of_nonneg _ (Int.natCast_nonneg _), Nat.cast_pow, Nat.cast_ofNat]

/-- A rotation left by k < w is the sum of the part shifted up and the part that comes around: they share no bit. -/
theorem toNat_rotateLeft_eq_add {w k : Nat} (hk : k < w) (x : BitVec w) :
    (x.rotateLeft k).toNat = x.toNat * 2 ^ k % 2 ^ w + x.toNat / 2 ^ (w - k) := by
  have hsplit : 2 ^ w = 2 ^ (w - k) * 2 ^ k := by rw [← pow_add, Nat.sub_add_cancel hk.le]
  have hup : x.toNat * 2 ^ k % 2 ^ w = (x.toNat % 2 ^ (w - k)) <<< k := by
    rw [hsplit, Nat.mul_mod_mul_right, Nat.shiftLeft_eq]
  have haround : x.toNat / 2 ^ (w - k) < 2 ^ k := Nat.div_lt_of_lt_mul (hsplit ▸ x.isLt)
  rw [BitVec.toNat_rotateLeft, Nat.mod_eq_of_lt hk, Nat.shiftRight_eq_div_pow, Nat.shiftLeft_eq, hup,
    Nat.shiftLeft_add_eq_or_of_lt haround]

theorem intRot_eq (ty : Ty) (a b : Int) : intRot ty a b = ((pat ty a).rotateLeft (b % (ty.width : Nat)).toNat).toNat := by
  have hk : shiftAmt ty b < ty.width := Nat.mod_lt _ ty.width_pos
  rw [← shiftAmt_eq_emod, toNat_rotateLeft_eq_add hk, ← patOf_eq_toNat_pat]
  rfl

/-- Settles O2: each shift is a runInt whose value is its row's. -/
theorem shiftResults : Obligations.ShiftResults := by
  intro w h f v s i hrow hg
  cases w with
  | shl => cases hrow; dsimp only [exec, execShl]; exact runInt_of_run hg (intShl_eq ..)
  | shr => cases hrow; dsimp only [exec, execShr]; exact runInt_of_run hg (intShr_eq ..)
  | rot => cases hrow; dsimp only [exec, execRot]; exact runInt_of_run hg (intRot_eq ..)
  | _ => cases hrow

/-! ### The bit fields of R123 -/

/-- The width of a field control (R123): bits [14:8], held to w. -/
def fieldWidth (ty : Ty) (ctl : Nat) : Nat := min (ctl / 256 % 128) ty.width

theorem min_bits_eq_fieldWidth (ty : Ty) (ctl : Nat) : min (bits ctl 14 8) ty.width = fieldWidth ty ctl := rfl

theorem bits_low_eq_mod (ctl : Nat) : bits ctl 5 0 = ctl % 64 := congrArg (· % 64) (Nat.div_one ctl)

theorem bfxBit_eq_toNat_bitOf (ty : Ty) (a : Int) (p : Nat) : bfxBit ty (patOf ty.width a) p = (bitOf ty a p).toNat := by
  simp only [bfxBit, bitOf, patOf_eq_toNat_pat, ← Nat.toNat_testBit, BitVec.testBit_toNat, ty.signed_eq_code_le]
  split
  · rfl
  · cases decide (ty.code ≤ 3) <;> rfl

theorem testBit_bfxSum (ty : Ty) (a : Int) (n p j : Nat) :
    (bfxSum ty (patOf ty.width a) n p).testBit j = (decide (j < n) && bitOf ty a (p + j)) := by
  induction n generalizing p j with
  | zero => simp [bfxSum]
  | succ n ih =>
    have hbit : bfxSum ty (patOf ty.width a) (n + 1) p =
        Nat.bit (bitOf ty a p) (bfxSum ty (patOf ty.width a) n (p + 1)) := by
      rw [bfxSum, bfxBit_eq_toNat_bitOf, Nat.bit_val, Nat.add_comm]
    rw [hbit]
    cases j with
    | zero => simp
    | succ j => simp [Nat.testBit_bit_succ, ih, Nat.add_right_comm, Nat.add_assoc]

/-- The field of bfx: n bits of R123 from bit p up. -/
def bfxField (ty : Ty) (a : Int) (n p : Nat) : BitVec n := BitVec.ofNat n (bfxSum ty (patOf ty.width a) n p)

theorem getLsbD_bfxField (ty : Ty) (a : Int) (n p j : Nat) :
    (bfxField ty a n p).getLsbD j = (decide (j < n) && bitOf ty a (p + j)) := by
  rw [bfxField, BitVec.getLsbD_ofNat, testBit_bfxSum, ← Bool.and_assoc, Bool.and_self]

theorem toNat_bfxField (ty : Ty) (a : Int) (n p : Nat) : (bfxField ty a n p).toNat = bfxSum ty (patOf ty.width a) n p :=
  Nat.mod_eq_of_lt (Nat.lt_pow_two_of_testBit _ fun j hj => by simp [testBit_bfxSum, hj])

theorem msb_bfxField (ty : Ty) (a : Int) (n p : Nat) :
    (bfxField ty a n p).msb = (decide (0 < n) && bitOf ty a (p + n - 1)) := by
  rw [BitVec.msb_eq_getLsbD_last, getLsbD_bfxField]
  cases n with
  | zero => rfl
  | succ n => simp [← Nat.add_assoc]

/-- The sign that the model reads off the field's number is the field's top bit. -/
theorem msb_bfxField_eq_div_mod (ty : Ty) (a : Int) (n p : Nat) :
    (bfxField ty a n p).msb = (decide (n > 0) && bfxSum ty (patOf ty.width a) n p / 2 ^ (n - 1) % 2 == 1) := by
  have hpos : n - 1 < n ↔ n > 0 := by omega
  rw [BitVec.msb_eq_getLsbD_last, bfxField, BitVec.getLsbD_ofNat, Nat.testBit_eq_decide_div_mod_eq]
  simp only [hpos, beq_eq_decide]

/-- bfx takes its field as a signed number under a signed type, and as an unsigned one otherwise. -/
theorem intBfx_eq (ty : Ty) (a : Int) (ctl : Nat) :
    intBfx ty a ctl =
      let field := bfxField ty a (fieldWidth ty ctl) (ctl % 64)
      if ty.code ≤ 3 then field.toInt else field.toNat := by
  dsimp only
  rw [BitVec.toInt_eq_msb_cond, msb_bfxField_eq_div_mod, toNat_bfxField, intBfx, min_bits_eq_fieldWidth, bits_low_eq_mod,
    ty.signed_eq_code_le]
  by_cases hs : ty.code ≤ 3 <;> simp [hs]

/-- Below the field's width its bits, above it the sign of the field under a signed type, and else 0. -/
theorem getLsbD_intBfx (ty : Ty) (a : Int) (ctl : Nat) {m j : Nat} (hj : j < m) :
    (BitVec.ofInt m (intBfx ty a ctl)).getLsbD j =
      if j < fieldWidth ty ctl then bitOf ty a (ctl % 64 + j)
      else decide (ty.code ≤ 3) && decide (0 < fieldWidth ty ctl) && bitOf ty a (ctl % 64 + fieldWidth ty ctl - 1) := by
  rw [intBfx_eq, Bool.and_assoc, ← msb_bfxField]
  by_cases hs : ty.code ≤ 3
  · rw [if_pos hs, ← BitVec.signExtend, BitVec.getLsbD_signExtend, getLsbD_bfxField]
    by_cases hin : j < fieldWidth ty ctl <;> simp [hj, hin, hs]
  · rw [if_neg hs, BitVec.ofInt_natCast, BitVec.ofNat_toNat, BitVec.getLsbD_setWidth, getLsbD_bfxField]
    by_cases hin : j < fieldWidth ty ctl <;> simp [hj, hin, hs]

theorem execBfx_of_run {s : State} {h : Hdr} {f : FormA} {i : Issue} (hg : gate s h false = .run i) :
    exec (.bfx h f) s =
      .next (give s i h (i.result (resPay h.ty (intBfx h.ty (arg h f i 0) (control f i).toNat)) false)) := by
  dsimp only [exec, execBfx]
  rw [runPlain_of_run hg, resultOf_eq_resPay, intArgs_eq_args]
  rfl

theorem execBfi_of_run {s : State} {h : Hdr} {f : FormA} {i : Issue} (hg : gate s h false = .run i) :
    exec (.bfi h f) s =
      .next (give s i h (i.result (resPay h.ty (intBfi h.ty (arg h f i 0) (arg h f i 1) (control f i).toNat)) false)) := by
  dsimp only [exec, execBfi]
  rw [runPlain_of_run hg, resultOf_eq_resPay, intArgs_eq_args]
  rfl

/-- Adding the low k bits of q in the place of p's own replaces bits [l + k - 1 : l]: no borrow and no carry leaves them. -/
theorem testBit_replace (p q l k j : Nat) :
    (p - p / 2 ^ l % 2 ^ k * 2 ^ l + q % 2 ^ k * 2 ^ l).testBit j =
      if l ≤ j ∧ j < l + k then q.testBit (j - l) else p.testBit j := by
  have hp : p = 2 ^ l * (2 ^ k * (p / 2 ^ l / 2 ^ k)) + p % 2 ^ l + p / 2 ^ l % 2 ^ k * 2 ^ l := by
    calc
      p = 2 ^ l * (2 ^ k * (p / 2 ^ l / 2 ^ k) + p / 2 ^ l % 2 ^ k) + p % 2 ^ l := by rw [Nat.div_add_mod, Nat.div_add_mod]
      _ = _ := by ring
  have hnew : p - p / 2 ^ l % 2 ^ k * 2 ^ l + q % 2 ^ k * 2 ^ l =
      2 ^ l * (2 ^ k * (p / 2 ^ l / 2 ^ k) + q % 2 ^ k) + p % 2 ^ l := by
    rw [Nat.sub_eq_of_eq_add hp]
    ring
  rw [hnew, Nat.testBit_two_pow_mul_add _ (Nat.mod_lt _ (Nat.two_pow_pos l)),
    Nat.testBit_two_pow_mul_add _ (Nat.mod_lt _ (Nat.two_pow_pos k))]
  by_cases hlow : j < l
  · simp [hlow, Nat.not_le.mpr hlow, Nat.testBit_mod_two_pow]
  · by_cases hin : j - l < k
    · simp [hin, show l ≤ j ∧ j < l + k by omega, Nat.testBit_mod_two_pow]
    · have hat : j - l - k + k + l = j := by omega
      simp [hin, hlow, show ¬ (l ≤ j ∧ j < l + k) by omega, Nat.testBit_div_two_pow, hat]

/-- bfi as a replacement of the bits of its field that lie below w. -/
theorem intBfi_eq (ty : Ty) (a b : Int) (ctl : Nat) :
    intBfi ty a b ctl =
      let l := ctl % 64
      let k := min (fieldWidth ty ctl) (ty.width - l)
      (((pat ty a).toNat - (pat ty a).toNat / 2 ^ l % 2 ^ k * 2 ^ l + (pat ty b).toNat % 2 ^ k * 2 ^ l : Nat) : Int) := by
  simp only [intBfi, min_bits_eq_fieldWidth, bits_low_eq_mod, patOf_eq_toNat_pat]
  generalize min (fieldWidth ty ctl) (ty.width - ctl % 64) = k
  generalize ctl % 64 = l
  cases k with
  | zero => simp [Nat.mod_one]
  | succ k => simp [bits]

theorem getLsbD_pat_intBfi (ty : Ty) (a b : Int) (ctl : Nat) {j : Nat} (hj : j < ty.width) :
    (pat ty (intBfi ty a b ctl)).getLsbD j =
      if ctl % 64 ≤ j ∧ j < ctl % 64 + fieldWidth ty ctl then (pat ty b).getLsbD (j - ctl % 64)
      else (pat ty a).getLsbD j := by
  have hbelow : ctl % 64 ≤ j ∧ j < ctl % 64 + min (fieldWidth ty ctl) (ty.width - ctl % 64) ↔
      ctl % 64 ≤ j ∧ j < ctl % 64 + fieldWidth ty ctl := by omega
  rw [intBfi_eq, pat, BitVec.ofInt_natCast, BitVec.getLsbD_ofNat, testBit_replace]
  simp only [hj, decide_true, Bool.true_and, BitVec.testBit_toNat, hbelow]

/-- Settles O11: bfx by its field's bits, bfi by the bits it replaces. -/
theorem bitFieldResults : Obligations.BitFieldResults := by
  intro h f s i hg _ lsb width
  have hwidth : width ≤ 64 := (Nat.min_le_right ..).trans h.ty.width_le
  exact ⟨⟨_, execBfx_of_run hg, fun j hj => (getLsbD_intBfx _ _ _ (by omega)).trans (if_pos hj),
      fun j hj habove => (getLsbD_intBfx _ _ _ hj).trans (if_neg (Nat.not_lt.mpr habove))⟩,
    ⟨_, execBfi_of_run hg, fun j hj => getLsbD_pat_intBfi _ _ _ _ hj⟩⟩

end Sys2Proof.Machine
end
